-- ==== Sys2Proof/Word.lean ====
section
/-! DEFINITION. The machine's words: the widths the manual writes (00 R3, R4) and their plainest readings. -/

namespace Sys2Proof

abbrev Byte := BitVec 8
/-- One lane of a lane register (09 R209). -/
abbrev Word := BitVec 32
/-- A scalar register, a lane pair, a program counter (09 R209, 02 R27). -/
abbrev Long := BitVec 64
/-- One bit per lane of a group (00 R2). -/
abbrev Lanes := BitVec 32
/-- One instruction (02 R27). -/
abbrev InsWord := BitVec 96
/-- One relay instruction (14 R332). -/
abbrev RelayWord := BitVec 64
/-- One cache line of 128 bytes (05 R116); byte i is bits 8i+7:8i (00 R4). -/
abbrev Line := BitVec 1024
/-- One fetch line of 64 bytes (02 R27). -/
abbrev FetchLine := BitVec 512

/-- x[h:l] of the manual, as a number (00 R4). -/
def bits (x h l : Nat) : Nat := (x >>> l) % 2 ^ (h + 1 - l)

/-- Bit i of a number. -/
def bit (x i : Nat) : Bool := x.testBit i

/-- One for true. -/
def one (b : Bool) : Nat := if b then 1 else 0

end Sys2Proof
end

