-- ==== Sys2Proof/Syntax.lean ====
section
/-! DEFINITION. The instructions, one constructor for each row of the opcode table: the 96-bit instructions of a
split (02 R36-R46), the 64-bit relay instructions (14 R332), and the events of the machine's other agents (95),
each with what it carries in from outside the step. -/

namespace Sys2Proof

/-- The file of a register operand (02 R37). -/
inductive RegFile where
  | lane | scalar | special | latch
  deriving DecidableEq, Repr

/-- An 11-bit source field: policy, register, file (02 R36, R38). -/
structure Src where
  file : RegFile
  reg : BitVec 8
  policy : Bool
  deriving DecidableEq, Repr

/-- A 10-bit destination field (02 R36). -/
structure Dst where
  file : RegFile
  reg : BitVec 8
  deriving DecidableEq, Repr

/-- A predicate with its negation (02 R36 PRED). -/
structure Pred where
  neg : Bool
  idx : BitVec 3
  deriving DecidableEq, Repr

/-- HOLD: which source is copied (0 none, 1 A, 2 B, 3 C) and into which latch (02 R36, R39). -/
structure Hold where
  sel : BitVec 2
  latch : BitVec 2
  deriving DecidableEq, Repr

/-- What every instruction carries (02 R36): its predicate and its HOLD. -/
structure Guard where
  pred : Pred
  hold : Hold
  deriving DecidableEq, Repr

/-- Source B, or the immediate of the I form (02 R40). -/
inductive BOpd where
  | reg (s : Src)
  | imm (v : BitVec 32)
  deriving DecidableEq, Repr

/-- The format codes of TYPE (03 R60). -/
inductive Fmt where
  | bits | i8 | u8 | i16 | u16 | i32 | u32 | i64 | u64
  | f16 | bf16 | f32 | f64 | e4m3 | e5m2 | e8m0
  | bf16x2 | f16x2 | e4m3x4 | e5m2x4
  | int4g | int3g | uint4g | i8x4 | u8x4
  deriving DecidableEq, Repr

/-- A rounding mode of MOD or CRND (11 R253, 03 R75). -/
inductive RMode where
  | rne | rtz | rup | rdn
  deriving DecidableEq, Repr

/-- A scope (02 R41). -/
inductive Scope where
  | grp | blk | die | pkg | sys
  deriving DecidableEq, Repr

/-- An ordering (02 R41). -/
inductive MOrd where
  | plain | acq | rel | acqrel
  deriving DecidableEq, Repr

/-- An access size: 1, 2, 4, 8 or 16 bytes a lane (02 R41). -/
inductive MSize where
  | b8 | b16 | b32 | b64 | b128
  deriving DecidableEq, Repr

/-- MATTR (02 R41). -/
structure MAttr where
  cache : BitVec 2
  scope : Scope
  ord : MOrd
  size : MSize
  deriving DecidableEq, Repr

/-- The index part of an M-format address (02 R40, R42): an index register with its scale 0-4, sign choice and
20-bit offset, or the 32-bit offset of the I form. -/
inductive MIdx where
  | reg (i : Src) (scale : Fin 5) (isx : Bool) (off : BitVec 20)
  | off (o : BitVec 32)
  deriving DecidableEq, Repr

/-- A memory operand (02 R42). -/
structure MemOpd where
  base : Src
  idx : MIdx
  deriving DecidableEq, Repr

/-- A B-format target: signed lines and a slot 0-4 (02 R43). -/
structure Target where
  slot : Fin 5
  disp : BitVec 29
  deriving DecidableEq, Repr

/-- The predicate write of ICMP, FCMP and FCLASS (10 R236). -/
structure PredWrite where
  comb : BitVec 2
  q : Pred
  pd : BitVec 3
  deriving DecidableEq, Repr

/-- A comparison (10 R229, 11 R257). -/
inductive Cmp where
  | eq | ne | lt | le | gt | ge
  deriving DecidableEq, Repr

/-- FCMP's conditions (11 R257). -/
inductive FCmp where
  | eq | ne | lt | le | gt | ge | num | nan
  deriving DecidableEq, Repr

/-- The four forms of S2P (09 R222). -/
inductive S2PForm where
  | toPred (pk : BitVec 3) (a : Src)
  | rev (d : Dst) (pk : BitVec 3)
  | all (a : Src)
  | vr (d : Dst)
  deriving DecidableEq, Repr

/-- The operation of SCAN and LRED (10 R242). -/
inductive RedOp where
  | add | min | max | and | or | xor
  deriving DecidableEq, Repr

/-- The operation of ATOM, ATOMS, PROM and FATOM (07 R171). -/
inductive AtomOp where
  | add | and | or | xor | min | max | exch | inc
  deriving DecidableEq, Repr

/-- The operation of ATOMF and ATOMFS (07 R174). -/
inductive AtomFOp where
  | add | min | max
  deriving DecidableEq, Repr

/-- SHFL's source lane (10 R241). -/
inductive ShflMode where
  | idx | up | down | xor
  deriving DecidableEq, Repr

/-- VOTE's forms (10 R242). -/
inductive VoteMode where
  | all | any | uni
  deriving DecidableEq, Repr

/-- FCPYS's sign rule (11 R256). -/
inductive SignMode where
  | cpy | neg | xor
  deriving DecidableEq, Repr

/-- CVT's mode: a fixed rounding mode, or `.fmt` with its seed (11 R261). -/
inductive CvtMode where
  | fixed (rm : RMode)
  | fmt (seed : Src)
  deriving DecidableEq, Repr

/-- An endpoint space of a porter operand (08 R186). -/
inductive PSpace where
  | vm | ds | bs | lf | rg
  deriving DecidableEq, Repr

/-- CTRL32 of the copies (08 R190). -/
structure PCtl where
  esz : BitVec 4
  cidx : BitVec 20
  csp : Bool
  cnt : Bool
  ssp : PSpace
  dsp : PSpace
  deriving DecidableEq, Repr

/-- The three forms of RTE (17 R393). -/
inductive RteForm where
  | plain
  | to (a : Src)
  | skip
  deriving DecidableEq, Repr

/-- The three forms of GETFLT (17 R395). -/
inductive GetfltForm where
  | fault | pc | gser
  deriving DecidableEq, Repr

/-- A fence class of FENCEA (07 R178). -/
inductive EngClass where
  | porter | matrix | relay
  deriving DecidableEq, Repr

/-- The target of PREF (07 R179). -/
inductive PrefKind where
  | l1 | l2 | excl
  deriving DecidableEq, Repr

/-- Kind of CTX.refl (18 R431). -/
inductive ReflKind where
  | retry | refl | kill
  deriving DecidableEq, Repr

/-- The form of PURSE (18 R435). -/
inductive PurseForm where
  | rem | used | granted
  deriving DecidableEq, Repr

/-- The form of INVLVA (04 R109). -/
inductive InvSel where
  | range | asid | glob
  deriving DecidableEq, Repr

/-- TNORM's kind (13 R309). -/
inductive NormKind where
  | max | one | inf | frob
  deriving DecidableEq, Repr

/-- A packet's kind (14 R345 KIND); `reserved` holds a code of 7-15, which is discarded on receipt. -/
inductive PktKind where
  | contribution | partialNode | result | fxfer | fatomReq | fatomReply | refusal
  | reserved (code : BitVec 4)
  deriving DecidableEq, Repr

/-- A packet of the fabric or of the die ports: the header of 14 R345 and its payload. -/
structure Packet where
  kind : PktKind
  addr : Long
  seq : BitVec 32
  cid : BitVec 32
  epoch : BitVec 32
  rlo : BitVec 16
  rhi : BitVec 16
  sctx : BitVec 16
  dctx : BitVec 16
  spkg : BitVec 12
  dpkg : BitVec 12
  chunk : BitVec 24
  hops : BitVec 4
  payload : List Byte
  deriving DecidableEq, Repr

/-- One access of the host or of a peer device into the package (19 R439, 01 R20): a read, a write, an AtomicOp (0
FetchAdd, 1 Swap, 2 CAS with the value compared and the new one), and the accesses through a virtual function's BAR0. -/
inductive BusAccess where
  | read (ma : BitVec 48) (bytes : Nat)
  | write (ma : BitVec 48) (data : List Byte)
  | atomic (ma : BitVec 48) (wide : Bool) (op : Fin 3) (a b : Nat)
  | vfRead (vf : Nat) (off : BitVec 28) (bytes : Nat)
  | vfWrite (vf : Nat) (off : BitVec 28) (data : List Byte)
  deriving DecidableEq, Repr

/-- The root's boot settings (18 R409), with the boot PARTMODE (01 R18). -/
structure BootSettings where
  purse : Nat
  gbbase : Long
  gblog2 : Nat
  fqbase : Long
  fqlog2 : Nat
  troot : Nat
  partmode : Nat
  deriving DecidableEq, Repr

/-- A firmware image as the ROM judges it (19 R443, R444): the bytes of its header that are not 0, by offset, and its
payload; whether the keys of its slot match their fused digests and each of the two signatures verifies under them; and
its SHA-384 digest. -/
structure FwImage where
  header : List (Nat × Byte)
  payload : List Byte
  keysMatch : Bool
  edOk : Bool
  mlOk : Bool
  digest : Nat
  deriving DecidableEq, Repr

/-- How a completion of a non-posted request ends (07 R168). -/
inductive CplStatus where
  | ok | unsupported | aborted
  deriving DecidableEq, Repr

/-- What a soft error or a self-test shows (04 R87, 12 R287). -/
inductive EccResult where
  | clean | corrected | uncorrectable
  deriving DecidableEq, Repr

/-- Where the check of a read finds a soft error: a line of stack DRAM or of the second tier (04 R87, 19 R442), a copy
in an L1 (05 R116), a line of an L2 (05 R125), an entry of the directory (05 R128), a word of block scratchpad (08
R187). -/
inductive EccSite where
  | dram (ma : BitVec 48)
  | l1 (core ctx : Nat) (va : Long)
  | l2 (die asid : Nat) (va : Long)
  | dir (asid : Nat) (va : Long)
  | scratch (block off : Nat)
  deriving DecidableEq, Repr

/-- Whose transfer is acknowledged (08 R203): an operation's, that of a packet which a context here has sent, or that
of a packet which a context of another package has sent to a counter here. -/
inductive Acked where
  | op (id : Nat)
  | packet (ctx : Nat)
  | credit (pkg : BitVec 12) (ctx : BitVec 16)
  deriving DecidableEq, Repr

/-- What an event carries in from outside the step: the object it concerns and what arrives with it.
DESIGN CHOICE (unsafe), log entry 4. -/
inductive Input where
  | nothing
  -- resets (19 R449); a package, Paorid or die reset that is asked for, or one that nothing has asked for
  | packageReset
  | paoridReset
  | zcDieReset (die : Nat) (asked : Bool)
  | coreReset (core : Nat)
  | quadrantReset (q : Nat)
  | porterReset (porter : Nat)
  | relayEngineReset (eng : Nat)
  | contextReset (ctx : Nat)
  | porterNoProgress (porter : Nat)
  | relayNoProgress (eng : Nat)
  -- boot and management (19 R443-R448)
  | imageVerify (ty : Nat)
  | stageReady (tier gtroot : Nat) (globals : List Nat)
  | partmodeChange (mode : Nat)
  | directorySliceFence (j : Nat)
  | directorySliceLost (j : Nat) (powerOn : Bool)
  | sliceRecoveryComplete (j : Nat)
  | vfContextGrant (vf kind b c : Nat)
  | getCounter (k i : Nat)
  | getSensorReading (id : Nat)
  | setRootSettings (b : BootSettings)
  | grantRootPurse (uj : Nat)
  | commitSvn (ty : Nat)
  | requestUpdate (img : FwImage)
  | verifyComplete (ty : Nat)
  | activateFirmware (ty : Nat)
  | challenge (nonce : Nat)
  -- the host and peer edge (19 R439-R442)
  | numvfsWrite (n : Nat)
  | functionLevelReset (vf : Nat)
  | hostMemoryAccess (a : BusAccess)
  | peerDeviceAccess (a : BusAccess)
  | peerwinWrite (n : Nat) (v : Long) (ctx : Option Nat)
  | qtailWrite (q : Nat) (v : BitVec 32)
  | qctlWrite (q : Nat) (v : BitVec 32)
  | qctlFaultClear (q : Nat)
  | registerWrite (off : Nat) (wide : Bool) (v : Long)
  | nonpostedCompletion (tag : Nat) (rid : BitVec 16) (st : CplStatus) (data : List Byte)
  | completionTimeout (tag : Nat)
  | cxlLinkDown (link : Nat)
  | flitReplay (link : Nat)
  | laneGroupRetrainFail (link lane : Nat)
  -- scheduling (15, 16, 17, 18)
  | commandAccept (q : Nat)
  | dependenceComplete (grid : Nat)
  | admission (grid : Nat)
  | placementOpportunity (part : Nat)
  | gridRetire (grid : Nat)
  | groupFinalExit (gid : Nat)
  | splitBoost (gid sp : Nat)
  | curfewExpiry (inn : Nat)
  | lineFetch (q : Nat) (asid : Nat) (line : Long) (flip : FetchLine)
  | sliceEnd (ctx : Nat)
  | purseCharge (charges : List (Nat × Nat × Nat))
  | cutDrainComplete (ctx : Nat)
  | drainDeadline (block : Nat)
  -- memory system (04, 05)
  | storePerform (core : Nat)
  | acquireLeaseExpiry (die asid : Nat) (va : Long)
  | directoryRead (die ctx : Nat) (va : Long)
  | directoryWrite (die ctx : Nat) (va : Long)
  | directoryWriteBack (die asid : Nat) (va : Long)
  | patrolScrub (site : EccSite) (found : EccResult)
  | frameScrubComplete (mfn : Nat)
  | producerCompletion (id : Nat)
  | chunkGrant (q : Nat)
  | evwaitTimeout (gid sp : Nat)
  -- porters and the fabric (08, 14)
  | porterDispatch (porter : Nat)
  | transferWritten (op off : Nat) (ecc : EccResult)
  | transferAcknowledgement (sender : Acked) (seq : BitVec 32)
  | porterOperationEnd (op : Nat)
  | fxferData (port : Nat) (p : Packet) (cnt : Option (Nat × Nat))
  | fatomRequest (port : Nat) (p : Packet) (op : AtomOp) (ty : Fmt) (v : Long)
  | fatomReply (ctx : Nat) (seq : BitVec 32) (old status : Long)
  | refusal (ctx : Nat) (seq : BitVec 32) (cls : BitVec 8) (record : BitVec 256)
  | contribution (eng port : Nat) (p : Option Packet) (ecc : Bool)
  | partialArrival (eng port : Nat) (p : Packet) (ecc : Bool)
  | resultArrival (eng port : Nat) (p : Packet) (ecc : Bool)
  | negativeAcknowledgement (ctx : Nat) (seq : BitVec 32)
  | packetResendTimeout (ctx : Nat) (seq : BitVec 32)
  -- the array (12, 13)
  | passStart (q : Nat)
  | passEnd (q : Nat) (residueFail : Option (Fin 4)) (off : Nat) (ecc : EccResult)
  | selfTestInject (q : Nat) (rb : Fin 4) (fail1 fail2 : Bool)
  | loftFillComplete (q off : Nat) (ecc : EccResult)
  | columnCommit (q : Nat) (bad : Option (Fin 4)) (early : List Nat) (off : Nat) (ecc : EccResult)
  | factorisationEnd (q : Nat) (early : List Nat) (off : Nat) (ecc : EccResult)
  -- power and ports (04 R89, 14 R343-R347)
  | linkLevelRetry (port : Nat)
  | portBreakout (port ways : Nat)
  | routeTable (pkg : Nat) (routes : List (Nat × Nat))
  | rudiUudPacket (port : Nat)
  deriving DecidableEq, Repr

/-- The instructions and events of the opcode table. An event reads what it carries from the state (`Input`).
DESIGN CHOICE (safe), log entry 80. -/
inductive Instr where
  -- control (15 R358)
  | nop (g : Guard)
  | bra (g : Guard) (t : Target)
  | bri (g : Guard) (a : Src)
  | brx (g : Guard) (t : Target) (b c : Src)
  | call (g : Guard) (d : Dst) (t : Target)
  | calli (g : Guard) (d : Dst) (a : Src)
  | ret (g : Guard) (a : Src)
  | join (g : Guard) (t : Target)
  | wsync (g : Guard)
  | loop (g : Guard) (d : Dst) (t : Target)
  | bar (g : Guard) (die : Bool) (id : BitVec 4) (n : BitVec 10)
  | bara (g : Guard) (die : Bool) (id : BitVec 4) (n : BitVec 10)
  | barw (g : Guard) (die : Bool) (id : BitVec 4)
  | yield (g : Guard)
  | exit (g : Guard)
  | spawn (g : Guard) (k : BitVec 3) (d : Dst) (a : Src) (t : Target)
  | spawnw (g : Guard) (k : BitVec 3) (d : Dst) (a : Src) (t : Target)
  | innset (g : Guard) (d : Dst) (a b : Src)
  | curfew (g : Guard) (a : Option Src)
  | launch (g : Guard) (d : Dst) (a b : Src)
  | lwait (g : Guard) (d : Dst) (a : Option Src)
  -- registers (09 R220)
  | mov (g : Guard) (ty : Fmt) (d : Dst) (a : Src)
  | movi (g : Guard) (zx : Bool) (d : Dst) (imm : BitVec 32)
  | movhi (g : Guard) (d : Dst) (imm : BitVec 32)
  | sel (g : Guard) (k : BitVec 3) (ty : Fmt) (d : Dst) (a : Src) (b : BOpd)
  | plop (g : Guard) (lut : BitVec 8) (pd pa pb pc : BitVec 3)
  | s2p (g : Guard) (f : S2PForm)
  | getc (g : Guard) (hi : Bool) (d : Dst) (idx : BitVec 8)
  | setc (g : Guard) (hi : Bool) (idx : BitVec 8) (a : Src)
  | setfmt (g : Guard) (mask : Option Src) (b : BOpd)
  | setscl (g : Guard) (k : BitVec 3) (b : BOpd)
  | racq (g : Guard) (try_ : Bool) (mask : BitVec 6) (pd : BitVec 3)
  | rrel (g : Guard) (mask : BitVec 6)
  | fewait (g : Guard) (r : Option (Src × BitVec 5))
  | fechk (g : Guard) (pd : BitVec 3) (a : Src) (n : BitVec 5)
  -- integer and address (10 R229)
  | iadd (g : Guard) (sat : Bool) (ty : Fmt) (d : Dst) (a : Src) (b : BOpd)
  | iadd3 (g : Guard) (ty : Fmt) (d : Dst) (a : Src) (b : BOpd) (c : Src)
  | iaddc (g : Guard) (ty : Fmt) (d : Dst) (a : Src) (b : BOpd) (cin : Pred) (cout : BitVec 3)
  | isub (g : Guard) (sat : Bool) (ty : Fmt) (d : Dst) (a : Src) (b : BOpd)
  | imul (g : Guard) (ty : Fmt) (d : Dst) (a : Src) (b : BOpd)
  | imulhi (g : Guard) (ty : Fmt) (d : Dst) (a : Src) (b : BOpd)
  | imad (g : Guard) (ty : Fmt) (d : Dst) (a : Src) (b : BOpd) (c : Src)
  | imadw (g : Guard) (ty : Fmt) (d : Dst) (a : Src) (b : BOpd) (c : Src)
  | idiv (g : Guard) (rem : Bool) (ty : Fmt) (d : Dst) (a : Src) (b : BOpd)
  | imin (g : Guard) (ty : Fmt) (d : Dst) (a : Src) (b : BOpd)
  | imax (g : Guard) (ty : Fmt) (d : Dst) (a : Src) (b : BOpd)
  | iabs (g : Guard) (sat : Bool) (ty : Fmt) (d : Dst) (a : Src)
  | isad (g : Guard) (ty : Fmt) (d : Dst) (a : Src) (b : BOpd) (c : Src)
  | isat (g : Guard) (tgt : Fin 6) (ty : Fmt) (d : Dst) (a : Src)
  | lop3 (g : Guard) (ty : Fmt) (d : Dst) (a b c : Src) (lut : BitVec 8)
  | shl (g : Guard) (wrap : Bool) (ty : Fmt) (d : Dst) (a : Src) (b : BOpd)
  | shr (g : Guard) (wrap : Bool) (ty : Fmt) (d : Dst) (a : Src) (b : BOpd)
  | sar (g : Guard) (wrap : Bool) (ty : Fmt) (d : Dst) (a : Src) (b : BOpd)
  | fshf (g : Guard) (right wrap : Bool) (ty : Fmt) (d : Dst) (a : Src) (b : BOpd) (c : Src)
  | bfe (g : Guard) (ty : Fmt) (d : Dst) (a : Src) (b : BOpd)
  | bfi (g : Guard) (ty : Fmt) (d : Dst) (a : Src) (b : BOpd) (c : Src)
  | bmsk (g : Guard) (ty : Fmt) (d : Dst) (a : Src) (b : BOpd)
  | popc (g : Guard) (ty : Fmt) (d : Dst) (a : Src)
  | clz (g : Guard) (ty : Fmt) (d : Dst) (a : Src)
  | brev (g : Guard) (ty : Fmt) (d : Dst) (a : Src)
  | prmt (g : Guard) (d : Dst) (a : Src) (b : BOpd) (c : Src)
  | icmp (g : Guard) (cc : Cmp) (ty : Fmt) (a : Src) (b : BOpd) (w : PredWrite)
  | lea (g : Guard) (d : Dst) (m : MemOpd)
  | idot4 (g : Guard) (ub sat : Bool) (ty : Fmt) (d : Dst) (a : Src) (b : BOpd) (c : Src)
  -- floating point and conversion (11 R253)
  | fadd (g : Guard) (rm : RMode) (ty : Fmt) (d : Dst) (a : Src) (b : BOpd)
  | fsub (g : Guard) (rm : RMode) (ty : Fmt) (d : Dst) (a : Src) (b : BOpd)
  | fmul (g : Guard) (rm : RMode) (ty : Fmt) (d : Dst) (a : Src) (b : BOpd)
  | ffma (g : Guard) (rm : RMode) (ty : Fmt) (d : Dst) (a : Src) (b : BOpd) (c : Src)
  | fmin (g : Guard) (num : Bool) (ty : Fmt) (d : Dst) (a : Src) (b : BOpd)
  | fmax (g : Guard) (num : Bool) (ty : Fmt) (d : Dst) (a : Src) (b : BOpd)
  | fcmp (g : Guard) (cc : FCmp) (ty : Fmt) (a : Src) (b : BOpd) (w : PredWrite)
  | fcpys (g : Guard) (m : SignMode) (ty : Fmt) (d : Dst) (a : Src) (b : BOpd)
  | frnd (g : Guard) (rm : RMode) (ty : Fmt) (d : Dst) (a : Src)
  | frcp (g : Guard) (rm : RMode) (ty : Fmt) (d : Dst) (a : Src)
  | frsq (g : Guard) (rm : RMode) (ty : Fmt) (d : Dst) (a : Src)
  | fsqrt (g : Guard) (rm : RMode) (ty : Fmt) (d : Dst) (a : Src)
  | fdiv (g : Guard) (rm : RMode) (ty : Fmt) (d : Dst) (a : Src) (b : BOpd)
  | fexp2 (g : Guard) (ty : Fmt) (d : Dst) (a : Src)
  | flog2 (g : Guard) (ty : Fmt) (d : Dst) (a : Src)
  | ftanh (g : Guard) (ty : Fmt) (d : Dst) (a : Src)
  | ferf (g : Guard) (ty : Fmt) (d : Dst) (a : Src)
  | fsin (g : Guard) (ty : Fmt) (d : Dst) (a : Src)
  | fcos (g : Guard) (ty : Fmt) (d : Dst) (a : Src)
  | fclass (g : Guard) (ty : Fmt) (a : Src) (b : BOpd) (w : PredWrite)
  | fscale (g : Guard) (rm : RMode) (ty : Fmt) (d : Dst) (a : Src) (b : BOpd)
  | fdot2 (g : Guard) (ty : Fmt) (d : Dst) (a b c : Src)
  | fdot4 (g : Guard) (mix : Bool) (ty : Fmt) (d : Dst) (a b c : Src)
  | cvt (g : Guard) (m : CvtMode) (sat : Bool) (elt : BitVec 2) (dt st : Fmt) (d : Dst) (a : Src)
  | cvtn (g : Guard) (k : BitVec 3) (ty : Fmt) (d : Dst) (a seed : Src)
  | qntg (g : Guard) (scale : Bool) (rm : RMode) (ty : Fmt) (d : Dst) (a : Src) (b c : Option Src)
  | dqnt (g : Guard) (grp : BitVec 2) (ty : Fmt) (d : Dst) (a b : Src) (c : Option Src)
  -- cross-lane (10 R239)
  | shfl (g : Guard) (m : ShflMode) (ty : Fmt) (d : Dst) (a : Src) (b : BOpd) (pv : Option (BitVec 3))
  | vote (g : Guard) (m : VoteMode) (q : Pred) (pd : BitVec 3) (ballot : Option Dst)
  | scan (g : Guard) (op : RedOp) (excl : Bool) (ty : Fmt) (d : Dst) (a : Src)
  | lred (g : Guard) (op : RedOp) (ty : Fmt) (d : Dst) (a : Src)
  | topk (g : Guard) (w : Bool) (ty : Fmt) (d : Dst) (a b : Src) (k : BitVec 4) (seg : BitVec 3) (pf : Option (BitVec 3))
  | bsort (g : Guard) (desc : Bool) (ty : Fmt) (d : Dst) (a b : Src) (seg : BitVec 3)
  | lmatch (g : Guard) (ty : Fmt) (d : Dst) (a : Src)
  | compact (g : Guard) (d : Dst) (a : Src) (q : Pred)
  | lhist (g : Guard) (rank : Bool) (d : Dst) (a : Src) (b : BOpd)
  -- loads, stores and atomics (07 R158)
  | ld (g : Guard) (ty : Fmt) (at_ : MAttr) (d : Dst) (m : MemOpd)
  | st (g : Guard) (ty : Fmt) (at_ : MAttr) (d : Dst) (m : MemOpd)
  | lds (g : Guard) (ty : Fmt) (at_ : MAttr) (d : Dst) (m : MemOpd)
  | sts (g : Guard) (ty : Fmt) (at_ : MAttr) (d : Dst) (m : MemOpd)
  | ldd (g : Guard) (ty : Fmt) (at_ : MAttr) (d : Dst) (m : MemOpd)
  | std (g : Guard) (ty : Fmt) (at_ : MAttr) (d : Dst) (m : MemOpd)
  | ldk (g : Guard) (ty : Fmt) (at_ : MAttr) (d : Dst) (m : MemOpd)
  | stk (g : Guard) (ty : Fmt) (at_ : MAttr) (d : Dst) (m : MemOpd)
  | atom (g : Guard) (op : AtomOp) (ty : Fmt) (at_ : MAttr) (d : Dst) (m : MemOpd)
  | atoms (g : Guard) (op : AtomOp) (ty : Fmt) (at_ : MAttr) (d : Dst) (m : MemOpd)
  | atomf (g : Guard) (op : AtomFOp) (ty : Fmt) (at_ : MAttr) (d : Dst) (m : MemOpd)
  | atomfs (g : Guard) (op : AtomFOp) (ty : Fmt) (at_ : MAttr) (d : Dst) (m : MemOpd)
  | cas (g : Guard) (ty : Fmt) (at_ : MAttr) (d : Dst) (m : MemOpd)
  | cass (g : Guard) (ty : Fmt) (at_ : MAttr) (d : Dst) (m : MemOpd)
  | prom (g : Guard) (op : AtomOp) (ty : Fmt) (at_ : MAttr) (d : Dst) (m : MemOpd)
  | amaxr (g : Guard) (ty : Fmt) (at_ : MAttr) (d : Dst) (m : MemOpd)
  | fence (g : Guard) (o : MOrd) (sc : Scope)
  | fencea (g : Guard) (c : EngClass)
  | pref (g : Guard) (k : PrefKind) (cache : BitVec 2) (m : MemOpd)
  | cwb (g : Guard) (cache : BitVec 2) (m : MemOpd)
  | cinv (g : Guard) (cache : BitVec 2) (sc : Scope) (m : MemOpd)
  -- porters, scratchpads and arrivals (08 R189)
  | pcopy (g : Guard) (ctl : PCtl) (d : Dst) (a b c : Src)
  | pcopy2 (g : Guard) (ctl : PCtl) (d : Dst) (a b c : Src)
  | pgath (g : Guard) (ctl : PCtl) (d : Dst) (a b c : Src)
  | pscat (g : Guard) (ctl : PCtl) (d : Dst) (a b c : Src)
  | pwait (g : Guard) (sc : Scope) (d : Dst) (a : Option Src)
  | pyield (g : Guard) (sc : Scope) (a : Option Src) (slot : Fin 5) (disp : BitVec 26)
  | pstat (g : Guard) (recd : Bool) (d : Dst) (a : Src)
  | pcancel (g : Guard) (d : Dst) (a : Option Src)
  | arrset (g : Guard) (die : Bool) (a b : Src)
  | arrwait (g : Guard) (die : Bool) (sc : Scope) (d : Dst) (a : Src)
  | fxfer (g : Guard) (ssp : PSpace) (rcnt : Bool) (lane : BitVec 5) (d : Dst) (a : Src)
  | fatom (g : Guard) (op : AtomOp) (ty : Fmt) (lane : BitVec 5) (d : Dst) (a : Src)
  -- the loft and the matrix array (12 R273-R275)
  | mres (g : Guard) (pd : BitVec 3)
  | mrel (g : Guard)
  | mldb (g : Guard) (die : Bool) (a b c : Src)
  | mldbR (g : Guard) (a b : Src)
  | mlda (g : Guard) (die : Bool) (d : Dst) (m : MemOpd)
  | mldt (g : Guard) (die : Bool) (pitch : BitVec 2) (w16 : Bool) (d : Dst) (m : MemOpd)
  | mmaq (g : Guard) (d : Dst) (a : Src) (b : BOpd) (sx sy : Option (BitVec 3))
  | mmaqw (g : Guard) (d : Dst) (a : Src) (b : BOpd) (sx sy : Option (BitVec 3))
  | mmaqi (g : Guard) (ua ub : Bool) (d : Dst) (a : Src) (b : BOpd)
  | mfence (g : Guard)
  | mwait (g : Guard) (sc : Scope)
  | mstat (g : Guard) (d : Dst)
  | mselft (g : Guard) (d : Dst)
  -- tile factorisations (13 R298)
  | tlu (g : Guard) (cont : Bool) (a : Src) (n1 : BitVec 6)
  | tchol (g : Guard) (a : Src) (n1 : BitVec 6)
  | tqr (g : Guard) (a : Src) (n1 : BitVec 6)
  | ttrs (g : Guard) (up unit tr : Bool) (a b : Src) (n1 r1 : BitVec 6)
  | tperm (g : Guard) (inv : Bool) (a : Src) (n1 r1 : BitVec 6)
  | tqapp (g : Guard) (tr : Bool) (a b : Src) (n1 r1 : BitVec 6)
  | tnorm (g : Guard) (k : NormKind) (d : Dst) (a : Src) (n1 r1 : BitVec 6)
  | tres (g : Guard) (cont : Bool)
  | tstat (g : Guard) (full : Option Scope) (d : Dst)
  -- collectives (14 R323, R327)
  | boarm (g : Guard) (reset : Bool) (at_ : MAttr) (d : Dst) (m : MemOpd)
  | bowait (g : Guard) (at_ : MAttr) (d : Dst) (m : MemOpd)
  | botest (g : Guard) (at_ : MAttr) (d : Dst) (m : MemOpd)
  | cwinBind (g : Guard) (d : Dst) (a b : Src)
  | cwinUnbind (g : Guard) (d : Dst) (a : Src)
  | cwinEp (g : Guard) (d : Dst) (a b : Src)
  | cwinTrace (g : Guard) (d : Dst) (a b : Src)
  -- traps, faults and pre-emption (17 R408); PURSE (18 R413)
  | trap (g : Guard) (code : BitVec 16)
  | rte (g : Guard) (f : RteForm)
  | brk (g : Guard) (code : BitVec 16)
  | getflt (g : Guard) (f : GetfltForm) (d : Dst)
  | ckpt (g : Guard) (idem : Bool) (vfirst : BitVec 8) (nv : BitVec 5) (sfirst : BitVec 6) (ns : BitVec 5)
  | idem (g : Guard) (clear : Bool)
  | purse (g : Guard) (f : PurseForm) (d : Dst) (a : Src)
  | evwait (g : Guard) (d : Dst) (a b : Src)
  -- contexts (18 R413) and INVLVA (04 R109)
  | ctxnew (g : Guard) (d : Dst) (a : Src)
  | ctxgrantQuad (g : Guard) (d : Dst) (a b c : Src)
  | ctxgrantQueue (g : Guard) (d : Dst) (a b c : Src)
  | ctxgrantPort (g : Guard) (d : Dst) (a b c : Src)
  | ctxgrantRelay (g : Guard) (d : Dst) (a b c : Src)
  | ctxgrantPurse (g : Guard) (d : Dst) (a b : Src)
  | ctxgrantSave (g : Guard) (d : Dst) (a b c : Src)
  | ctxgrantRights (g : Guard) (d : Dst) (a b c : Src)
  | ctxmap (g : Guard) (lard : Bool) (d : Dst) (a b c : Src) (n1 : BitVec 13) (fw fx : Bool)
  | ctxrevokeQuad (g : Guard) (d : Dst) (a b c : Src)
  | ctxrevokeQueue (g : Guard) (d : Dst) (a b c : Src)
  | ctxrevokePort (g : Guard) (d : Dst) (a b c : Src)
  | ctxrevokeRelay (g : Guard) (d : Dst) (a b c : Src)
  | ctxrevokePurse (g : Guard) (d : Dst) (a b : Src)
  | ctxrevokeFrame (g : Guard) (d : Dst) (a b c : Src)
  | ctxrevokeSave (g : Guard) (d : Dst) (a b c : Src)
  | ctxrevokeAll (g : Guard) (d : Dst) (a : Src)
  | ctxrun (g : Guard) (d : Dst) (a b : Src) (deadline : BitVec 32)
  | ctxstop (g : Guard) (save ckpt : Bool) (d : Dst) (a : Src) (deadline : BitVec 32)
  | ctxsw (g : Guard) (d : Dst) (a b c : Src) (deadline : BitVec 32)
  | ctxqry (g : Guard) (d : Dst) (a b : Src) (field : BitVec 8) (pd : BitVec 3)
  | ctxrefl (g : Guard) (k : ReflKind) (d : Dst) (a b : Src)
  | invlva (g : Guard) (sel : InvSel) (lines : Bool) (d : Dst) (a b : Option Src)
  -- relay instructions (14 R334)
  | relayMatch (imm : Bool) (kd ka : BitVec 4) (n : BitVec 32)
  | waitin (kd : BitVec 4) (port : BitVec 32)
  | seqchk (kd ka : BitVec 4)
  | comb (kd ka kb : BitVec 4)
  | holdb (kd ka : BitVec 4)
  | fwd (rod : Bool) (ka : BitVec 4) (h : BitVec 32)
  | mcast (rod : Bool) (ka kb : BitVec 4) (n : BitVec 32)
  | emit (ka : BitVec 4)
  | bump (ka : BitVec 4)
  | nack (ka : BitVec 4)
  | relayLdk (mode : Fin 3) (kd ka : BitVec 4) (n : BitVec 32)
  | addk (imm : Bool) (kd ka kb : BitVec 4) (n : BitVec 32)
  | bne (ka kb : BitVec 4) (target : BitVec 32)
  | jmp (target : BitVec 32)
  | relayDone
  | trace (ka : BitVec 4) (tag : BitVec 32)
  -- an opcode value the map leaves unassigned (02 R47)
  | unassignedOpcode (w : InsWord)
  -- resets (19 R449)
  | packageReset
  | paoridReset
  | zcDieReset
  | coreReset
  | quadrantReset
  | porterReset
  | relayEngineReset
  | contextReset
  | porterNoProgress
  | relayNoProgress
  -- boot and management (19 R443-R448)
  | imageVerify
  | stageReady
  | partmodeChange
  | partmodeMoveComplete
  | directorySliceFence
  | directorySliceLost
  | sliceRecoveryComplete
  | vfContextGrant
  | getCounter
  | getSensorReading
  | setRootSettings
  | grantRootPurse
  | commitSvn
  | requestUpdate
  | verifyComplete
  | activateFirmware
  | hostFirmwareRestart
  | getCertificate
  | challenge
  | getMeasurements
  -- the host and peer edge (19 R439-R442)
  | numvfsWrite
  | functionLevelReset
  | hostMemoryAccess
  | peerDeviceAccess
  | peerwinWrite
  | qtailWrite
  | qctlWrite
  | qctlFaultClear
  | registerWrite
  | nonpostedCompletion
  | completionTimeout
  | cxlLinkDown
  | flitReplay
  | laneGroupRetrainFail
  -- scheduling (15, 16, 17, 18)
  | commandAccept
  | dependenceComplete
  | admission
  | placementOpportunity
  | gridRetire
  | groupFinalExit
  | splitBoost
  | curfewExpiry
  | lineFetch
  | sliceEnd
  | purseCharge
  | cutDrainComplete
  | drainDeadline
  -- memory system (04, 05)
  | storePerform
  | acquireLeaseExpiry
  | directoryRead
  | directoryWrite
  | directoryWriteBack
  | patrolScrub
  | frameScrubComplete
  | producerCompletion
  | chunkGrant
  | evwaitTimeout
  -- porters and the fabric (08, 14)
  | porterDispatch
  | transferWritten
  | transferAcknowledgement
  | porterOperationEnd
  | fxferData
  | fatomRequest
  | fatomReply
  | refusal
  | contribution
  | partialArrival
  | resultArrival
  | negativeAcknowledgement
  | packetResendTimeout
  -- the array (12, 13)
  | passStart
  | passEnd
  | selfTestInject
  | loftFillComplete
  | columnCommit
  | factorisationEnd
  -- power and ports (04 R89, 14 R343-R347)
  | secondTierPowerLoss
  | linkLevelRetry
  | portBreakout
  | routeTable
  | rudiUudPacket
  deriving DecidableEq, Repr

end Sys2Proof
end

