-- ==== Sys2Proof/Machine/Operands.lean ====
section
/-! DEFINITION. The operand fields of every instruction: which registers each names, in which files, and what the
slot checks of 02 R45 say of them. The decoder, the well-formedness check and the issue of an instruction share
this one description. -/

namespace Sys2Proof

/-- File codes (02 R37). -/
def RegFile.code : RegFile → Nat
  | .lane => 0 | .scalar => 1 | .special => 2 | .latch => 3

/-- A named operand field: its position (0 DST, 1 A, 2 B, 3 C), the registers it names, and what the instruction
does with them. `files` are the files the instruction admits there; `count` and `align` hold for a lane register,
`scount` and `salign` for a scalar one. -/
structure Use where
  pos : Nat
  file : RegFile
  reg : Nat
  policy : Bool
  files : List RegFile
  count : Nat
  align : Nat
  scount : Nat
  salign : Nat
  reads : Bool
  writes : Bool
  deriving DecidableEq, Repr

/-- A source of `count` lane registers, or one scalar register. -/
def Src.use (s : Src) (pos : Nat) (files : List RegFile) (count : Nat := 1) : Use :=
  ⟨pos, s.file, s.reg.toNat, s.policy, files, count, if count ≤ 1 then 1 else 2, 1, 1, true, false⟩

/-- A destination of `count` lane registers, or one scalar register. -/
def Dst.use (d : Dst) (files : List RegFile) (count : Nat := 1) : Use :=
  ⟨0, d.file, d.reg.toNat, false, files, count, if count ≤ 1 then 1 else 2, 1, 1, false, true⟩

/-- A field of DST that is read (02 R42). Its reads wait and never trap. -/
def Dst.readUse (d : Dst) (files : List RegFile) (count : Nat := 1) : Use :=
  { d.use files count with reads := true, writes := false }

/-- A field of DST that is read and written. -/
def Dst.readWriteUse (d : Dst) (files : List RegFile) (count : Nat := 1) : Use :=
  { d.use files count with reads := true }

def Use.aligned (u : Use) (n : Nat) : Use := { u with align := n }
def Use.scalars (u : Use) (n : Nat) (al : Nat := 1) : Use := { u with scount := n, salign := al }
/-- A field that names registers and neither reads nor writes their values. -/
def Use.named (u : Use) : Use := { u with reads := false, writes := false }

def fileV : List RegFile := [.lane]
def fileS : List RegFile := [.scalar]
def fileVS : List RegFile := [.lane, .scalar]
def fileVSL : List RegFile := [.lane, .scalar, .latch]
def fileVL : List RegFile := [.lane, .latch]

/-- How many registers of its file a field names. -/
def Use.span (u : Use) : Nat :=
  match u.file with
  | .lane => u.count
  | .scalar => u.scount
  | _ => 1

/-- The file, register, pair and policy checks of one field (02 R37, R38). -/
def Use.ok (u : Use) : Bool :=
  u.files.contains u.file &&
  match u.file with
  | .lane => u.reg + u.count ≤ 256 && u.reg % u.align == 0
  | .scalar => u.reg + u.scount ≤ 64 && u.reg % u.salign == 0
  | .special => !u.policy
  | .latch => u.reg < 3 && !u.policy

/-- The fields of an immediate-or-register B. DEDUCED (unsafe), log entry 17; DEDUCED (unsafe), log entry 25. -/
def BOpd.uses (b : BOpd) (files : List RegFile) (count : Nat := 1) : List Use :=
  match b with
  | .reg s => [s.use 2 files count]
  | .imm _ => []

def optUse (s : Option Src) (pos : Nat) (files : List RegFile) (count : Nat := 1) : List Use :=
  match s with
  | some s => [s.use pos files count]
  | none => []

/-- Formats of 64 bits a lane, held in a lane pair (02 R37, 10 R227). -/
def Fmt.wide : Fmt → Bool
  | .i64 | .u64 | .f64 => true
  | _ => false

/-- Lane registers that a value of the format takes. -/
def Fmt.regs (t : Fmt) : Nat := if t.wide then 2 else 1

/-- The fields of a memory operand (02 R42): a lane base is an even pair. -/
def MemOpd.uses (m : MemOpd) : List Use :=
  m.base.use 1 fileVS 2 ::
  match m.idx with
  | .reg i _ _ _ => [i.use 2 fileVS]
  | .off _ => []

/-- Bytes a lane of an access size (02 R41). -/
def MSize.bytes : MSize → Nat
  | .b8 => 1 | .b16 => 2 | .b32 => 4 | .b64 => 8 | .b128 => 16

/-- Lane registers that hold one access (07 R164). -/
def MSize.regs : MSize → Nat
  | .b64 => 2 | .b128 => 4 | _ => 1

/-- Special registers: index, whether they are 64 bits wide, and whether SETC writes them (09 R219). -/
def specialIndices : List Nat :=
  [0x00, 0x01, 0x02, 0x03, 0x04, 0x05, 0x06, 0x07, 0x08, 0x09, 0x10, 0x11, 0x12, 0x13, 0x14, 0x15, 0x16, 0x17, 0x18,
   0x19, 0x20, 0x21, 0x22, 0x23, 0x24, 0x25, 0x26, 0x27, 0x28, 0x29, 0x30, 0x31, 0x38, 0x39, 0x3A, 0x3B, 0x3C, 0x3D]

def specialWide (i : Nat) : Bool := (0x20 ≤ i && i ≤ 0x27) || i == 0x31 || (0x38 ≤ i && i ≤ 0x3B)

def specialWritable (i : Nat) : Bool := (0x10 ≤ i && i ≤ 0x18) || (0x20 ≤ i && i ≤ 0x29) || i == 0x30

/-- Elements of a packed word; 1 for the other formats (03 R60, R65). -/
def Fmt.elems : Fmt → Nat
  | .bf16x2 | .f16x2 => 2
  | .e4m3x4 | .e5m2x4 | .i8x4 | .u8x4 => 4
  | _ => 1

/-! The TYPE sets of the chapters. -/

/-- W of 10 R229. -/
def fmtsW : List Fmt := [.i32, .u32, .i64, .u64]
/-- B of 10 R229. -/
def fmtsB : List Fmt := .bits :: fmtsW
/-- F of 11 R253. -/
def fmtsF : List Fmt := [.f16, .bf16, .f32, .bf16x2, .f16x2]
/-- F1 of 11 R253. -/
def fmtsF1 : List Fmt := [.f16, .bf16, .f32]
/-- The unpacked formats of CVT (11 R260). -/
def fmtsUnpacked : List Fmt :=
  [.i8, .u8, .i16, .u16, .i32, .u32, .i64, .u64, .f16, .bf16, .f32, .f64, .e4m3, .e5m2, .e8m0]
def fmtsX2 : List Fmt := [.bf16x2, .f16x2]
def fmtsX4 : List Fmt := [.e4m3x4, .e5m2x4, .i8x4, .u8x4]
def fmtsGroup : List Fmt := [.int4g, .int3g, .uint4g]

/-- The pairs of CVT (11 R260): destination, source. -/
def cvtPairOk (dt st : Fmt) : Bool :=
  (fmtsUnpacked.contains dt && fmtsUnpacked.contains st) || (fmtsX2.contains dt && fmtsX2.contains st) ||
  (fmtsX4.contains dt && fmtsX4.contains st) || (fmtsUnpacked.contains dt && 1 < st.elems)

/-- ELT of CVT (11 R254): zero for an unpacked source and for a pair of packed formats, else an element of the source.
A pair that is not listed is an illegal type. -/
def cvtEltOk (elt : BitVec 2) (dt st : Fmt) : Bool :=
  elt == 0 || (!fmtsUnpacked.contains st && (!cvtPairOk dt st || (fmtsUnpacked.contains dt && elt.toNat < st.elems)))

/-- Segment lanes of a SEG code (10 R239). -/
def segLanes (seg : Nat) : Nat := 2 ^ seg

/-- A scalar DST admits scalar sources only (10 R227, 11 R250). -/
def scalarDstOk (us : List Use) : Bool :=
  !(us.any fun u => u.pos == 0 && u.file == .scalar) || us.all fun u => u.file == .scalar

/-- The fields of a predicate write (10 R236): PC and PCN are zero without a combination.
DEDUCED (unsafe), log entry 16. -/
def PredWrite.fieldOk (w : PredWrite) : Bool := w.comb != 0 || (!w.q.neg && w.q.idx == 0)

/-- A scalar base with a scalar index or none (07 R159). -/
def MemOpd.scalarOnly (m : MemOpd) : Bool :=
  m.base.file == .scalar &&
  match m.idx with
  | .reg i _ _ _ => i.file == .scalar
  | .off _ => true

/-- TYPE against SIZE in a load or store (07 R164). -/
def memTypeOk (t : Fmt) (sz : MSize) : Bool :=
  t == .bits ||
  match sz with
  | .b8 => [Fmt.i8, .u8, .e4m3, .e5m2, .e8m0].contains t
  | .b16 => [Fmt.i16, .u16, .f16, .bf16].contains t
  | .b32 => [Fmt.i32, .u32, .f32, .bf16x2, .f16x2, .e4m3x4, .e5m2x4, .i8x4, .u8x4].contains t
  | .b64 => [Fmt.i64, .u64, .f64].contains t
  | .b128 => false

/-- TYPE against SIZE in an atomic (07 R158, R171). -/
def atomTypeOk (t : Fmt) (sz : MSize) : Bool :=
  t == .bits ||
  match sz with
  | .b32 => t == .i32 || t == .u32
  | .b64 => t == .i64 || t == .u64
  | _ => false

/-- The 80 opcode values the map leaves unassigned (02 R47). -/
def unassignedOpc (o : Nat) : Bool :=
  (0x15 ≤ o && o ≤ 0x1F) || (0x2E ≤ o && o ≤ 0x2F) || (0x4D ≤ o && o ≤ 0x57) || (0x73 ≤ o && o ≤ 0x77) ||
  (0x81 ≤ o && o ≤ 0x83) || (0x99 ≤ o && o ≤ 0x9B) || (0xA8 ≤ o && o ≤ 0xAB) || (0xB8 ≤ o && o ≤ 0xBB) ||
  (0xC5 ≤ o && o ≤ 0xC7) || (0xDE ≤ o && o ≤ 0xFF)

/-- The I form of an R-format operand. -/
def BOpd.isImm : BOpd → Bool
  | .imm _ => true
  | .reg _ => false

/-- The I form of an M-format address. -/
def MemOpd.isOff (m : MemOpd) : Bool :=
  match m.idx with
  | .off _ => true
  | .reg _ _ _ _ => false

/-- The sign choice of an index is zero for a scalar index (02 R42). -/
def MemOpd.fieldOk (m : MemOpd) : Bool :=
  match m.idx with
  | .off _ => true
  | .reg i _ isx _ => i.file != .scalar || !isx

/-- The register fields that an instruction names (the field lists of each chapter's encodings). Relay instructions
and events name none. -/
def Instr.uses : Instr → List Use
  -- control (15 R358)
  | .nop _ | .bra .. | .join .. | .wsync _ | .bar .. | .bara .. | .barw .. | .yield _ | .exit _ => []
  | .bri _ a | .ret _ a => [a.use 1 fileVS 2]
  | .brx _ _ b c => [b.use 2 fileVS, c.use 3 fileVS]
  | .call _ d _ => [d.use fileV 2]
  | .calli _ d a => [d.use fileV 2, a.use 1 fileVS 2]
  | .loop _ d _ => [d.readWriteUse fileVS]
  | .spawn _ k d a _ => [d.use fileV, (a.use 1 fileV (k.toNat + 1)).aligned 1]
  | .spawnw _ _ d a _ => [d.use fileV, a.use 1 fileVS]
  | .innset _ d a b => [d.use fileS, a.use 1 fileS, b.use 2 fileS]
  | .curfew _ a => optUse a 1 fileS
  | .launch _ d a b => [d.use fileS, a.use 1 fileS, b.use 2 fileS]
  | .lwait _ d a => d.use fileS :: optUse a 1 fileS
  -- registers (09 R220)
  | .mov _ ty d a => [d.use fileVS ty.regs, a.use 1 fileVSL ty.regs]
  | .movi _ _ d _ => [d.use fileVS]
  | .movhi _ d _ => [d.readWriteUse fileS]
  | .sel _ _ ty d a b => d.use fileVS ty.regs :: a.use 1 fileVSL ty.regs :: b.uses fileVSL ty.regs
  | .plop .. => []
  | .s2p _ f =>
    match f with
    | .toPred _ a => [a.use 1 fileS]
    | .rev d _ => [d.use fileS]
    | .all a => [a.use 1 fileV]
    | .vr d => [d.use fileV]
  | .getc _ _ d idx => [d.use fileVS, (Src.use ⟨.special, idx, false⟩ 1 [.special]).named]
  | .setc _ _ idx a => [(Dst.use ⟨.special, idx⟩ [.special]).named, a.use 1 fileVSL]
  | .setfmt _ m b => optUse m 1 fileS ++ b.uses fileS
  | .setscl _ _ b => b.uses fileS
  | .racq .. | .rrel .. => []
  | .fewait _ r =>
    match r with
    | some (a, n) => [(((a.use 1 fileVS (n.toNat + 1)).aligned 1).scalars (n.toNat + 1)).named]
    | none => []
  | .fechk _ _ a n => [(((a.use 1 fileVS (n.toNat + 1)).aligned 1).scalars (n.toNat + 1)).named]
  -- integer and address (10 R229)
  | .iadd _ _ ty d a b | .isub _ _ ty d a b | .imul _ ty d a b | .imulhi _ ty d a b | .idiv _ _ ty d a b
  | .imin _ ty d a b | .imax _ ty d a b | .shl _ _ ty d a b | .shr _ _ ty d a b | .sar _ _ ty d a b
  | .bfe _ ty d a b | .bmsk _ ty d a b | .iaddc _ ty d a b _ _ =>
    d.use fileVS ty.regs :: a.use 1 fileVSL ty.regs :: b.uses fileVSL ty.regs
  | .iadd3 _ ty d a b c | .imad _ ty d a b c | .isad _ ty d a b c | .fshf _ _ _ ty d a b c | .bfi _ ty d a b c
  | .idot4 _ _ _ ty d a b c =>
    d.use fileVS ty.regs :: a.use 1 fileVSL ty.regs :: c.use 3 fileVSL ty.regs :: b.uses fileVSL ty.regs
  | .imadw _ _ d a b c => d.use fileVS 2 :: a.use 1 fileVSL :: c.use 3 fileVSL 2 :: b.uses fileVSL
  | .iabs _ _ ty d a | .brev _ ty d a => [d.use fileVS ty.regs, a.use 1 fileVSL ty.regs]
  | .isat _ _ ty d a | .popc _ ty d a | .clz _ ty d a => [d.use fileVS, a.use 1 fileVSL ty.regs]
  | .lop3 _ ty d a b c _ => [d.use fileVS ty.regs, a.use 1 fileVSL ty.regs, b.use 2 fileVSL ty.regs, c.use 3 fileVSL ty.regs]
  | .prmt _ d a b c => d.use fileVS :: a.use 1 fileVSL :: c.use 3 fileVSL :: b.uses fileVSL
  | .icmp _ _ ty a b _ => a.use 1 fileVSL ty.regs :: b.uses fileVSL ty.regs
  | .lea _ d m => d.use fileVS 2 :: m.uses
  -- floating point and conversion (11 R253)
  | .fadd _ _ _ d a b | .fsub _ _ _ d a b | .fmul _ _ _ d a b | .fmin _ _ _ d a b | .fmax _ _ _ d a b
  | .fcpys _ _ _ d a b | .fdiv _ _ _ d a b | .fscale _ _ _ d a b => d.use fileVS :: a.use 1 fileVSL :: b.uses fileVSL
  | .ffma _ _ _ d a b c => d.use fileVS :: a.use 1 fileVSL :: c.use 3 fileVSL :: b.uses fileVSL
  | .fcmp _ _ _ a b _ | .fclass _ _ a b _ => a.use 1 fileVSL :: b.uses fileVSL
  | .frnd _ _ _ d a | .frcp _ _ _ d a | .frsq _ _ _ d a | .fsqrt _ _ _ d a => [d.use fileVS, a.use 1 fileVSL]
  | .fexp2 _ _ d a | .flog2 _ _ d a | .ftanh _ _ d a | .ferf _ _ d a | .fsin _ _ d a | .fcos _ _ d a =>
    [d.use fileVS, a.use 1 fileVSL]
  | .fdot2 _ _ d a b c | .fdot4 _ _ _ d a b c =>
    [d.use fileVS, a.use 1 fileVSL, b.use 2 fileVSL, c.use 3 fileVSL]
  | .cvt _ m _ _ dt sf d a =>
    d.use fileVS dt.regs :: a.use 1 fileVSL sf.regs ::
    match m with
    | .fixed _ => []
    | .fmt seed => [seed.use 3 fileVSL]
  | .cvtn _ _ ty d a seed =>
    [d.use fileV, if ty.elems = 2 then a.use 1 fileVL 2 else (a.use 1 fileV 4).aligned 4, seed.use 3 fileVSL]
  | .qntg _ scale _ ty d a b c =>
    if scale then d.use fileV 2 :: a.use 1 fileVSL :: optUse b 2 fileVSL
    else
      (if ty = .int3g then (d.use fileV 3).aligned 4 else d.use fileV) ::
      (if ty = .int3g then (a.use 1 fileV 32).aligned 32 else (a.use 1 fileV 8).aligned 8) ::
      (optUse b 2 fileVSL ++ optUse c 3 fileVSL)
  | .dqnt _ _ ty d a b c =>
    (d.use fileV 8).aligned 8 ::
    (if ty = .int3g then (a.use 1 fileV 3).aligned 4 else a.use 1 fileVSL) :: b.use 2 fileVSL :: optUse c 3 fileVSL
  -- cross-lane (10 R239)
  | .shfl _ _ ty d a b _ => d.use fileV ty.regs :: a.use 1 fileVS ty.regs :: b.uses fileVS ty.regs
  | .vote _ _ _ _ ballot =>
    match ballot with
    | some d => [d.use fileVS]
    | none => []
  | .scan _ _ _ ty d a => [d.use fileV ty.regs, a.use 1 fileVS ty.regs]
  | .lred _ _ ty d a => [d.use fileVS ty.regs, a.use 1 fileVS ty.regs]
  | .topk _ _ _ d a b _ _ _ => [(d.use fileV 4).aligned 4, a.use 1 fileVS, b.use 2 fileVS]
  | .bsort _ _ _ d a b _ => [d.use fileV 2, a.use 1 fileVS, b.use 2 fileVS]
  | .lmatch _ ty d a => [d.use fileV ty.regs, a.use 1 fileVS ty.regs]
  | .compact _ d a _ => [d.use fileV 2, a.use 1 fileVS]
  | .lhist _ _ d a b => d.use fileV :: a.use 1 fileVS :: b.uses fileVS
  -- loads, stores and atomics (07 R158, R164, R172, R175)
  | .ld _ _ at_ d m | .lds _ _ at_ d m | .ldd _ _ at_ d m => (d.use fileVS at_.size.regs).aligned at_.size.regs :: m.uses
  | .ldk _ _ at_ d m => (d.use fileV at_.size.regs).aligned at_.size.regs :: m.uses
  | .st _ _ at_ d m | .sts _ _ at_ d m | .std _ _ at_ d m =>
    (d.readUse fileVS at_.size.regs).aligned at_.size.regs :: m.uses
  | .stk _ _ at_ d m => (d.readUse fileV at_.size.regs).aligned at_.size.regs :: m.uses
  | .atom _ _ _ at_ d m | .atoms _ _ _ at_ d m | .atomf _ _ _ at_ d m | .atomfs _ _ _ at_ d m | .prom _ _ _ at_ d m =>
    d.readWriteUse fileVS at_.size.regs :: m.uses
  | .cas _ _ at_ d m | .cass _ _ at_ d m =>
    (((d.readWriteUse fileVS (2 * at_.size.regs)).aligned (2 * at_.size.regs)).scalars 2 2) :: m.uses
  | .amaxr _ _ _ d m => d.use fileVS :: m.uses
  | .fence .. | .fencea .. => []
  | .pref _ _ _ m | .cwb _ _ m | .cinv _ _ _ m => m.uses
  -- porters, scratchpads and arrivals (08 R189)
  | .pcopy _ _ d a b c => [d.use fileS, a.use 1 fileS, b.use 2 fileS, c.use 3 fileS]
  | .pcopy2 _ _ d a b c => [d.use fileS, a.use 1 fileS, b.use 2 fileS, (c.use 3 fileS).scalars 2 2]
  | .pgath _ ctl d a b c =>
    [d.use fileS, if ctl.dsp = .rg then ((Dst.use ⟨a.file, a.reg⟩ fileV) : Use) else a.use 1 fileS, b.use 2 fileS,
     c.use 3 fileV]
  | .pscat _ _ d a b c => [d.use fileS, a.use 1 fileS, b.use 2 fileS, c.use 3 fileV]
  | .pwait _ _ d a | .pcancel _ d a => d.use fileS :: optUse a 1 fileS
  | .pyield _ _ a _ _ => optUse a 1 fileS
  | .pstat _ recd d a => [(if recd then (d.use fileS).scalars 4 4 else d.use fileS), a.use 1 fileS]
  | .arrset _ _ a b => [a.use 1 fileS, b.use 2 fileS]
  | .arrwait _ _ _ d a => [d.use fileS, a.use 1 fileS]
  | .fxfer _ _ _ _ d a => [d.use fileS, (a.use 1 fileS).scalars 4 4]
  | .fatom _ _ _ _ d a => [(d.use fileS).scalars 2 2, (a.use 1 fileS).scalars 4 4]
  -- the loft and the matrix array (12 R273-R275)
  | .mres .. | .mrel _ | .mfence _ | .mwait .. => []
  | .mldb _ _ a b c => [a.use 1 fileS, b.use 2 fileS, c.use 3 fileS]
  | .mldbR _ a b => [(a.use 1 fileV 16).aligned 16, b.use 2 fileS]
  | .mlda _ _ d m => (d.use fileV 16).aligned 16 :: m.uses
  | .mldt _ _ _ _ d m =>
    (d.use fileV 16).aligned 16 :: m.base.use 1 fileS ::
    (match m.idx with
     | .reg i _ _ _ => [i.use 2 fileS]
     | .off _ => [])
  | .mmaq _ d a b _ _ | .mmaqw _ d a b _ _ | .mmaqi _ _ _ d a b =>
    (d.readWriteUse fileV 32).aligned 32 :: (a.use 1 fileV 16).aligned 16 :: b.uses fileVS
  | .mstat _ d | .mselft _ d => [d.use fileS]
  -- tile factorisations (13 R298)
  | .tlu _ _ a _ | .tchol _ a _ | .tqr _ a _ | .tperm _ _ a _ _ => [a.use 1 fileS]
  | .ttrs _ _ _ _ a b _ _ | .tqapp _ _ a b _ _ => [a.use 1 fileS, b.use 2 fileS]
  | .tnorm _ _ d a _ _ => [d.use fileS, a.use 1 fileS]
  | .tres .. => []
  | .tstat _ _ d => [d.use fileS]
  -- collectives (14 R323, R327)
  | .boarm _ _ _ d m => d.readUse fileS :: m.uses
  | .bowait _ _ d m | .botest _ _ d m => d.use fileS :: m.uses
  | .cwinBind _ d a b | .cwinEp _ d a b | .cwinTrace _ d a b => [d.use fileS, a.use 1 fileS, b.use 2 fileS]
  | .cwinUnbind _ d a => [d.use fileS, a.use 1 fileS]
  -- traps (17 R408); PURSE (18 R413)
  | .trap .. | .brk .. | .idem .. => []
  | .rte _ f =>
    match f with
    | .to a => [a.use 1 fileS]
    | .plain | .skip => []
  | .getflt _ f d =>
    match f with
    | .fault => [(d.use fileV 8).aligned 8]
    | .pc | .gser => [d.use fileS]
  | .ckpt _ _ vf nv sf ns =>
    [(((Src.use ⟨.lane, vf, false⟩ 1 fileV nv.toNat).aligned 1)),
     (((Src.use ⟨.scalar, sf.setWidth 8, false⟩ 2 fileS).scalars ns.toNat))]
  | .evwait _ d a b => [d.use fileS, a.use 1 fileS, b.use 2 fileS]
  -- contexts (18 R413) and INVLVA (04 R109)
  | .purse _ _ d a | .ctxnew _ d a | .ctxrevokeAll _ d a | .ctxstop _ _ _ d a _ => [d.use fileS, a.use 1 fileS]
  | .ctxgrantQuad _ d a b c | .ctxgrantQueue _ d a b c | .ctxgrantPort _ d a b c | .ctxgrantRelay _ d a b c
  | .ctxgrantSave _ d a b c | .ctxgrantRights _ d a b c | .ctxmap _ _ d a b c _ _ _ | .ctxrevokeQuad _ d a b c
  | .ctxrevokeQueue _ d a b c | .ctxrevokePort _ d a b c | .ctxrevokeRelay _ d a b c | .ctxrevokeFrame _ d a b c
  | .ctxrevokeSave _ d a b c | .ctxsw _ d a b c _ => [d.use fileS, a.use 1 fileS, b.use 2 fileS, c.use 3 fileS]
  | .ctxgrantPurse _ d a b | .ctxrevokePurse _ d a b | .ctxrun _ d a b _ | .ctxqry _ d a b _ _ | .ctxrefl _ _ d a b =>
    [d.use fileS, a.use 1 fileS, b.use 2 fileS]
  | .invlva _ _ _ d a b => d.use fileS :: (optUse a 1 fileS ++ optUse b 2 fileS)
  | _ => []

/-- What every 96-bit instruction carries; relay instructions and events carry none. -/
def Instr.guard : Instr → Option Guard
  | .nop g | .bra g _ | .bri g _ | .brx g _ _ _ | .call g _ _ | .calli g _ _ | .ret g _ | .join g _
  | .wsync g | .loop g _ _ | .bar g _ _ _ | .bara g _ _ _ | .barw g _ _ | .yield g | .exit g
  | .spawn g _ _ _ _ | .spawnw g _ _ _ _ | .innset g _ _ _ | .curfew g _ | .launch g _ _ _ | .lwait g _ _
  | .mov g _ _ _ | .movi g _ _ _ | .movhi g _ _ | .sel g _ _ _ _ _ | .plop g _ _ _ _ _ | .s2p g _
  | .getc g _ _ _ | .setc g _ _ _ | .setfmt g _ _ | .setscl g _ _ | .racq g _ _ _ | .rrel g _ | .fewait g _
  | .fechk g _ _ _ | .iadd g _ _ _ _ _ | .iadd3 g _ _ _ _ _ | .iaddc g _ _ _ _ _ _ | .isub g _ _ _ _ _
  | .imul g _ _ _ _ | .imulhi g _ _ _ _ | .imad g _ _ _ _ _ | .imadw g _ _ _ _ _ | .idiv g _ _ _ _ _
  | .imin g _ _ _ _ | .imax g _ _ _ _ | .iabs g _ _ _ _ | .isad g _ _ _ _ _ | .isat g _ _ _ _
  | .lop3 g _ _ _ _ _ _ | .shl g _ _ _ _ _ | .shr g _ _ _ _ _ | .sar g _ _ _ _ _ | .fshf g _ _ _ _ _ _ _
  | .bfe g _ _ _ _ | .bfi g _ _ _ _ _ | .bmsk g _ _ _ _ | .popc g _ _ _ | .clz g _ _ _ | .brev g _ _ _
  | .prmt g _ _ _ _ | .icmp g _ _ _ _ _ | .lea g _ _ | .idot4 g _ _ _ _ _ _ _ | .fadd g _ _ _ _ _
  | .fsub g _ _ _ _ _ | .fmul g _ _ _ _ _ | .ffma g _ _ _ _ _ _ | .fmin g _ _ _ _ _ | .fmax g _ _ _ _ _
  | .fcmp g _ _ _ _ _ | .fcpys g _ _ _ _ _ | .frnd g _ _ _ _ | .frcp g _ _ _ _ | .frsq g _ _ _ _
  | .fsqrt g _ _ _ _ | .fdiv g _ _ _ _ _ | .fexp2 g _ _ _ | .flog2 g _ _ _ | .ftanh g _ _ _ | .ferf g _ _ _
  | .fsin g _ _ _ | .fcos g _ _ _ | .fclass g _ _ _ _ | .fscale g _ _ _ _ _ | .fdot2 g _ _ _ _ _
  | .fdot4 g _ _ _ _ _ _ | .cvt g _ _ _ _ _ _ _ | .cvtn g _ _ _ _ _ | .qntg g _ _ _ _ _ _ _
  | .dqnt g _ _ _ _ _ _ | .shfl g _ _ _ _ _ _ | .vote g _ _ _ _ | .scan g _ _ _ _ _ | .lred g _ _ _ _
  | .topk g _ _ _ _ _ _ _ _ | .bsort g _ _ _ _ _ _ | .lmatch g _ _ _ | .compact g _ _ _ | .lhist g _ _ _ _
  | .ld g _ _ _ _ | .st g _ _ _ _ | .lds g _ _ _ _ | .sts g _ _ _ _ | .ldd g _ _ _ _ | .std g _ _ _ _
  | .ldk g _ _ _ _ | .stk g _ _ _ _ | .atom g _ _ _ _ _ | .atoms g _ _ _ _ _ | .atomf g _ _ _ _ _
  | .atomfs g _ _ _ _ _ | .cas g _ _ _ _ | .cass g _ _ _ _ | .prom g _ _ _ _ _ | .amaxr g _ _ _ _
  | .fence g _ _ | .fencea g _ | .pref g _ _ _ | .cwb g _ _ | .cinv g _ _ _ | .pcopy g _ _ _ _ _
  | .pcopy2 g _ _ _ _ _ | .pgath g _ _ _ _ _ | .pscat g _ _ _ _ _ | .pwait g _ _ _ | .pyield g _ _ _ _
  | .pstat g _ _ _ | .pcancel g _ _ | .arrset g _ _ _ | .arrwait g _ _ _ _ | .fxfer g _ _ _ _ _
  | .fatom g _ _ _ _ _ | .mres g _ | .mrel g | .mldb g _ _ _ _ | .mldbR g _ _ | .mlda g _ _ _
  | .mldt g _ _ _ _ _ | .mmaq g _ _ _ _ _ | .mmaqw g _ _ _ _ _ | .mmaqi g _ _ _ _ _ | .mfence g | .mwait g _
  | .mstat g _ | .mselft g _ | .tlu g _ _ _ | .tchol g _ _ | .tqr g _ _ | .ttrs g _ _ _ _ _ _ _
  | .tperm g _ _ _ _ | .tqapp g _ _ _ _ _ | .tnorm g _ _ _ _ _ | .tres g _ | .tstat g _ _ | .boarm g _ _ _ _
  | .bowait g _ _ _ | .botest g _ _ _ | .cwinBind g _ _ _ | .cwinUnbind g _ _ | .cwinEp g _ _ _
  | .cwinTrace g _ _ _ | .trap g _ | .rte g _ | .brk g _ | .getflt g _ _ | .ckpt g _ _ _ _ _ | .idem g _
  | .purse g _ _ _ | .evwait g _ _ _ | .ctxnew g _ _ | .ctxgrantQuad g _ _ _ _ | .ctxgrantQueue g _ _ _ _
  | .ctxgrantPort g _ _ _ _ | .ctxgrantRelay g _ _ _ _ | .ctxgrantPurse g _ _ _ | .ctxgrantSave g _ _ _ _
  | .ctxgrantRights g _ _ _ _ | .ctxmap g _ _ _ _ _ _ _ _ | .ctxrevokeQuad g _ _ _ _
  | .ctxrevokeQueue g _ _ _ _ | .ctxrevokePort g _ _ _ _ | .ctxrevokeRelay g _ _ _ _
  | .ctxrevokePurse g _ _ _ | .ctxrevokeFrame g _ _ _ _ | .ctxrevokeSave g _ _ _ _ | .ctxrevokeAll g _ _
  | .ctxrun g _ _ _ _ | .ctxstop g _ _ _ _ _ | .ctxsw g _ _ _ _ _ | .ctxqry g _ _ _ _ _ | .ctxrefl g _ _ _ _
  | .invlva g _ _ _ _ _ => some g
  | _ => none

/-- Instructions in which HOLD is a used field (09 R220, 10 R229, 11 R253, 10 R239, 07 R158). -/
def Instr.usesHold : Instr → Bool
  | .mov .. | .sel .. | .setc .. | .setfmt .. | .setscl .. => true
  | .s2p _ f =>
    match f with
    | .toPred _ _ | .all _ => true
    | .rev _ _ | .vr _ => false
  | .iadd .. | .iadd3 .. | .iaddc .. | .isub .. | .imul .. | .imulhi .. | .imad .. | .imadw .. | .idiv ..
  | .imin .. | .imax .. | .iabs .. | .isad .. | .isat .. | .lop3 .. | .shl .. | .shr .. | .sar .. | .fshf ..
  | .bfe .. | .bfi .. | .bmsk .. | .popc .. | .clz .. | .brev .. | .prmt .. | .icmp .. | .lea .. | .idot4 ..
  | .fadd .. | .fsub .. | .fmul .. | .ffma .. | .fmin .. | .fmax .. | .fcmp .. | .fcpys .. | .frnd ..
  | .frcp .. | .frsq .. | .fsqrt .. | .fdiv .. | .fexp2 .. | .flog2 .. | .ftanh .. | .ferf .. | .fsin ..
  | .fcos .. | .fclass .. | .fscale .. | .fdot2 .. | .fdot4 .. | .cvt .. | .cvtn .. | .qntg .. | .dqnt ..
  | .shfl .. | .vote .. | .scan .. | .lred .. | .topk .. | .bsort .. | .lmatch .. | .compact .. | .lhist ..
  | .ld .. | .st .. | .lds .. | .sts .. | .ldd .. | .std .. | .ldk .. | .stk .. | .atom .. | .atoms ..
  | .atomf .. | .atomfs .. | .cas .. | .cass .. | .prom .. | .amaxr .. | .pref .. | .cwb .. | .cinv .. => true
  | _ => false

/-- The address of an M-format instruction (02 R40, R42). -/
def Instr.memOpd : Instr → Option MemOpd
  | .lea _ _ m | .ld _ _ _ _ m | .st _ _ _ _ m | .lds _ _ _ _ m | .sts _ _ _ _ m | .ldd _ _ _ _ m
  | .std _ _ _ _ m | .ldk _ _ _ _ m | .stk _ _ _ _ m | .atom _ _ _ _ _ m | .atoms _ _ _ _ _ m
  | .atomf _ _ _ _ _ m | .atomfs _ _ _ _ _ m | .cas _ _ _ _ m | .cass _ _ _ _ m | .prom _ _ _ _ _ m
  | .amaxr _ _ _ _ m | .pref _ _ _ m | .cwb _ _ m | .cinv _ _ _ m | .mlda _ _ _ m | .mldt _ _ _ _ _ m
  | .boarm _ _ _ _ m | .bowait _ _ _ m | .botest _ _ _ m => some m
  | _ => none

/-- Source B of an R-format instruction, or its immediate (02 R40). -/
def Instr.bOpd : Instr → Option BOpd
  | .sel _ _ _ _ _ b | .setfmt _ _ b | .setscl _ _ b | .iadd _ _ _ _ _ b | .iadd3 _ _ _ _ b _
  | .iaddc _ _ _ _ b _ _ | .isub _ _ _ _ _ b | .imul _ _ _ _ b | .imulhi _ _ _ _ b | .imad _ _ _ _ b _
  | .imadw _ _ _ _ b _ | .idiv _ _ _ _ _ b | .imin _ _ _ _ b | .imax _ _ _ _ b | .isad _ _ _ _ b _
  | .shl _ _ _ _ _ b | .shr _ _ _ _ _ b | .sar _ _ _ _ _ b | .fshf _ _ _ _ _ _ b _ | .bfe _ _ _ _ b
  | .bfi _ _ _ _ b _ | .bmsk _ _ _ _ b | .prmt _ _ _ b _ | .icmp _ _ _ _ b _ | .idot4 _ _ _ _ _ _ b _
  | .fadd _ _ _ _ _ b | .fsub _ _ _ _ _ b | .fmul _ _ _ _ _ b | .ffma _ _ _ _ _ b _ | .fmin _ _ _ _ _ b
  | .fmax _ _ _ _ _ b | .fcmp _ _ _ _ b _ | .fcpys _ _ _ _ _ b | .fdiv _ _ _ _ _ b | .fclass _ _ _ b _
  | .fscale _ _ _ _ _ b | .shfl _ _ _ _ _ b _ | .lhist _ _ _ _ b | .mmaq _ _ _ b _ _ | .mmaqw _ _ _ b _ _
  | .mmaqi _ _ _ _ _ b => some b
  | _ => none

/-- An I-form instruction has the immediate in the B position (02 R39, R40; 07 R158). -/
def Instr.immB (i : Instr) : Bool := i.bOpd.any BOpd.isImm || i.memOpd.any MemOpd.isOff

/-- HOLD's own checks (02 R36, R39): latch 3 names none, and the source held is one the instruction reads. -/
def Instr.holdOk (i : Instr) : Bool :=
  match i.guard with
  | none => true
  | some g =>
    g.hold.sel == 0 ||
    (g.hold.latch != 3 &&
      ((g.hold.sel == 2 && i.immB) || i.uses.any fun u => u.pos == g.hold.sel.toNat && u.reads))

/-- Step 1 of 02 R45 on the fields the instruction carries. -/
def Instr.fieldOk (i : Instr) : Bool :=
  (match i.guard with
   | none => true
   | some g => (g.hold.sel != 0 || g.hold.latch == 0) && (i.usesHold || g.hold.sel == 0)) &&
  i.memOpd.all MemOpd.fieldOk &&
  match i with
  | .bar _ die id n | .bara _ die id n => n.toNat ≤ 512 && (!die || (id == 0 && n == 0))
  | .barw _ die id => !die || id == 0
  | .racq _ t _ pd => t || pd == 0
  | .ckpt _ _ _ nv _ ns => nv.toNat ≤ 16 && ns.toNat ≤ 16
  | .icmp _ _ _ _ _ w | .fcmp _ _ _ _ _ w | .fclass _ _ _ _ w => w.fieldOk
  | .cvt _ _ _ elt dt sf _ _ => cvtEltOk elt dt sf
  | .qntg _ scale rm ty _ _ b c =>
    if scale then rm == .rne && b.isSome == (ty == .uint4g) && c.isNone else b.isSome && c.isSome == (ty == .uint4g)
  | .dqnt _ grp ty _ _ _ c => (grp == 0 || (ty != .int4g && ty != .uint4g)) && c.isSome == (ty == .uint4g)
  | .vote _ m _ pd ballot => ballot.isNone || (m == .all && pd == 0)
  | .topk _ _ _ _ _ _ k seg _ => 1 ≤ seg.toNat && seg.toNat ≤ 5 && 1 ≤ k.toNat && k.toNat ≤ 8 && k.toNat ≤ segLanes seg.toNat
  | .bsort _ _ _ _ _ _ seg => 1 ≤ seg.toNat && seg.toNat ≤ 5
  | .ld _ _ a _ _ | .lds _ _ a _ _ | .ldd _ _ a _ _ => a.ord == .plain || a.ord == .acq
  | .st _ _ a _ _ | .sts _ _ a _ _ | .std _ _ a _ _ => a.ord == .plain || a.ord == .rel
  | .ldk _ _ a _ _ | .stk _ _ a _ _ => a.ord == .plain && a.scope == .grp
  | .atom _ _ _ a _ _ | .atoms _ _ _ a _ _ | .cas _ _ a _ _ | .cass _ _ a _ _ | .prom _ _ _ a _ _ =>
    a.size == .b32 || a.size == .b64
  | .atomf _ _ _ a _ _ | .atomfs _ _ _ a _ _ | .amaxr _ _ a _ _ => a.size == .b32
  | .fence _ o _ => o != .plain
  | .pcopy _ c _ _ _ _ | .pcopy2 _ c _ _ _ _ => c.esz == 0 && c.ssp != .rg && c.dsp != .rg
  | .pgath _ c _ a _ _ =>
    2 ≤ c.esz.toNat && c.esz.toNat ≤ 11 && c.ssp != .rg && (c.dsp != .rg || (c.esz == 2 && a.file == .lane && !c.cnt))
  | .pscat _ c _ _ _ _ => 2 ≤ c.esz.toNat && c.esz.toNat ≤ 11 && c.ssp != .rg && c.dsp != .rg
  | .fxfer _ ssp _ _ _ _ => ssp != .lf && ssp != .rg
  | .boarm _ _ a _ _ => a.size == .b64 && (a.ord == .plain || a.ord == .rel)
  | .bowait _ a _ _ | .botest _ a _ _ => a.size == .b64 && a.ord == .plain
  | .invlva _ which _ _ a b => a.isSome == (which != .asid) && b.isSome == (which != .asid)
  | .relayMatch imm _ ka n => if imm then ka == 0 else n == 0
  | .waitin _ port => port.toNat ≤ 99 || port.toNat == 127
  | .mcast _ _ _ n => 1 ≤ n.toNat && n.toNat ≤ 64
  | .relayLdk mode _ ka n =>
    match mode with
    | 0 => ka == 0
    | 1 => n.toNat ≤ 6
    | 2 => ka == 0 && n.toNat ≤ 3
  | .addk imm _ _ kb n => if imm then kb == 0 else n == 0
  | .unassignedOpcode w => unassignedOpc (w.toNat % 256)
  | _ => true

/-- Step 2 of 02 R45: the format codes are ones the instruction accepts. -/
def Instr.typeOk : Instr → Bool
  | .mov _ t _ _ | .sel _ _ t _ _ _ => [Fmt.bits, .i64, .u64].contains t
  | .iadd _ sat t _ _ _ | .isub _ sat t _ _ _ => (if sat then fmtsW else fmtsB).contains t
  | .iadd3 _ t _ _ _ _ | .iaddc _ t _ _ _ _ _ | .imul _ t _ _ _ | .imad _ t _ _ _ _ | .lop3 _ t _ _ _ _ _
  | .shl _ _ t _ _ _ | .shr _ _ t _ _ _ | .sar _ _ t _ _ _ | .fshf _ _ _ t _ _ _ _ | .bfe _ t _ _ _
  | .bfi _ t _ _ _ _ | .bmsk _ t _ _ _ | .popc _ t _ _ | .clz _ t _ _ | .brev _ t _ _ | .icmp _ _ t _ _ _ =>
    fmtsB.contains t
  | .imulhi _ t _ _ _ | .idiv _ _ t _ _ _ | .imin _ t _ _ _ | .imax _ t _ _ _ | .isad _ t _ _ _ _
  | .isat _ _ t _ _ => fmtsW.contains t
  | .imadw _ t _ _ _ _ => [Fmt.i32, .u32].contains t
  | .iabs _ _ t _ _ => [Fmt.i32, .i64].contains t
  | .idot4 _ _ _ t _ _ _ _ => [Fmt.i8x4, .u8x4].contains t
  | .fadd _ _ t _ _ _ | .fsub _ _ t _ _ _ | .fmul _ _ t _ _ _ | .ffma _ _ t _ _ _ _ | .fmin _ _ t _ _ _
  | .fmax _ _ t _ _ _ | .fcpys _ _ t _ _ _ | .frnd _ _ t _ _ | .frcp _ _ t _ _ | .frsq _ _ t _ _
  | .fsqrt _ _ t _ _ | .fdiv _ _ t _ _ _ | .fexp2 _ t _ _ | .flog2 _ t _ _ | .ftanh _ t _ _ | .ferf _ t _ _
  | .fsin _ t _ _ | .fcos _ t _ _ | .fscale _ _ t _ _ _ => fmtsF.contains t
  | .fcmp _ _ t _ _ _ => fmtsF1.contains t
  | .fclass _ t _ _ _ => (fmtsF1 ++ [Fmt.e4m3, .e5m2, .bf16x2, .f16x2, .e4m3x4, .e5m2x4]).contains t
  | .fdot2 _ t _ _ _ _ => fmtsX2.contains t
  | .fdot4 _ _ t _ _ _ _ => [Fmt.e4m3x4, .e5m2x4].contains t
  | .cvt _ _ _ _ dt sf _ _ => cvtPairOk dt sf
  | .cvtn _ _ t _ _ _ => (fmtsX2 ++ fmtsX4).contains t
  | .qntg _ _ _ t _ _ _ _ | .dqnt _ _ t _ _ _ _ => fmtsGroup.contains t
  | .shfl _ _ t _ _ _ _ | .lmatch _ t _ _ => [Fmt.bits, .i64, .u64].contains t
  | .scan _ op _ t _ _ | .lred _ op t _ _ => fmtsB.contains t || (t == .f32 && [RedOp.add, .min, .max].contains op)
  | .topk _ w t _ _ _ _ _ _ => t == .f32 || (!w && (t == .i32 || t == .u32))
  | .bsort _ _ t _ _ _ _ => [Fmt.f32, .i32, .u32, .bits].contains t
  | .ld _ t a _ _ | .st _ t a _ _ | .lds _ t a _ _ | .sts _ t a _ _ | .ldd _ t a _ _ | .std _ t a _ _
  | .ldk _ t a _ _ | .stk _ t a _ _ => memTypeOk t a.size
  | .atom _ op t a _ _ | .atoms _ op t a _ _ | .prom _ op t a _ _ =>
    atomTypeOk t a.size && (op != .inc || (t != .i32 && t != .i64))
  | .cas _ t a _ _ | .cass _ t a _ _ => atomTypeOk t a.size
  | .atomf _ _ t _ _ _ | .atomfs _ _ t _ _ _ => [Fmt.f32, .bf16x2, .f16x2].contains t
  | .amaxr _ t _ _ _ => t == .bits || t == .f32
  | .fatom _ op t _ _ _ => fmtsB.contains t && (op != .inc || (t != .i32 && t != .i64))
  | _ => true

/-- Integer and float instructions and LEA, whose scalar DST needs scalar sources (10 R227, R237; 11 R250). -/
def Instr.scalarRule : Instr → Bool
  | .iadd .. | .iadd3 .. | .iaddc .. | .isub .. | .imul .. | .imulhi .. | .imad .. | .imadw .. | .idiv ..
  | .imin .. | .imax .. | .iabs .. | .isad .. | .isat .. | .lop3 .. | .shl .. | .shr .. | .sar .. | .fshf ..
  | .bfe .. | .bfi .. | .bmsk .. | .popc .. | .clz .. | .brev .. | .prmt .. | .lea .. | .idot4 .. | .fadd ..
  | .fsub .. | .fmul .. | .ffma .. | .fmin .. | .fmax .. | .fcpys .. | .frnd .. | .frcp .. | .frsq ..
  | .fsqrt .. | .fdiv .. | .fexp2 .. | .flog2 .. | .ftanh .. | .ferf .. | .fsin .. | .fcos .. | .fscale ..
  | .fdot2 .. | .fdot4 .. | .cvt .. => true
  | _ => false

/-- Step 4 of 02 R45: files, registers, pairs, policies and HOLD, and what each chapter adds.
DEDUCED (unsafe), log entry 16. -/
def Instr.operandOk (i : Instr) : Bool :=
  i.uses.all Use.ok && i.holdOk && (!i.scalarRule || scalarDstOk i.uses) &&
  match i with
  | .plop _ _ pd _ _ _ => pd != 7
  | .s2p _ (.toPred pk _) => pk != 7
  | .getc _ hi d idx => specialIndices.contains idx.toNat && (!hi || (d.file == .lane && specialWide idx.toNat))
  | .setc _ hi idx _ => specialIndices.contains idx.toNat && specialWritable idx.toNat && (!hi || specialWide idx.toNat)
  | .racq _ t _ pd => !t || pd != 7
  | .fewait _ r => match r with | some (a, _) => !a.policy | none => true
  | .fechk _ pd a _ => !a.policy && pd != 7
  | .iaddc _ _ _ _ _ _ cout => cout != 7
  | .icmp _ _ _ _ _ w | .fcmp _ _ _ _ _ w | .fclass _ _ _ _ w => w.pd != 7
  | .shfl _ _ _ _ _ _ pv => pv != some 7
  | .vote _ _ _ pd _ => pd != 7
  | .topk _ _ _ _ _ _ _ _ pf => pf != some 7
  | .mres _ pd => pd != 7
  | .ctxqry _ _ _ _ _ pd => pd != 7
  | .ld _ _ a d m | .st _ _ a d m | .lds _ _ a d m | .sts _ _ a d m | .ldd _ _ a d m | .std _ _ a d m =>
    d.file != .scalar || (a.size != .b128 && m.scalarOnly)
  | .atom _ _ _ _ d m | .atoms _ _ _ _ d m | .atomf _ _ _ _ d m | .atomfs _ _ _ _ d m | .cas _ _ _ d m
  | .cass _ _ _ d m | .prom _ _ _ _ d m | .amaxr _ _ _ d m => d.file != .scalar || m.scalarOnly
  | _ => true

/-- The classes of a slot's checks (02 R45), in their order. -/
inductive SlotErr where
  | instruction | type | scope | operand
  deriving DecidableEq, Repr

end Sys2Proof
end

