-- ==== Sys2Proof/Machine/Numeric.lean ====
section
/-! DEFINITION. Exact arithmetic and rounding (03 R61-R74, R80-R83, 11 R251): the values that bits encode, their exact
sums, products, quotients and roots, and the one rounding into a format. -/

namespace Sys2Proof.Machine

/-- A value: NaN, an infinity, or a sign with an exact magnitude n/d. The sign of zero is kept (03 R63). -/
inductive Val where
  | nan
  | inf (neg : Bool)
  | fin (neg : Bool) (n d : Nat)
  deriving DecidableEq, Repr

/-- A floating format (03 R62): width, mantissa bits, exponent of the smallest normal, and the magnitude patterns of
the largest finite value, of infinity if there is one, and of the canonical NaN. -/
structure FloatFmt where
  width : Nat
  m : Nat
  emin : Int
  maxb : Nat
  infb : Option Nat
  nanb : Nat
  deriving DecidableEq, Repr

def fp64 : FloatFmt := ⟨64, 52, -1022, 0x7FEFFFFFFFFFFFFF, some 0x7FF0000000000000, 0x7FF8000000000000⟩
def fp32 : FloatFmt := ⟨32, 23, -126, 0x7F7FFFFF, some 0x7F800000, 0x7FC00000⟩
def bf16 : FloatFmt := ⟨16, 7, -126, 0x7F7F, some 0x7F80, 0x7FC0⟩
def fp16 : FloatFmt := ⟨16, 10, -14, 0x7BFF, some 0x7C00, 0x7E00⟩
def e5m2 : FloatFmt := ⟨8, 2, -14, 0x7B, some 0x7C, 0x7E⟩
def e4m3 : FloatFmt := ⟨8, 3, -6, 0x7E, none, 0x7F⟩

/-- The element format of a floating format code (03 R60, R65). -/
def floatFmt : Fmt → Option FloatFmt
  | .f64 => some fp64
  | .f32 => some fp32
  | .bf16 | .bf16x2 => some bf16
  | .f16 | .f16x2 => some fp16
  | .e5m2 | .e5m2x4 => some e5m2
  | .e4m3 | .e4m3x4 => some e4m3
  | _ => none

/-- A rounding mode of 03 R69. -/
inductive Rnd where
  | rne | rtz | rup | rdn
  | sr (r24 : Nat)
  deriving DecidableEq, Repr

def rndOf : RMode → Rnd
  | .rne => .rne | .rtz => .rtz | .rup => .rup | .rdn => .rdn

/-- n/d times 2^e. -/
def scale2 (neg : Bool) (n d : Nat) (e : Int) : Val :=
  if 0 ≤ e then .fin neg (n * 2 ^ e.toNat) d else .fin neg n (d * 2 ^ (-e).toNat)

/-- The value that bits encode (03 R62, R68 val). -/
def valOf (f : FloatFmt) (y : Nat) : Val :=
  let neg := bit y (f.width - 1)
  let mag := y % 2 ^ (f.width - 1)
  match f.infb with
  | some i =>
    if mag = i then .inf neg
    else if i < mag then .nan
    else
      let e := mag / 2 ^ f.m
      if e = 0 then scale2 neg mag 1 (f.emin - f.m) else scale2 neg (mag % 2 ^ f.m + 2 ^ f.m) 1 (f.emin + e - 1 - f.m)
  | none =>
    if f.maxb < mag then .nan
    else
      let e := mag / 2 ^ f.m
      if e = 0 then scale2 neg mag 1 (f.emin - f.m) else scale2 neg (mag % 2 ^ f.m + 2 ^ f.m) 1 (f.emin + e - 1 - f.m)

/-- A subnormal value of the format. -/
def isSubnormal (f : FloatFmt) (y : Nat) : Bool :=
  let mag := y % 2 ^ (f.width - 1)
  mag != 0 && mag < 2 ^ f.m

/-- `flush` of 03 R71: a subnormal becomes zero of its sign. -/
def flushBits (f : FloatFmt) (y : Nat) : Nat :=
  if isSubnormal f y then y / 2 ^ (f.width - 1) % 2 * 2 ^ (f.width - 1) else y

/-- floor(log2(n/d)) of a positive rational. -/
def floorLog2 (n d : Nat) : Int :=
  let k : Int := (Nat.log2 n : Int) - Nat.log2 d
  let ge : Bool := if 0 ≤ k then d * 2 ^ k.toNat ≤ n else d ≤ n * 2 ^ (-k).toNat
  if ge then k else k - 1

/-- Whether a truncated magnitude with remainder r/D is stepped up (03 R69). `odd` is the truncated magnitude's. -/
def roundsUp (mode : Rnd) (neg : Bool) (t r D : Nat) : Bool :=
  match mode with
  | .rne => D < 2 * r || (2 * r = D && t % 2 = 1)
  | .rtz => false
  | .rup => r != 0 && !neg
  | .rdn => r != 0 && neg
  | .sr r24 => 2 ^ 24 ≤ r * 2 ^ 24 / D + r24 % 2 ^ 24

/-- The bits of a sign and magnitude pattern. -/
def signBits (f : FloatFmt) (neg : Bool) (mag : Nat) : Nat := (if neg then 2 ^ (f.width - 1) else 0) + mag

/-- `ovf` of 03 R70. -/
def overflow (f : FloatFmt) (neg : Bool) (mode : Rnd) : Nat :=
  let toInf : Bool :=
    match mode with
    | .rne | .sr _ => true
    | .rtz => false
    | .rup => !neg
    | .rdn => neg
  if toInf then
    match f.infb with
    | some i => signBits f neg i
    | none => f.nanb
  else signBits f neg f.maxb

/-- `round` of 03 R69 into a floating format. DEDUCED (unsafe), log entry 24. -/
def roundTo (f : FloatFmt) (mode : Rnd) : Val → Nat
  | .nan => f.nanb
  | .inf neg => overflow f neg mode
  | .fin neg n d =>
    if n = 0 then signBits f neg 0
    else
      let e := max (floorLog2 n d) f.emin
      let sh : Int := e - f.m
      let N := if 0 ≤ sh then n else n * 2 ^ (-sh).toNat
      let D := if 0 ≤ sh then d * 2 ^ sh.toNat else d
      let t := N / D
      let m := if roundsUp mode neg t (N % D) D then t + 1 else t
      let mag := (e - f.emin).toNat * 2 ^ f.m + m
      if f.maxb < mag then overflow f neg mode else signBits f neg mag

/-- `round` of an exact result of IEEE 754 arithmetic, whose infinity stays itself in every mode (03 R82; 11 R255,
R258; DEDUCED, log entry 24). DEDUCED (unsafe), log entry 24. -/
def roundIeee (f : FloatFmt) (mode : Rnd) : Val → Nat
  | .inf neg => overflow f neg .rne
  | v => roundTo f mode v

/-- `round` to an integer (03 R69 with q = 1): its magnitude. -/
def roundInt (mode : Rnd) (neg : Bool) (n d : Nat) : Nat :=
  let t := n / d
  if roundsUp mode neg t (n % d) d then t + 1 else t

/-! ### Exact operations -/

def vNeg : Val → Val
  | .nan => .nan
  | .inf s => .inf !s
  | .fin s n d => .fin (!s) n d

def vAbs : Val → Val
  | .nan => .nan
  | .inf _ => .inf false
  | .fin _ n d => .fin false n d

def vIsNan : Val → Bool
  | .nan => true
  | _ => false

def vIsZero : Val → Bool
  | .fin _ n _ => n = 0
  | _ => false

def vIsInf : Val → Bool
  | .inf _ => true
  | _ => false

def vNegSign : Val → Bool
  | .nan => false
  | .inf s => s
  | .fin s _ _ => s

/-- Two fractions over one denominator. -/
def commonDen (na da nb db : Nat) : Nat × Nat × Nat :=
  if da = db then (na, nb, da)
  else if db % da = 0 then (na * (db / da), nb, db)
  else if da % db = 0 then (na, nb * (da / db), da)
  else (na * db, nb * da, da * db)

/-- The exact sum; a zero sum takes the sign of 11 R251, `down` being mode rdn. DEDUCED (unsafe), log entry 18. -/
def vAdd (down : Bool) : Val → Val → Val
  | .nan, _ => .nan
  | _, .nan => .nan
  | .inf a, .inf b => if a = b then .inf a else .nan
  | .inf a, .fin .. => .inf a
  | .fin .., .inf b => .inf b
  | .fin sa na da, .fin sb nb db =>
    let (x, y, d) := commonDen na da nb db
    if sa = sb then .fin (if x + y = 0 then sa || down else sa) (x + y) d
    else if x = y then .fin down 0 1
    else if x < y then .fin sb (y - x) d
    else .fin sa (x - y) d

/-- The exact product. -/
def vMul : Val → Val → Val
  | .nan, _ => .nan
  | _, .nan => .nan
  | .inf a, .inf b => .inf (a != b)
  | .inf a, .fin s n _ => if n = 0 then .nan else .inf (a != s)
  | .fin s n _, .inf b => if n = 0 then .nan else .inf (s != b)
  | .fin sa na da, .fin sb nb db => .fin (sa != sb) (na * nb) (da * db)

/-- The exact quotient (11 R255). -/
def vDiv : Val → Val → Val
  | .nan, _ => .nan
  | _, .nan => .nan
  | .inf _, .inf _ => .nan
  | .inf a, .fin s _ _ => .inf (a != s)
  | .fin s _ _, .inf b => .fin (s != b) 0 1
  | .fin sa na da, .fin sb nb db =>
    if nb = 0 then (if na = 0 then .nan else .inf (sa != sb)) else .fin (sa != sb) (na * db) (da * nb)

/-- a < b for values that are not NaN; −0 equals +0. -/
def vLt : Val → Val → Bool
  | .nan, _ => false
  | _, .nan => false
  | .inf a, .inf b => a && !b
  | .inf a, .fin .. => a
  | .fin .., .inf b => !b
  | .fin sa na da, .fin sb nb db =>
    if na = 0 && nb = 0 then false
    else if sa && !sb then true
    else if !sa && sb then false
    else if sa then nb * da < na * db
    else na * db < nb * da

/-- a = b for values that are not NaN; −0 equals +0. -/
def vEq : Val → Val → Bool
  | .nan, _ => false
  | _, .nan => false
  | .inf a, .inf b => a = b
  | .inf _, .fin .. => false
  | .fin .., .inf _ => false
  | .fin sa na da, .fin sb nb db => (na = 0 && nb = 0) || (sa = sb && na * db = nb * da)

/-- The order of FMIN and FMAX: −0 below +0 (11 R256). -/
def vBelow (a b : Val) : Bool := vLt a b || (vIsZero a && vIsZero b && vNegSign a && !vNegSign b)

/-- The integer square root, by bits from 2^k down. -/
def isqrtFrom (n : Nat) : Nat → Nat → Nat
  | 0, r => if (r + 1) * (r + 1) ≤ n then r + 1 else r
  | k + 1, r => isqrtFrom n k (if (r + 2 ^ (k + 1)) * (r + 2 ^ (k + 1)) ≤ n then r + 2 ^ (k + 1) else r)

def isqrt (n : Nat) : Nat := isqrtFrom n (Nat.log2 n / 2 + 1) 0

/-- A value that rounds as the square root of n/d does in every format here: the root to at least 64 bits, and half a
unit more where it is not exact. -/
def sqrtVal (n d : Nat) : Val :=
  let k := 80 + (Nat.log2 d - Nat.log2 n) / 2 + 1
  let N := n * d * 4 ^ k
  let r := isqrt N
  if r * r = N then .fin false r (d * 2 ^ k) else .fin false (2 * r + 1) (2 * d * 2 ^ k)

/-- √ with its special cases (11 R258). -/
def vSqrt : Val → Val
  | .nan => .nan
  | .inf s => if s then .nan else .inf false
  | .fin s n d => if n = 0 then .fin s 0 1 else if s then .nan else sqrtVal n d

/-- An integer as a value. -/
def vInt (x : Int) : Val := .fin (decide (x < 0)) x.natAbs 1

def vOne : Val := .fin false 1 1
def vZero : Val := .fin false 0 1

/-! ### Integer formats and conversion (03 R61, R64, R70-R72; 11 R261) -/

/-- Bits and signedness of an integer format. -/
def intFmt : Fmt → Option (Nat × Bool)
  | .i8 | .i8x4 => some (8, true)
  | .u8 | .u8x4 => some (8, false)
  | .i16 => some (16, true)
  | .u16 => some (16, false)
  | .i32 => some (32, true)
  | .u32 => some (32, false)
  | .i64 => some (64, true)
  | .u64 => some (64, false)
  | _ => none

def intMin (n : Nat) (signed : Bool) : Int := if signed then -(2 ^ (n - 1)) else 0
def intMax (n : Nat) (signed : Bool) : Int := if signed then 2 ^ (n - 1) - 1 else 2 ^ n - 1

def clampInt (x lo hi : Int) : Int := if x < lo then lo else if hi < x then hi else x

/-- The low n bits of an integer. -/
def truncInt (n : Nat) (x : Int) : Nat := (x % (2 ^ n : Int)).toNat

/-- The integer that n bits hold. -/
def intOf (n : Nat) (signed : Bool) (y : Nat) : Int :=
  let z := y % 2 ^ n
  if signed && bit z (n - 1) then (z : Int) - 2 ^ n else z

/-- `round` into E8M0 (03 R64). DEDUCED (unsafe), log entry 18. -/
def roundE8M0 (mode : Rnd) (sat : Bool) : Val → Nat
  | .nan => 255
  | .inf neg => if neg then 0 else if sat then 254 else 255
  | .fin neg n d =>
    if neg || n = 0 then 0
    else
      let e := floorLog2 n d
      if e < -127 then
        -- between zero and 2^-127, code 0 either way
        0
      else
        -- d = (x - 2^e) / 2^e as a fraction r/D
        let N := if 0 ≤ e then n else n * 2 ^ (-e).toNat
        let D := if 0 ≤ e then d * 2 ^ e.toNat else d
        let code := (e + 127).toNat
        let up := roundsUp mode false code (N - D) D
        let c := if up then code + 1 else code
        if 254 < c then (if sat then 254 else 255) else c

/-- `sat` of 03 R68 for a floating format. -/
def satVal (f : FloatFmt) : Val → Val
  | .nan => .nan
  | .inf s => match valOf f f.maxb with | .fin _ n d => .fin s n d | v => v
  | .fin s n d =>
    match valOf f f.maxb with
    | .fin _ N D => if N * d < n * D then .fin s N D else .fin s n d
    | _ => .fin s n d

/-- `convert` of 11 R261, from an exact value that is a floating one or, with `srcInt`, an integer.
DESIGN CHOICE (unsafe), log entry 85. -/
def convertVal (dt : Fmt) (mode : Rnd) (sat srcInt : Bool) (x : Val) : Nat :=
  match floatFmt dt with
  | some f => roundTo f mode (if sat then satVal f x else x)
  | none =>
    if dt = .e8m0 then roundE8M0 mode sat x
    else
      match intFmt dt with
      | none => 0
      | some (n, sg) =>
        match x with
        | .nan => 0
        | .inf neg => truncInt n (if neg then intMin n sg else intMax n sg)
        | .fin neg a d =>
          let m := roundInt mode neg a d
          let v : Int := if neg then -(m : Int) else m
          if srcInt && !sat then truncInt n v else truncInt n (clampInt v (intMin n sg) (intMax n sg))

/-- The exact value that a format's bits hold, integers included. -/
def valAs (t : Fmt) (y : Nat) : Val :=
  match floatFmt t with
  | some f => valOf f y
  | none =>
    if t = .e8m0 then (if y % 256 = 255 then .nan else scale2 false 1 1 ((y % 256 : Int) - 127))
    else
      match intFmt t with
      | some (n, sg) => vInt (intOf n sg y)
      | none => vInt (y % 2 ^ 32)

/-! ### Stochastic rounding (03 R73) -/

def srhash (seed lane idx : Nat) : Nat :=
  let u (x : Nat) : Nat := x % 2 ^ 32
  let h0 := u (seed + 0x9E3779B9 * (idx + 1))
  let h1 := Nat.xor h0 (u (lane * 0x85EBCA6B))
  let h2 := Nat.xor h1 (h1 / 2 ^ 16)
  let h3 := u (h2 * 0x7FEB352D)
  let h4 := Nat.xor h3 (h3 / 2 ^ 15)
  let h5 := u (h4 * 0x846CA68B)
  Nat.xor h5 (h5 / 2 ^ 16)

/-! ### Fields of `fmt` (03 R75) -/

def fmtFtz8 (w : Word) : Bool := bit w.toNat 17
def fmtSat (w : Word) : Bool := bit w.toNat 16
def fmtSr (w : Word) : Bool := bit w.toNat 15
def fmtCrnd (w : Word) : Rnd :=
  match bits w.toNat 14 13 with
  | 0 => .rne | 1 => .rtz | 2 => .rup | _ => .rdn
def fmtSfmt (w : Word) : Fmt :=
  match bits w.toNat 12 11 with
  | 0 => .bf16 | 1 => .e8m0 | _ => .f32
def fmtWgs (w : Word) : Nat := 32 * 2 ^ bits w.toNat 10 9

/-- A value of `fmt` that R76 admits: no reserved bit, no invalid field value. -/
def fmtValid (w : Word) : Bool :=
  let x := w.toNat
  x < 2 ^ 18 && bits x 12 11 < 3 && bits x 10 9 < 3 && bits x 8 7 < 2 && bits x 6 3 < 8 && bits x 2 0 < 5

/-- The format an AFMT or BFMT value names. -/
def operandFmt : Nat → Fmt
  | 0 => .bf16 | 1 => .e4m3 | 2 => .e5m2 | 3 => .f16 | 4 => .i8 | 5 => .int4g | 6 => .int3g | _ => .uint4g

/-- An input of an instruction that reads `fmt` (11 R252): flushed where FTZ8 or version 8 says so. -/
def flushFor (w : Word) (nbv : Nat) (t : Fmt) (y : Nat) : Nat :=
  match floatFmt t with
  | none => y
  | some f =>
    if (f.width = 8 && (fmtFtz8 w || nbv = 8)) || (t = .f16 || t = .f16x2) && fmtFtz8 w then flushBits f y else y

/-- Element i of a packed register (03 R65). -/
def elemBits (t : Fmt) : Nat :=
  match t.elems with
  | 2 => 16
  | 4 => 8
  | _ => match floatFmt t with
    | some f => f.width
    | none => if t = .e8m0 then 8 else match intFmt t with | some (n, _) => n | none => 32

def elemOf (t : Fmt) (x : Nat) (i : Nat) : Nat := (x / 2 ^ (elemBits t * i)) % 2 ^ elemBits t

/-- A register built from its elements. -/
def packElems (w : Nat) : List Nat → Nat
  | [] => 0
  | x :: r => x % 2 ^ w + 2 ^ w * packElems w r

/-! ### Dot products of the array (03 R81-R83) -/

/-- An exact sum of products with the special cases of 03 R82, over a list of pairs. -/
def dotSum : List (Val × Val) → Val
  | [] => vZero
  | (a, b) :: r => vAdd false (vMul a b) (dotSum r)

/-- The run sums of a floating dot product, added in order into the accumulator (03 R81). `pairs` are the runs, each
with its scale. DEDUCED (unsafe), log entry 24; DESIGN CHOICE (unsafe), log entry 85. -/
def dotRuns (nbv : Nat) (acc : Nat) : List (List (Val × Val) × Val) → Nat
  | [] => acc
  | (ps, sc) :: r =>
    let anyNan := ps.any fun p => vIsNan p.1 || vIsNan p.2
    let s := vMul (if anyNan then .nan else dotSum ps) sc
    let t := roundIeee fp32 (if nbv = 9 then .rne else .rtz) (if vIsZero s then vZero else s)
    dotRuns nbv (roundTo fp32 .rne (vAdd false (valOf fp32 acc) (valOf fp32 t))) r

end Sys2Proof.Machine
end

