-- ==== Sys2Proof/WellFormed.lean ====
section
/-! DEFINITION. Well-formed instructions: those whose fields pass every slot check of 02 R45 that their operands,
formats and modifiers can fail. The checks themselves are the decoder's (Machine/Operands.lean). -/

namespace Sys2Proof

/-- Every slot check of the instruction holds. -/
def Instr.wf (i : Instr) : Bool := i.fieldOk && i.typeOk && i.operandOk

/-- An instruction the decoder can give. -/
def Instr.WellFormed (i : Instr) : Prop := i.wf = true

end Sys2Proof
end

