-- ==== Sys2Proof/Decode.lean ====
section
/-! DEFINITION. The decoder of the 96-bit instructions (02 R36-R47, and the encoding rule of each chapter), of the
64-bit relay instructions (14 R332-R334), and the encoders written from the same tables. A word that fails a slot
check is rejected by the class of the first check that fails, in the order of 02 R45. -/

namespace Sys2Proof

/-- The fields of a word (02 R36); `up` is bits 95:64. -/
structure Fields where
  opc : BitVec 8
  pred : BitVec 4
  mod : BitVec 3
  i : BitVec 1
  dst : BitVec 10
  z : BitVec 1
  a : BitVec 11
  b : BitVec 11
  c : BitVec 11
  hs : BitVec 2
  hl : BitVec 2
  up : BitVec 32
  deriving DecidableEq, Repr

/-- The fields of a word (02 R36). -/
def fieldsOfWord (w : InsWord) : Fields where
  opc := w.extractLsb' 0 8
  pred := w.extractLsb' 8 4
  mod := w.extractLsb' 12 3
  i := w.extractLsb' 15 1
  dst := w.extractLsb' 16 10
  z := w.extractLsb' 26 1
  a := w.extractLsb' 27 11
  b := w.extractLsb' 38 11
  c := w.extractLsb' 49 11
  hs := w.extractLsb' 60 2
  hl := w.extractLsb' 62 2
  up := w.extractLsb' 64 32

/-- The word of its fields (02 R36). -/
def wordOfFields (f : Fields) : InsWord :=
  f.up ++ f.hl ++ f.hs ++ f.c ++ f.b ++ f.a ++ f.z ++ f.dst ++ f.i ++ f.mod ++ f.pred ++ f.opc

/-- File codes (02 R37). -/
def regFileOfCode (x : BitVec 2) : RegFile :=
  if x = 0 then .lane else if x = 1 then .scalar else if x = 2 then .special else .latch

def regFileCode (f : RegFile) : BitVec 2 := BitVec.ofNat 2 f.code

/-- A source field: policy, register, file (02 R36). -/
def srcOfCode (x : BitVec 11) : Src := ⟨regFileOfCode (x.extractLsb' 0 2), x.extractLsb' 2 8, x.getLsbD 10⟩

def srcCode (s : Src) : BitVec 11 := BitVec.ofBool s.policy ++ s.reg ++ regFileCode s.file

/-- The DST field: register, file (02 R36). -/
def dstOfCode (x : BitVec 10) : Dst := ⟨regFileOfCode (x.extractLsb' 0 2), x.extractLsb' 2 8⟩

def dstCode (d : Dst) : BitVec 10 := d.reg ++ regFileCode d.file

/-- A predicate with its negation in bit 3 (02 R36). -/
def predOfCode (x : BitVec 4) : Pred := ⟨x.getLsbD 3, x.extractLsb' 0 3⟩

def predCode (p : Pred) : BitVec 4 := BitVec.ofBool p.neg ++ p.idx

/-- Format codes (03 R60). -/
def fmtTable : List (Nat × Fmt) :=
  [(0x00, .bits), (0x01, .i8), (0x02, .u8), (0x03, .i16), (0x04, .u16), (0x05, .i32), (0x06, .u32), (0x07, .i64),
   (0x08, .u64), (0x10, .f16), (0x11, .bf16), (0x12, .f32), (0x13, .f64), (0x14, .e4m3), (0x15, .e5m2), (0x16, .e8m0),
   (0x18, .bf16x2), (0x19, .f16x2), (0x1A, .e4m3x4), (0x1B, .e5m2x4), (0x20, .int4g), (0x21, .int3g), (0x22, .uint4g),
   (0x23, .i8x4), (0x24, .u8x4)]

def fmtOfCode (c : Nat) : Option Fmt := fmtTable.lookup c

def fmtCode : Fmt → Nat
  | .bits => 0x00 | .i8 => 0x01 | .u8 => 0x02 | .i16 => 0x03 | .u16 => 0x04 | .i32 => 0x05 | .u32 => 0x06
  | .i64 => 0x07 | .u64 => 0x08 | .f16 => 0x10 | .bf16 => 0x11 | .f32 => 0x12 | .f64 => 0x13 | .e4m3 => 0x14
  | .e5m2 => 0x15 | .e8m0 => 0x16 | .bf16x2 => 0x18 | .f16x2 => 0x19 | .e4m3x4 => 0x1A | .e5m2x4 => 0x1B
  | .int4g => 0x20 | .int3g => 0x21 | .uint4g => 0x22 | .i8x4 => 0x23 | .u8x4 => 0x24

/-- What a word reads as after the step-1 checks of its raw fields: the instruction, whether every format code it
carries exists, whether its scope code exists, and whether the files that the instruction does not itself carry are
the ones it admits (02 R45 steps 2 to 4). -/
abbrev Parsed := Option (Instr × Bool × Bool × Bool)

/-- An instruction, where its step-1 checks hold. -/
def need (c : Bool) (i : Instr) (ty : Bool := true) (op : Bool := true) : Parsed :=
  if c then some (i, ty, true, op) else none

/-- An instruction with one format code. -/
def needT (c : Bool) (code : Nat) (k : Fmt → Instr) : Parsed :=
  if c then
    match fmtOfCode code with
    | some t => some (k t, true, true, true)
    | none => some (k .bits, false, true, true)
  else none

/-- The scope of a code (02 R41). -/
def scopeOfCode (c : Nat) : Option Scope :=
  match c with
  | 0 => some .grp | 1 => some .blk | 2 => some .die | 3 => some .pkg | 4 => some .sys | _ => none

def scopeCode : Scope → Nat
  | .grp => 0 | .blk => 1 | .die => 2 | .pkg => 3 | .sys => 4

/-- An instruction with one scope code. -/
def needS (c : Bool) (code : Nat) (k : Scope → Instr) : Parsed :=
  if c then
    match scopeOfCode code with
    | some t => some (k t, true, true, true)
    | none => some (k .grp, true, false, true)
  else none

def orderOfCode (c : Nat) : MOrd :=
  match c with
  | 0 => .plain | 1 => .acq | 2 => .rel | _ => .acqrel

def orderCode : MOrd → Nat
  | .plain => 0 | .acq => 1 | .rel => 2 | .acqrel => 3

def sizeOfCode (c : Nat) : Option MSize :=
  match c with
  | 0 => some .b8 | 1 => some .b16 | 2 => some .b32 | 3 => some .b64 | 4 => some .b128 | _ => none

def sizeCode : MSize → Nat
  | .b8 => 0 | .b16 => 1 | .b32 => 2 | .b64 => 3 | .b128 => 4

/-! Field tests: a field that an instruction does not use is zero (02 R44). -/

def Fields.dz (f : Fields) : Bool := f.dst == 0
def Fields.az (f : Fields) : Bool := f.a == 0
def Fields.bz (f : Fields) : Bool := f.b == 0
def Fields.cz (f : Fields) : Bool := f.c == 0
def Fields.uz (f : Fields) : Bool := f.up == 0
def Fields.m0 (f : Fields) : Bool := f.mod == 0
def Fields.iz (f : Fields) : Bool := f.i == 0
def Fields.hz (f : Fields) : Bool := f.hs == 0 && f.hl == 0
/-- MOD is at most n. -/
def Fields.mLe (f : Fields) (n : Nat) : Bool := f.mod.toNat ≤ n
def Fields.m1 (f : Fields) : Bool := f.mod == 1
def Fields.dstF (f : Fields) : Dst := dstOfCode f.dst
def Fields.aF (f : Fields) : Src := srcOfCode f.a
def Fields.bF (f : Fields) : Src := srcOfCode f.b
def Fields.cF (f : Fields) : Src := srcOfCode f.c
/-- Upper-field bits l to l + n - 1. -/
def Fields.upF (f : Fields) (l n : Nat) : BitVec n := f.up.extractLsb' l n
/-- The upper field has no bit above l set. -/
def Fields.upTop (f : Fields) (l : Nat) : Bool := f.up.toNat < 2 ^ l

/-- R format with I = 0: TYPE in bits 71:64 and no EXT bit set (02 R40). -/
def Fields.r0 (f : Fields) : Bool := f.iz && f.upTop 8
/-- R format with I = 1: TYPE in bits 45:38, bits 48:46 zero (02 R40). -/
def Fields.r1 (f : Fields) : Bool := f.i == 1 && f.b.toNat < 256
/-- R format in either form. -/
def Fields.rI (f : Fields) : Bool := f.r0 || f.r1
/-- TYPE of an R- or M-format word (02 R40). -/
def Fields.ty (f : Fields) : Nat := if f.i == 1 then f.b.toNat % 256 else f.up.toNat % 256
/-- Source B, or the immediate of the I form (02 R40). -/
def Fields.bI (f : Fields) : BOpd := if f.i == 1 then .imm f.up else .reg f.bF

/-- A B-format target, refused with SLOT 5-7 (02 R43). -/
def Fields.target (f : Fields) (k : Target → Parsed) : Parsed :=
  if h : (f.upF 0 3).toNat < 5 then k ⟨⟨(f.upF 0 3).toNat, h⟩, f.upF 3 29⟩ else none

/-- A B- or X-format word has I = 0 (02 R40); control words hold nothing (15 R358). -/
def Fields.x0 (f : Fields) : Bool := f.iz && f.hz

/-- An M-format address with its step-1 checks (02 R40, R42): I = 0 has ISCALE 0-4; I = 1 has bits 48:46 zero. -/
def Fields.mem (f : Fields) (k : MemOpd → Parsed) : Parsed :=
  if f.iz then
    if h : (f.upF 8 3).toNat < 5 then
      k ⟨f.aF, .reg f.bF ⟨(f.upF 8 3).toNat, h⟩ (f.up.getLsbD 11) (f.upF 12 20)⟩
    else none
  else if f.b.toNat < 256 then k ⟨f.aF, .off f.up⟩ else none

/-- Opcodes 0x00-0x14 (15 R358). -/
def parseControl (f : Fields) (g : Guard) (o : Nat) : Parsed :=
  match o with
  | 0x00 => need (f.x0 && f.m0 && f.dz && f.az && f.bz && f.cz && f.uz) (.nop g)
  | 0x01 => f.target fun t => need (f.x0 && f.m0 && f.dz && f.az && f.bz && f.cz) (.bra g t)
  | 0x02 => need (f.x0 && f.m0 && f.dz && f.bz && f.cz && f.uz) (.bri g f.aF)
  | 0x03 => f.target fun t => need (f.x0 && f.m0 && f.dz && f.az) (.brx g t f.bF f.cF)
  | 0x04 => f.target fun t => need (f.x0 && f.m0 && f.az && f.bz && f.cz) (.call g f.dstF t)
  | 0x05 => need (f.x0 && f.m0 && f.bz && f.cz && f.uz) (.calli g f.dstF f.aF)
  | 0x06 => need (f.x0 && f.m0 && f.dz && f.bz && f.cz && f.uz) (.ret g f.aF)
  | 0x07 => f.target fun t => need (f.x0 && f.m0 && f.dz && f.az && f.bz && f.cz) (.join g t)
  | 0x08 => need (f.x0 && f.m0 && f.dz && f.az && f.bz && f.cz && f.uz) (.wsync g)
  | 0x09 => f.target fun t => need (f.x0 && f.m0 && f.az && f.bz && f.cz) (.loop g f.dstF t)
  | 0x0A => need (f.x0 && f.mLe 1 && f.dz && f.az && f.bz && f.cz && f.upTop 14)
      (.bar g f.m1 (f.upF 0 4) (f.upF 4 10))
  | 0x0B => need (f.x0 && f.mLe 1 && f.dz && f.az && f.bz && f.cz && f.upTop 14)
      (.bara g f.m1 (f.upF 0 4) (f.upF 4 10))
  | 0x0C => need (f.x0 && f.mLe 1 && f.dz && f.az && f.bz && f.cz && f.upTop 4) (.barw g f.m1 (f.upF 0 4))
  | 0x0D => need (f.x0 && f.m0 && f.dz && f.az && f.bz && f.cz && f.uz) (.yield g)
  | 0x0E => need (f.x0 && f.m0 && f.dz && f.az && f.bz && f.cz && f.uz) (.exit g)
  | 0x0F => f.target fun t => need (f.x0 && f.bz && f.cz) (.spawn g f.mod f.dstF f.aF t)
  | 0x10 => f.target fun t => need (f.x0 && f.bz && f.cz) (.spawnw g f.mod f.dstF f.aF t)
  | 0x11 => need (f.x0 && f.m0 && f.cz && f.uz) (.innset g f.dstF f.aF f.bF)
  | 0x12 => need (f.x0 && f.mLe 1 && f.dz && f.bz && f.cz && f.uz && (f.m0 || f.az))
      (.curfew g (if f.m0 then some f.aF else none))
  | 0x13 => need (f.x0 && f.m0 && f.cz && f.uz) (.launch g f.dstF f.aF f.bF)
  | 0x14 => need (f.x0 && f.mLe 1 && f.bz && f.cz && f.uz && (f.m0 || f.az))
      (.lwait g f.dstF (if f.m0 then some f.aF else none))
  | _ => none

/-- Opcodes 0x20-0x2D (09 R220). -/
def parseRegisters (f : Fields) (g : Guard) (o : Nat) : Parsed :=
  match o with
  | 0x20 => needT (f.r0 && f.m0 && f.bz && f.cz) f.ty fun t => .mov g t f.dstF f.aF
  | 0x21 => need (f.x0 && f.mLe 1 && f.az && f.bz && f.cz) (.movi g f.m1 f.dstF f.up)
  | 0x22 => need (f.x0 && f.m0 && f.az && f.bz && f.cz) (.movhi g f.dstF f.up)
  | 0x23 => needT (f.rI && f.cz) f.ty fun t => .sel g f.mod t f.dstF f.aF f.bI
  | 0x24 => need (f.x0 && f.m0 && f.dz && f.az && f.bz && f.cz && f.upTop 20)
      (.plop g (f.upF 0 8) (f.upF 8 3) (f.upF 11 3) (f.upF 14 3) (f.upF 17 3))
  | 0x25 =>
    match f.mod.toNat with
    | 0 => need (f.iz && f.dz && f.bz && f.cz && f.upTop 3) (.s2p g (.toPred (f.upF 0 3) f.aF))
    | 1 => need (f.x0 && f.az && f.bz && f.cz && f.upTop 3) (.s2p g (.rev f.dstF (f.upF 0 3)))
    | 2 => need (f.iz && f.dz && f.bz && f.cz && f.uz) (.s2p g (.all f.aF))
    | 3 => need (f.x0 && f.az && f.bz && f.cz && f.uz) (.s2p g (.vr f.dstF))
    | _ => none
  | 0x26 => need (f.x0 && f.mLe 1 && f.bz && f.cz && f.uz) (.getc g f.m1 f.dstF f.aF.reg)
      (op := f.aF.file == .special && !f.aF.policy)
  | 0x27 => need (f.iz && f.mLe 1 && f.bz && f.cz && f.uz) (.setc g f.m1 f.dstF.reg f.aF)
      (op := f.dstF.file == .special)
  | 0x28 => need (f.rI && f.mLe 1 && f.dz && f.cz && (f.m1 || f.az))
      (.setfmt g (if f.m1 then some f.aF else none) f.bI) (ty := f.ty == 0x00)
  | 0x29 => need (f.rI && f.dz && f.az && f.cz) (.setscl g f.mod f.bI) (ty := f.ty == 0x12)
  | 0x2A => need (f.x0 && f.mLe 1 && f.dz && f.az && f.bz && f.cz && f.upTop 9)
      (.racq g f.m1 (f.upF 0 6) (f.upF 6 3))
  | 0x2B => need (f.x0 && f.m0 && f.dz && f.az && f.bz && f.cz && f.upTop 6) (.rrel g (f.upF 0 6))
  | 0x2C => need (f.x0 && f.mLe 1 && f.dz && f.bz && f.cz && f.upTop 5 && (f.m0 || (f.az && f.uz)))
      (.fewait g (if f.m0 then some (f.aF, f.upF 0 5) else none))
  | 0x2D => need (f.x0 && f.m0 && f.dz && f.bz && f.cz && f.upTop 8) (.fechk g (f.upF 5 3) f.aF (f.upF 0 5))
  | _ => none

/-- The predicate write of ICMP, FCMP and FCLASS (10 R236). -/
def predWriteOf (c : BitVec 11) : PredWrite :=
  ⟨c.extractLsb' 7 2, ⟨c.getLsbD 6, c.extractLsb' 3 3⟩, c.extractLsb' 0 3⟩

/-- The C field's bits above l are zero. -/
def Fields.cTop (f : Fields) (l : Nat) : Bool := f.c.toNat < 2 ^ l

def cmpOfCode : Nat → Cmp
  | 0 => .eq | 1 => .ne | 2 => .lt | 3 => .le | 4 => .gt | _ => .ge

def fcmpOfCode : Nat → FCmp
  | 0 => .eq | 1 => .ne | 2 => .lt | 3 => .le | 4 => .gt | 5 => .ge | 6 => .num | _ => .nan

def rmOfCode : Nat → RMode
  | 0 => .rne | 1 => .rtz | 2 => .rup | _ => .rdn

def redOfCode : Nat → RedOp
  | 0 => .add | 1 => .min | 2 => .max | 3 => .and | 4 => .or | _ => .xor

/-- Opcodes 0x30-0x4C (10 R229). -/
def parseInteger (f : Fields) (g : Guard) (o : Nat) : Parsed :=
  match o with
  | 0x30 => needT (f.rI && f.mLe 1 && f.cz) f.ty fun t => .iadd g f.m1 t f.dstF f.aF f.bI
  | 0x31 => needT (f.rI && f.m0) f.ty fun t => .iadd3 g t f.dstF f.aF f.bI f.cF
  | 0x32 => needT (f.rI && f.m0 && f.cTop 7) f.ty
      fun t => .iaddc g t f.dstF f.aF f.bI ⟨f.c.getLsbD 6, f.c.extractLsb' 3 3⟩ (f.c.extractLsb' 0 3)
  | 0x33 => needT (f.rI && f.mLe 1 && f.cz) f.ty fun t => .isub g f.m1 t f.dstF f.aF f.bI
  | 0x34 => needT (f.rI && f.m0 && f.cz) f.ty fun t => .imul g t f.dstF f.aF f.bI
  | 0x35 => needT (f.rI && f.m0 && f.cz) f.ty fun t => .imulhi g t f.dstF f.aF f.bI
  | 0x36 => needT (f.rI && f.m0) f.ty fun t => .imad g t f.dstF f.aF f.bI f.cF
  | 0x37 => needT (f.rI && f.m0) f.ty fun t => .imadw g t f.dstF f.aF f.bI f.cF
  | 0x38 => needT (f.rI && f.mLe 1 && f.cz) f.ty fun t => .idiv g f.m1 t f.dstF f.aF f.bI
  | 0x39 => needT (f.rI && f.m0 && f.cz) f.ty fun t => .imin g t f.dstF f.aF f.bI
  | 0x3A => needT (f.rI && f.m0 && f.cz) f.ty fun t => .imax g t f.dstF f.aF f.bI
  | 0x3B => needT (f.r0 && f.mLe 1 && f.bz && f.cz) f.ty fun t => .iabs g f.m1 t f.dstF f.aF
  | 0x3C => needT (f.rI && f.m0) f.ty fun t => .isad g t f.dstF f.aF f.bI f.cF
  | 0x3D =>
    if h : f.mod.toNat < 6 then
      needT (f.r0 && f.bz && f.cz) f.ty fun t => .isat g ⟨f.mod.toNat, h⟩ t f.dstF f.aF
    else none
  | 0x3E => needT (f.iz && f.m0 && f.upTop 16) f.ty fun t => .lop3 g t f.dstF f.aF f.bF f.cF (f.upF 8 8)
  | 0x3F => needT (f.rI && f.mLe 1 && f.cz) f.ty fun t => .shl g f.m1 t f.dstF f.aF f.bI
  | 0x40 => needT (f.rI && f.mLe 1 && f.cz) f.ty fun t => .shr g f.m1 t f.dstF f.aF f.bI
  | 0x41 => needT (f.rI && f.mLe 1 && f.cz) f.ty fun t => .sar g f.m1 t f.dstF f.aF f.bI
  | 0x42 => needT (f.rI && f.mLe 3) f.ty
      fun t => .fshf g (f.mod.getLsbD 0) (f.mod.getLsbD 1) t f.dstF f.aF f.bI f.cF
  | 0x43 => needT (f.rI && f.m0 && f.cz) f.ty fun t => .bfe g t f.dstF f.aF f.bI
  | 0x44 => needT (f.rI && f.m0) f.ty fun t => .bfi g t f.dstF f.aF f.bI f.cF
  | 0x45 => needT (f.rI && f.m0 && f.cz) f.ty fun t => .bmsk g t f.dstF f.aF f.bI
  | 0x46 => needT (f.r0 && f.m0 && f.bz && f.cz) f.ty fun t => .popc g t f.dstF f.aF
  | 0x47 => needT (f.r0 && f.m0 && f.bz && f.cz) f.ty fun t => .clz g t f.dstF f.aF
  | 0x48 => needT (f.r0 && f.m0 && f.bz && f.cz) f.ty fun t => .brev g t f.dstF f.aF
  | 0x49 => need (f.rI && f.m0) (.prmt g f.dstF f.aF f.bI f.cF) (ty := f.ty == 0x00)
  | 0x4A => needT (f.rI && f.mLe 5 && f.dz && f.cTop 9) f.ty
      fun t => .icmp g (cmpOfCode f.mod.toNat) t f.aF f.bI (predWriteOf f.c)
  | 0x4B => f.mem fun m => need (f.m0 && f.cz) (.lea g f.dstF m) (ty := f.ty == 0x08)
  | 0x4C => needT (f.rI && f.mLe 3) f.ty
      fun t => .idot4 g (f.mod.getLsbD 0) (f.mod.getLsbD 1) t f.dstF f.aF f.bI f.cF
  | _ => none

/-- Opcodes 0x58-0x72 (11 R253). -/
def parseFloat (f : Fields) (g : Guard) (o : Nat) : Parsed :=
  let rm := rmOfCode f.mod.toNat
  match o with
  | 0x58 => needT (f.rI && f.mLe 3 && f.cz) f.ty fun t => .fadd g rm t f.dstF f.aF f.bI
  | 0x59 => needT (f.rI && f.mLe 3 && f.cz) f.ty fun t => .fsub g rm t f.dstF f.aF f.bI
  | 0x5A => needT (f.rI && f.mLe 3 && f.cz) f.ty fun t => .fmul g rm t f.dstF f.aF f.bI
  | 0x5B => needT (f.rI && f.mLe 3) f.ty fun t => .ffma g rm t f.dstF f.aF f.bI f.cF
  | 0x5C => needT (f.rI && f.mLe 1 && f.cz) f.ty fun t => .fmin g f.m1 t f.dstF f.aF f.bI
  | 0x5D => needT (f.rI && f.mLe 1 && f.cz) f.ty fun t => .fmax g f.m1 t f.dstF f.aF f.bI
  | 0x5E => needT (f.rI && f.dz && f.cTop 9) f.ty
      fun t => .fcmp g (fcmpOfCode f.mod.toNat) t f.aF f.bI (predWriteOf f.c)
  | 0x5F => needT (f.rI && f.mLe 2 && f.cz) f.ty
      fun t => .fcpys g (if f.m0 then .cpy else if f.m1 then .neg else .xor) t f.dstF f.aF f.bI
  | 0x60 => needT (f.r0 && f.mLe 3 && f.bz && f.cz) f.ty fun t => .frnd g rm t f.dstF f.aF
  | 0x61 => needT (f.r0 && f.mLe 3 && f.bz && f.cz) f.ty fun t => .frcp g rm t f.dstF f.aF
  | 0x62 => needT (f.r0 && f.mLe 3 && f.bz && f.cz) f.ty fun t => .frsq g rm t f.dstF f.aF
  | 0x63 => needT (f.r0 && f.mLe 3 && f.bz && f.cz) f.ty fun t => .fsqrt g rm t f.dstF f.aF
  | 0x64 => needT (f.rI && f.mLe 3 && f.cz) f.ty fun t => .fdiv g rm t f.dstF f.aF f.bI
  | 0x65 => needT (f.r0 && f.m0 && f.bz && f.cz) f.ty fun t => .fexp2 g t f.dstF f.aF
  | 0x66 => needT (f.r0 && f.m0 && f.bz && f.cz) f.ty fun t => .flog2 g t f.dstF f.aF
  | 0x67 => needT (f.r0 && f.m0 && f.bz && f.cz) f.ty fun t => .ftanh g t f.dstF f.aF
  | 0x68 => needT (f.r0 && f.m0 && f.bz && f.cz) f.ty fun t => .ferf g t f.dstF f.aF
  | 0x69 => needT (f.r0 && f.m0 && f.bz && f.cz) f.ty fun t => .fsin g t f.dstF f.aF
  | 0x6A => needT (f.r0 && f.m0 && f.bz && f.cz) f.ty fun t => .fcos g t f.dstF f.aF
  | 0x6B => needT (f.rI && f.m0 && f.dz && f.cTop 9) f.ty fun t => .fclass g t f.aF f.bI (predWriteOf f.c)
  | 0x6C => needT (f.rI && f.mLe 3 && f.cz) f.ty fun t => .fscale g rm t f.dstF f.aF f.bI
  | 0x6D => needT (f.r0 && f.m0) f.ty fun t => .fdot2 g t f.dstF f.aF f.bF f.cF
  | 0x6E => needT (f.r0 && f.mLe 1) f.ty fun t => .fdot4 g f.m1 t f.dstF f.aF f.bF f.cF
  | 0x6F =>
    if f.iz && f.mLe 4 && f.bz && f.upTop 19 && (f.mod.toNat == 4 || f.cz) then
      let m : CvtMode := if f.mod.toNat == 4 then .fmt f.cF else .fixed rm
      let elt := f.upF 17 2
      match fmtOfCode (f.upF 0 8).toNat, fmtOfCode (f.upF 8 8).toNat with
      | some dt, some st => some (.cvt g m (f.up.getLsbD 16) elt dt st f.dstF f.aF, true, true, true)
      | _, some st =>
        if elt == 0 || !fmtsUnpacked.contains st then
          some (.cvt g m (f.up.getLsbD 16) 0 .bits .bits f.dstF f.aF, false, true, true) else none
      | _, none => some (.cvt g m (f.up.getLsbD 16) 0 .bits .bits f.dstF f.aF, false, true, true)
    else none
  | 0x70 => needT (f.r0 && f.bz) f.ty fun t => .cvtn g f.mod t f.dstF f.aF f.cF
  | 0x71 =>
    let u := f.ty == 0x22
    if f.mod.toNat == 4 then
      needT (f.r0 && f.cz && (u || f.bz)) f.ty
        fun t => .qntg g true .rne t f.dstF f.aF (if u then some f.bF else none) none
    else
      needT (f.r0 && f.mLe 3 && (u || f.cz)) f.ty
        fun t => .qntg g false rm t f.dstF f.aF (some f.bF) (if u then some f.cF else none)
  | 0x72 =>
    let u := f.ty == 0x22
    needT (f.r0 && f.mLe 3 && (u || f.cz)) f.ty
      fun t => .dqnt g (f.mod.extractLsb' 0 2) t f.dstF f.aF f.bF (if u then some f.cF else none)
  | _ => none

/-- Opcodes 0x78-0x80 (10 R239). -/
def parseCrossLane (f : Fields) (g : Guard) (o : Nat) : Parsed :=
  let red := redOfCode f.mod.toNat
  match o with
  | 0x78 => needT (f.rI && f.mLe 3 && f.cTop 4 && (f.c.getLsbD 3 || f.cz)) f.ty
      fun t => .shfl g (match f.mod.toNat with | 0 => .idx | 1 => .up | 2 => .down | _ => .xor) t f.dstF f.aF f.bI
        (if f.c.getLsbD 3 then some (f.c.extractLsb' 0 3) else none)
  | 0x79 =>
    let q : Pred := ⟨f.c.getLsbD 6, f.c.extractLsb' 3 3⟩
    match f.mod.toNat with
    | 0 => need (f.r0 && f.dz && f.az && f.bz && f.cTop 7) (.vote g .all q (f.c.extractLsb' 0 3) none) (ty := f.ty == 0)
    | 1 => need (f.r0 && f.dz && f.az && f.bz && f.cTop 7) (.vote g .any q (f.c.extractLsb' 0 3) none) (ty := f.ty == 0)
    | 2 => need (f.r0 && f.dz && f.az && f.bz && f.cTop 7) (.vote g .uni q (f.c.extractLsb' 0 3) none) (ty := f.ty == 0)
    | 3 => need (f.r0 && f.az && f.bz && f.cTop 7 && f.c.extractLsb' 0 3 == 0) (.vote g .all q 0 (some f.dstF))
        (ty := f.ty == 0)
    | _ => none
  | 0x7A => needT (f.r0 && f.mLe 5 && f.bz && f.cTop 1) f.ty fun t => .scan g red (f.c == 1) t f.dstF f.aF
  | 0x7B => needT (f.r0 && f.mLe 5 && f.bz && f.cz) f.ty fun t => .lred g red t f.dstF f.aF
  | 0x7C => needT (f.iz && f.mLe 1 && f.cz && f.upTop 19 && (f.up.getLsbD 18 || f.upF 15 3 == 0)) f.ty
      fun t => .topk g f.m1 t f.dstF f.aF f.bF (f.upF 11 4) (f.upF 8 3)
        (if f.up.getLsbD 18 then some (f.upF 15 3) else none)
  | 0x7D => needT (f.iz && f.mLe 1 && f.cz && f.upTop 11) f.ty fun t => .bsort g f.m1 t f.dstF f.aF f.bF (f.upF 8 3)
  | 0x7E => needT (f.r0 && f.m0 && f.bz && f.cz) f.ty fun t => .lmatch g t f.dstF f.aF
  | 0x7F => need (f.r0 && f.m0 && f.bz && f.cTop 4)
      (.compact g f.dstF f.aF ⟨f.c.getLsbD 3, f.c.extractLsb' 0 3⟩) (ty := f.ty == 0)
  | 0x80 => need (f.rI && f.mLe 1 && f.cz) (.lhist g f.m1 f.dstF f.aF f.bI) (ty := f.ty == 0x06)
  | _ => none

/-- MATTR (02 R41) in C, with the scope a row allows: `sc = false` for a row whose SCOPE is zero. -/
def Fields.mattr (f : Fields) (sc : Bool) (k : MAttr → Parsed) : Parsed :=
  if f.cTop 10 then
    match sizeOfCode (f.c.extractLsb' 0 3).toNat with
    | none => none
    | some size =>
      let cache := f.c.extractLsb' 8 2
      let ord := orderOfCode (f.c.extractLsb' 3 2).toNat
      let code := (f.c.extractLsb' 5 3).toNat
      match scopeOfCode code with
      | some s => if sc || code == 0 then k ⟨cache, s, ord, size⟩ else none
      | none => (k ⟨cache, .grp, ord, size⟩).map fun (i, t, _, o) => (i, t, false, o)
  else none

/-- An M-format instruction with TYPE, attributes and address. -/
def Fields.memT (f : Fields) (c sc : Bool) (k : Fmt → MAttr → MemOpd → Instr) : Parsed :=
  f.mem fun m => f.mattr sc fun a => needT c f.ty fun t => k t a m

def atomOfCode : Nat → AtomOp
  | 0 => .add | 1 => .and | 2 => .or | 3 => .xor | 4 => .min | 5 => .max | 6 => .exch | _ => .inc

def atomFOfCode : Nat → AtomFOp
  | 0 => .add | 1 => .min | _ => .max

/-- Opcodes 0x84-0x98 (07 R158, R177, R178). FENCEA's fields that are not zero, a SCOPE of 5 to 7 too, are illegal
instructions. DEDUCED (unsafe), log entry 16. -/
def parseMemory (f : Fields) (g : Guard) (o : Nat) : Parsed :=
  match o with
  | 0x84 => f.memT f.m0 true fun t a m => .ld g t a f.dstF m
  | 0x85 => f.memT f.m0 true fun t a m => .st g t a f.dstF m
  | 0x86 => f.memT f.m0 true fun t a m => .lds g t a f.dstF m
  | 0x87 => f.memT f.m0 true fun t a m => .sts g t a f.dstF m
  | 0x88 => f.memT f.m0 true fun t a m => .ldd g t a f.dstF m
  | 0x89 => f.memT f.m0 true fun t a m => .std g t a f.dstF m
  | 0x8A => f.memT f.m0 false fun t a m => .ldk g t a f.dstF m
  | 0x8B => f.memT f.m0 false fun t a m => .stk g t a f.dstF m
  | 0x8C => f.memT true true fun t a m => .atom g (atomOfCode f.mod.toNat) t a f.dstF m
  | 0x8D => f.memT true true fun t a m => .atoms g (atomOfCode f.mod.toNat) t a f.dstF m
  | 0x8E => f.memT (f.mLe 2) true fun t a m => .atomf g (atomFOfCode f.mod.toNat) t a f.dstF m
  | 0x8F => f.memT (f.mLe 2) true fun t a m => .atomfs g (atomFOfCode f.mod.toNat) t a f.dstF m
  | 0x90 => f.memT f.m0 true fun t a m => .cas g t a f.dstF m
  | 0x91 => f.memT f.m0 true fun t a m => .cass g t a f.dstF m
  | 0x92 => f.memT true true fun t a m => .prom g (atomOfCode f.mod.toNat) t a f.dstF m
  | 0x93 => f.memT f.m0 true fun t a m => .amaxr g t a f.dstF m
  | 0x94 => needS (f.x0 && f.mLe 3 && f.dz && f.az && f.bz && f.cz && f.upTop 3) (f.upF 0 3).toNat
      fun s => .fence g (orderOfCode f.mod.toNat) s
  | 0x95 => need (f.x0 && f.mLe 2 && f.dz && f.az && f.bz && f.cz && f.uz)
      (.fencea g (match f.mod.toNat with | 0 => .porter | 1 => .matrix | _ => .relay))
  | 0x96 => f.mem fun m => f.mattr false fun a =>
      need (f.mLe 2 && f.dz && f.ty == 0 && a.size == .b8 && a.ord == .plain)
        (.pref g (match f.mod.toNat with | 0 => .l1 | 1 => .l2 | _ => .excl) a.cache m)
  | 0x97 => f.mem fun m => f.mattr false fun a =>
      need (f.m0 && f.dz && f.ty == 0 && a.size == .b8 && a.ord == .plain) (.cwb g a.cache m)
  | 0x98 => f.mem fun m => f.mattr true fun a =>
      need (f.m0 && f.dz && f.ty == 0 && a.size == .b8 && a.ord == .plain) (.cinv g a.cache a.scope m)
  | _ => none

def spaceOfCode (c : Nat) : Option PSpace :=
  match c with
  | 0 => some .vm | 1 => some .ds | 2 => some .bs | 3 => some .lf | 4 => some .rg | _ => none

/-- CTRL32 of the copies (08 R190). -/
def Fields.pctl (f : Fields) (k : PCtl → Parsed) : Parsed :=
  match spaceOfCode (f.upF 3 3).toNat, spaceOfCode (f.upF 0 3).toNat with
  | some ssp, some dsp => k ⟨f.upF 28 4, f.upF 8 20, f.up.getLsbD 7, f.up.getLsbD 6, ssp, dsp⟩
  | _, _ => none

/-- Opcodes 0x9C-0xA7 (08 R189, R190). -/
def parsePorters (f : Fields) (g : Guard) (o : Nat) : Parsed :=
  match o with
  | 0x9C => f.pctl fun c => need (f.x0 && f.m0) (.pcopy g c f.dstF f.aF f.bF f.cF)
  | 0x9D => f.pctl fun c => need (f.x0 && f.m0) (.pcopy2 g c f.dstF f.aF f.bF f.cF)
  | 0x9E => f.pctl fun c => need (f.x0 && f.m0) (.pgath g c f.dstF f.aF f.bF f.cF)
  | 0x9F => f.pctl fun c => need (f.x0 && f.m0) (.pscat g c f.dstF f.aF f.bF f.cF)
  | 0xA0 => needS (f.x0 && f.mLe 1 && f.bz && f.cz && f.upTop 3 && (f.m0 || f.az)) (f.upF 0 3).toNat
      fun s => .pwait g s f.dstF (if f.m0 then some f.aF else none)
  | 0xA1 =>
    if h : (f.upF 0 3).toNat < 5 then
      needS (f.x0 && f.mLe 1 && f.dz && f.bz && f.cz && (f.m0 || f.az)) (f.upF 3 3).toNat
        fun s => .pyield g s (if f.m0 then some f.aF else none) ⟨(f.upF 0 3).toNat, h⟩ (f.upF 6 26)
    else none
  | 0xA2 => need (f.x0 && f.mLe 1 && f.bz && f.cz && f.uz) (.pstat g f.m1 f.dstF f.aF)
  | 0xA3 => need (f.x0 && f.mLe 1 && f.bz && f.cz && f.uz && (f.m0 || f.az))
      (.pcancel g f.dstF (if f.m0 then some f.aF else none))
  | 0xA4 => need (f.x0 && f.mLe 1 && f.dz && f.cz && f.uz) (.arrset g f.m1 f.aF f.bF)
  | 0xA5 => needS (f.x0 && f.mLe 1 && f.bz && f.cz && f.upTop 3) (f.upF 0 3).toNat
      fun s => .arrwait g f.m1 s f.dstF f.aF
  | 0xA6 =>
    match spaceOfCode (f.upF 0 3).toNat with
    | some ssp => need (f.x0 && f.m0 && f.bz && f.cz && f.upTop 9) (.fxfer g ssp (f.up.getLsbD 3) (f.upF 4 5) f.dstF f.aF)
    | none => none
  | 0xA7 => needT (f.x0 && f.bz && f.cz && f.upTop 16 && f.upF 5 3 == 0) (f.upF 8 8).toNat
      fun t => .fatom g (atomOfCode f.mod.toNat) t (f.upF 0 5) f.dstF f.aF
  | _ => none

/-- SAEN with SCLA, or SBEN with SCLB (12 R273). -/
def scaleOf (en : Bool) (k : BitVec 3) : Option (BitVec 3) := if en then some k else none

/-- Opcodes 0xAC-0xB7 (12 R273-R275). -/
def parseMatrix (f : Fields) (g : Guard) (o : Nat) : Parsed :=
  let sx := scaleOf (f.c.getLsbD 0) (f.c.extractLsb' 1 3)
  let sy := scaleOf (f.c.getLsbD 4) (f.c.extractLsb' 5 3)
  match o with
  | 0xAC => need (f.x0 && f.m0 && f.dz && f.az && f.bz && f.cz && f.upTop 3) (.mres g (f.upF 0 3))
  | 0xAD => need (f.x0 && f.m0 && f.dz && f.az && f.bz && f.cz && f.uz) (.mrel g)
  | 0xAE =>
    match f.mod.toNat with
    | 0 => need (f.x0 && f.dz && f.uz) (.mldb g false f.aF f.bF f.cF)
    | 1 => need (f.x0 && f.dz && f.uz) (.mldb g true f.aF f.bF f.cF)
    | 2 => need (f.x0 && f.dz && f.cz && f.uz) (.mldbR g f.aF f.bF)
    | _ => none
  | 0xAF => f.mem fun m => f.mattr false fun a =>
      need (f.hz && f.mLe 1 && a.size == .b8 && a.ord == .plain && a.cache == 0) (.mlda g f.m1 f.dstF m) (ty := f.ty == 0)
  | 0xB0 => f.mem fun m => f.mattr false fun a =>
      need (f.hz && (a.size == .b8 || a.size == .b16) && a.ord == .plain && a.cache == 0)
        (.mldt g (f.mod.getLsbD 0) (f.mod.extractLsb' 1 2) (a.size == .b16) f.dstF m) (ty := f.ty == 0)
  | 0xB1 => need (f.hz && f.rI && f.m0 && f.cTop 8) (.mmaq g f.dstF f.aF f.bI sx sy) (ty := f.ty == 0)
  | 0xB2 => need (f.hz && f.rI && f.m0 && f.cTop 8) (.mmaqw g f.dstF f.aF f.bI sx sy) (ty := f.ty == 0)
  | 0xB3 => need (f.hz && f.rI && f.mLe 3 && f.cTop 8 && sx.isNone && sy.isNone)
      (.mmaqi g (f.mod.getLsbD 0) (f.mod.getLsbD 1) f.dstF f.aF f.bI) (ty := f.ty == 0)
  | 0xB4 => need (f.x0 && f.m0 && f.dz && f.az && f.bz && f.cz && f.uz) (.mfence g)
  | 0xB5 => needS (f.x0 && f.m0 && f.dz && f.az && f.bz && f.cz && f.upTop 3) (f.upF 0 3).toNat fun s => .mwait g s
  | 0xB6 => need (f.x0 && f.m0 && f.az && f.bz && f.cz && f.uz) (.mstat g f.dstF)
  | 0xB7 => need (f.x0 && f.m0 && f.az && f.bz && f.cz && f.uz) (.mselft g f.dstF)
  | _ => none

/-- Opcodes 0xBC-0xC4 (13 R298). -/
def parseFactor (f : Fields) (g : Guard) (o : Nat) : Parsed :=
  let n1 := f.upF 0 6
  let r1 := f.upF 6 6
  let x := f.x0 && f.cz
  match o with
  | 0xBC => need (x && f.mLe 1 && f.dz && f.bz && f.upTop 6) (.tlu g f.m1 f.aF n1)
  | 0xBD => need (x && f.m0 && f.dz && f.bz && f.upTop 6) (.tchol g f.aF n1)
  | 0xBE => need (x && f.m0 && f.dz && f.bz && f.upTop 6) (.tqr g f.aF n1)
  | 0xBF => need (x && f.dz && f.upTop 12)
      (.ttrs g (f.mod.getLsbD 0) (f.mod.getLsbD 1) (f.mod.getLsbD 2) f.aF f.bF n1 r1)
  | 0xC0 => need (x && f.mLe 1 && f.dz && f.bz && f.upTop 12) (.tperm g f.m1 f.aF n1 r1)
  | 0xC1 => need (x && f.mLe 1 && f.dz && f.upTop 12) (.tqapp g f.m1 f.aF f.bF n1 r1)
  | 0xC2 => need (x && f.mLe 3 && f.bz && f.upTop 12)
      (.tnorm g (match f.mod.toNat with | 0 => .max | 1 => .one | 2 => .inf | _ => .frob) f.dstF f.aF n1 r1)
  | 0xC3 => need (x && f.mLe 1 && f.dz && f.az && f.bz && f.uz) (.tres g f.m1)
  | 0xC4 =>
    if f.m1 then needS (x && f.az && f.bz && f.upTop 3) (f.upF 0 3).toNat fun s => .tstat g (some s) f.dstF
    else need (x && f.m0 && f.az && f.bz && f.uz) (.tstat g none f.dstF)
  | _ => none

/-- Opcodes 0xC8-0xCB (14 R323, R327). -/
def parseCollective (f : Fields) (g : Guard) (o : Nat) : Parsed :=
  match o with
  | 0xC8 => f.mem fun m => f.mattr true fun a => need (f.hz && f.mLe 1) (.boarm g f.m1 a f.dstF m) (ty := f.ty == 0x08)
  | 0xC9 => f.mem fun m => f.mattr true fun a => need (f.hz && f.m0) (.bowait g a f.dstF m) (ty := f.ty == 0x08)
  | 0xCA => f.mem fun m => f.mattr true fun a => need (f.hz && f.m0) (.botest g a f.dstF m) (ty := f.ty == 0x08)
  | 0xCB =>
    match f.mod.toNat with
    | 0 => need (f.x0 && f.cz && f.uz) (.cwinBind g f.dstF f.aF f.bF)
    | 1 => need (f.x0 && f.bz && f.cz && f.uz) (.cwinUnbind g f.dstF f.aF)
    | 2 => need (f.x0 && f.cz && f.uz) (.cwinEp g f.dstF f.aF f.bF)
    | 3 => need (f.x0 && f.cz && f.uz) (.cwinTrace g f.dstF f.aF f.bF)
    | _ => none
  | _ => none

/-- Opcodes 0xCC-0xD3 (17 R408; PURSE 18 R413). -/
def parseTraps (f : Fields) (g : Guard) (o : Nat) : Parsed :=
  match o with
  | 0xCC => need (f.x0 && f.m0 && f.dz && f.az && f.bz && f.cz && f.upTop 16) (.trap g (f.upF 0 16))
  | 0xCD =>
    match f.mod.toNat with
    | 0 => need (f.x0 && f.dz && f.az && f.bz && f.cz && f.uz) (.rte g .plain)
    | 1 => need (f.x0 && f.dz && f.bz && f.cz && f.uz) (.rte g (.to f.aF))
    | 2 => need (f.x0 && f.dz && f.az && f.bz && f.cz && f.uz) (.rte g .skip)
    | _ => none
  | 0xCE => need (f.x0 && f.m0 && f.dz && f.az && f.bz && f.cz && f.upTop 16) (.brk g (f.upF 0 16))
  | 0xCF =>
    match f.mod.toNat with
    | 0 => need (f.x0 && f.az && f.bz && f.cz && f.uz) (.getflt g .fault f.dstF)
    | 1 => need (f.x0 && f.az && f.bz && f.cz && f.uz) (.getflt g .pc f.dstF)
    | 2 => need (f.x0 && f.az && f.bz && f.cz && f.uz) (.getflt g .gser f.dstF)
    | _ => none
  | 0xD0 => need (f.x0 && f.mLe 1 && f.dz && f.az && f.bz && f.cz && f.upTop 24)
      (.ckpt g f.m1 (f.upF 0 8) (f.upF 8 5) (f.upF 13 6) (f.upF 19 5))
  | 0xD1 => need (f.x0 && f.mLe 1 && f.dz && f.az && f.bz && f.cz && f.uz) (.idem g f.m1)
  | 0xD3 => need (f.x0 && f.m0 && f.cz && f.uz) (.evwait g f.dstF f.aF f.bF)
  | _ => none

/-- Opcodes 0xD2 and 0xD4-0xDD (18 R413, 04 R109). -/
def parseContexts (f : Fields) (g : Guard) (o : Nat) : Parsed :=
  let d := f.dstF
  let a := f.aF
  let b := f.bF
  let c := f.cF
  match o with
  | 0xD2 => need (f.x0 && f.mLe 2 && f.bz && f.cz && f.uz)
      (.purse g (match f.mod.toNat with | 0 => .rem | 1 => .used | _ => .granted) d a)
  | 0xD4 => need (f.x0 && f.m0 && f.bz && f.cz && f.uz) (.ctxnew g d a)
  | 0xD5 =>
    match f.mod.toNat with
    | 0 => need (f.x0 && f.uz) (.ctxgrantQuad g d a b c)
    | 1 => need (f.x0 && f.uz) (.ctxgrantQueue g d a b c)
    | 2 => need (f.x0 && f.uz) (.ctxgrantPort g d a b c)
    | 3 => need (f.x0 && f.uz) (.ctxgrantRelay g d a b c)
    | 4 => need (f.x0 && f.cz && f.uz) (.ctxgrantPurse g d a b)
    | 5 => need (f.x0 && f.uz) (.ctxgrantSave g d a b c)
    | 6 => need (f.x0 && f.uz) (.ctxgrantRights g d a b c)
    | _ => none
  | 0xD6 => need (f.x0 && f.mLe 1 && f.upTop 15)
      (.ctxmap g f.m1 d a b c (f.upF 0 13) (f.up.getLsbD 13) (f.up.getLsbD 14))
  | 0xD7 =>
    match f.mod.toNat with
    | 0 => need (f.x0 && f.uz) (.ctxrevokeQuad g d a b c)
    | 1 => need (f.x0 && f.uz) (.ctxrevokeQueue g d a b c)
    | 2 => need (f.x0 && f.uz) (.ctxrevokePort g d a b c)
    | 3 => need (f.x0 && f.uz) (.ctxrevokeRelay g d a b c)
    | 4 => need (f.x0 && f.cz && f.uz) (.ctxrevokePurse g d a b)
    | 5 => need (f.x0 && f.uz) (.ctxrevokeFrame g d a b c)
    | 6 => need (f.x0 && f.uz) (.ctxrevokeSave g d a b c)
    | _ => need (f.x0 && f.bz && f.cz && f.uz) (.ctxrevokeAll g d a)
  | 0xD8 => need (f.x0 && f.m0 && f.cz) (.ctxrun g d a b f.up)
  | 0xD9 => need (f.x0 && f.mLe 3 && f.bz && f.cz) (.ctxstop g (f.mod.getLsbD 0) (f.mod.getLsbD 1) d a f.up)
  | 0xDA => need (f.x0 && f.m0) (.ctxsw g d a b c f.up)
  | 0xDB => need (f.x0 && f.m0 && f.cz && f.upTop 11) (.ctxqry g d a b (f.upF 0 8) (f.upF 8 3))
  | 0xDC => need (f.x0 && f.mLe 2 && f.cz && f.uz)
      (.ctxrefl g (match f.mod.toNat with | 0 => .retry | 1 => .refl | _ => .kill) d a b)
  | 0xDD =>
    match (f.mod.extractLsb' 1 2).toNat with
    | 0 => need (f.x0 && f.cz && f.uz) (.invlva g .range (f.mod.getLsbD 0) d (some a) (some b))
    | 1 => need (f.x0 && f.az && f.bz && f.cz && f.uz) (.invlva g .asid (f.mod.getLsbD 0) d none none)
    | 2 => need (f.x0 && f.cz && f.uz) (.invlva g .glob (f.mod.getLsbD 0) d (some a) (some b))
    | _ => none
  | _ => none

/-- The instruction of a word after the step-1 checks on its raw fields (02 R45, R46). -/
def parseWord (f : Fields) : Parsed :=
  let g : Guard := ⟨predOfCode f.pred, ⟨f.hs, f.hl⟩⟩
  let o := f.opc.toNat
  if f.z != 0 then none
  else if o < 0x20 then parseControl f g o
  else if o < 0x30 then parseRegisters f g o
  else if o < 0x58 then parseInteger f g o
  else if o < 0x78 then parseFloat f g o
  else if o < 0x84 then parseCrossLane f g o
  else if o < 0x9C then parseMemory f g o
  else if o < 0xAC then parsePorters f g o
  else if o < 0xBC then parseMatrix f g o
  else if o < 0xC8 then parseFactor f g o
  else if o < 0xCC then parseCollective f g o
  else if o < 0xD4 && o != 0xD2 then parseTraps f g o
  else parseContexts f g o

/-- The instruction of a 96-bit word, or the class of the first slot check that fails (02 R45). A word whose opcode
is unassigned is an instruction of its own, which takes the trap of 02 R47. DESIGN CHOICE (safe), log entry 80. -/
def decode (w : InsWord) : Except SlotErr Instr :=
  if unassignedOpc (w.toNat % 256) then .ok (.unassignedOpcode w)
  else
    match parseWord (fieldsOfWord w) with
    | none => .error .instruction
    | some (i, ty, sc, op) =>
      if !i.fieldOk then .error .instruction
      else if !(ty && i.typeOk) then .error .type
      else if !sc then .error .scope
      else if !(op && i.operandOk) then .error .operand
      else .ok i

/-- A relay instruction's word (14 R332, R334); a word that fails a check is refused at load. -/
def decodeRelay (w : RelayWord) : Option Instr :=
  let imm := w.extractLsb' 32 32
  let kb := w.extractLsb' 28 4
  let ka := w.extractLsb' 24 4
  let kd := w.extractLsb' 20 4
  let mode := (w.extractLsb' 16 4).toNat
  let i := imm == 0
  let b := kb == 0
  let a := ka == 0
  let d := kd == 0
  let m0 := mode == 0
  let ok (c : Bool) (x : Instr) : Option Instr := if c && x.fieldOk then some x else none
  if (w.extractLsb' 8 8) != 0 then none
  else
    match (w.extractLsb' 0 8).toNat with
    | 0x01 => ok (mode ≤ 1 && b) (.relayMatch (mode == 1) kd ka imm)
    | 0x02 => ok (m0 && a && b) (.waitin kd imm)
    | 0x03 => ok (m0 && b && i) (.seqchk kd ka)
    | 0x04 => ok (m0 && i) (.comb kd ka kb)
    | 0x05 => ok (m0 && b && i) (.holdb kd ka)
    | 0x06 => ok (mode ≤ 1 && b && d) (.fwd (mode == 1) ka imm)
    | 0x07 => ok (mode ≤ 1 && d) (.mcast (mode == 1) ka kb imm)
    | 0x08 => ok (m0 && b && d && i) (.emit ka)
    | 0x09 => ok (m0 && b && d && i) (.bump ka)
    | 0x0A => ok (m0 && b && d && i) (.nack ka)
    | 0x0B => if h : mode < 3 then ok b (.relayLdk ⟨mode, h⟩ kd ka imm) else none
    | 0x0C => ok (mode ≤ 1) (.addk (mode == 1) kd ka kb imm)
    | 0x0D => ok (m0 && d) (.bne ka kb imm)
    | 0x0E => ok (m0 && a && b && d) (.jmp imm)
    | 0x0F => ok (m0 && a && b && d && i) .relayDone
    | 0x10 => ok (m0 && b && d) (.trace ka imm)
    | _ => none

/-! The encoders: the fields of each instruction, from the same tables. -/

/-- Fields that are zero but for the opcode and what the guard gives. -/
def fieldsX (o : Nat) (g : Guard) (mod : Nat := 0) : Fields where
  opc := BitVec.ofNat 8 o
  pred := predCode g.pred
  mod := BitVec.ofNat 3 mod
  i := 0
  dst := 0
  z := 0
  a := 0
  b := 0
  c := 0
  hs := g.hold.sel
  hl := g.hold.latch
  up := 0

def Fields.withDst (f : Fields) (d : Dst) : Fields := { f with dst := dstCode d }
def Fields.withA (f : Fields) (s : Src) : Fields := { f with a := srcCode s }
def Fields.withB (f : Fields) (s : Src) : Fields := { f with b := srcCode s }
def Fields.withC (f : Fields) (s : Src) : Fields := { f with c := srcCode s }
def Fields.withUp (f : Fields) (u : BitVec 32) : Fields := { f with up := u }
def Fields.withOptA (f : Fields) (s : Option Src) : Fields :=
  match s with
  | some s => f.withA s
  | none => f
def Fields.withOptB (f : Fields) (s : Option Src) : Fields :=
  match s with
  | some s => f.withB s
  | none => f
def Fields.withOptC (f : Fields) (s : Option Src) : Fields :=
  match s with
  | some s => f.withC s
  | none => f

/-- A B-format target (02 R43). -/
def Fields.withTarget (f : Fields) (t : Target) : Fields := f.withUp (t.disp ++ BitVec.ofNat 3 t.slot.val)

/-- TYPE and source B or the immediate of an R-format word (02 R40). -/
def Fields.withTyB (f : Fields) (ty : Fmt) (b : BOpd) : Fields :=
  match b with
  | .reg s => { f with b := srcCode s, up := BitVec.ofNat 32 (fmtCode ty) }
  | .imm v => { f with i := 1, b := BitVec.ofNat 11 (fmtCode ty), up := v }

/-- TYPE of an R-format word in its I = 0 form (02 R40). -/
def Fields.withTy (f : Fields) (ty : Fmt) : Fields := { f with up := BitVec.ofNat 32 (fmtCode ty) }

def natOfBool (b : Bool) : Nat := if b then 1 else 0

/-- The C field of a predicate write (10 R236). -/
def predWriteCode (w : PredWrite) : BitVec 11 := 0#2 ++ w.comb ++ BitVec.ofBool w.q.neg ++ w.q.idx ++ w.pd

def Fields.withC11 (f : Fields) (c : BitVec 11) : Fields := { f with c := c }

/-- EXT bits above TYPE (02 R40). -/
def Fields.withExt (f : Fields) (ty : Fmt) (ext : BitVec 24) : Fields :=
  f.withUp (ext ++ BitVec.ofNat 8 (fmtCode ty))

/-- An M-format address and its TYPE (02 R40, R42). -/
def Fields.withMem (f : Fields) (ty : Fmt) (m : MemOpd) : Fields :=
  match m.idx with
  | .reg i sc isx off =>
    { f with
      a := srcCode m.base, b := srcCode i
      up := off ++ BitVec.ofBool isx ++ BitVec.ofNat 3 sc.val ++ BitVec.ofNat 8 (fmtCode ty) }
  | .off o => { f with i := 1, a := srcCode m.base, b := BitVec.ofNat 11 (fmtCode ty), up := o }

def rmCode : RMode → Nat
  | .rne => 0 | .rtz => 1 | .rup => 2 | .rdn => 3

def cmpCode : Cmp → Nat
  | .eq => 0 | .ne => 1 | .lt => 2 | .le => 3 | .gt => 4 | .ge => 5

def fcmpCode : FCmp → Nat
  | .eq => 0 | .ne => 1 | .lt => 2 | .le => 3 | .gt => 4 | .ge => 5 | .num => 6 | .nan => 7

def redCode : RedOp → Nat
  | .add => 0 | .min => 1 | .max => 2 | .and => 3 | .or => 4 | .xor => 5

/-- Two sources and a destination in the R format. -/
def fieldsR2 (o : Nat) (g : Guard) (mod : Nat) (ty : Fmt) (d : Dst) (a : Src) (b : BOpd) : Fields :=
  (((fieldsX o g mod).withDst d).withA a).withTyB ty b

/-- Three sources and a destination in the R format. -/
def fieldsR3 (o : Nat) (g : Guard) (mod : Nat) (ty : Fmt) (d : Dst) (a : Src) (b : BOpd) (c : Src) : Fields :=
  (fieldsR2 o g mod ty d a b).withC c

/-- One source and a destination in the R format. -/
def fieldsR1 (o : Nat) (g : Guard) (mod : Nat) (ty : Fmt) (d : Dst) (a : Src) : Fields :=
  (((fieldsX o g mod).withDst d).withA a).withTy ty

/-- MATTR (02 R41). -/
def mattrCode (a : MAttr) : BitVec 11 :=
  0#1 ++ a.cache ++ BitVec.ofNat 3 (scopeCode a.scope) ++ BitVec.ofNat 2 (orderCode a.ord) ++ BitVec.ofNat 3 (sizeCode a.size)

/-- An M-format word with its attributes. -/
def fieldsM (o : Nat) (g : Guard) (mod : Nat) (ty : Fmt) (a : MAttr) (d : Dst) (m : MemOpd) : Fields :=
  (((fieldsX o g mod).withDst d).withMem ty m).withC11 (mattrCode a)

def atomCode : AtomOp → Nat
  | .add => 0 | .and => 1 | .or => 2 | .xor => 3 | .min => 4 | .max => 5 | .exch => 6 | .inc => 7

def atomFCode : AtomFOp → Nat
  | .add => 0 | .min => 1 | .max => 2

def spaceCode : PSpace → Nat
  | .vm => 0 | .ds => 1 | .bs => 2 | .lf => 3 | .rg => 4

/-- CTRL32 of the copies (08 R190). -/
def pctlCode (c : PCtl) : BitVec 32 :=
  c.esz ++ c.cidx ++ BitVec.ofBool c.csp ++ BitVec.ofBool c.cnt ++ BitVec.ofNat 3 (spaceCode c.ssp) ++
    BitVec.ofNat 3 (spaceCode c.dsp)

/-- Three sources and a destination in the X format. -/
def fieldsS3 (o : Nat) (g : Guard) (mod : Nat) (d : Dst) (a b c : Src) : Fields :=
  ((((fieldsX o g mod).withDst d).withA a).withB b).withC c

/-- A copy (08 R189). -/
def fieldsP (o : Nat) (g : Guard) (ctl : PCtl) (d : Dst) (a b c : Src) : Fields :=
  (fieldsS3 o g 0 d a b c).withUp (pctlCode ctl)

/-- The scale fields of MMAQ and MMAQW (12 R273). -/
def scalesCode (sx sy : Option (BitVec 3)) : BitVec 11 :=
  let half : Option (BitVec 3) → BitVec 4 := fun s => match s with | some k => k ++ 1#1 | none => 0
  0#3 ++ half sy ++ half sx

/-- The fields of an instruction's word; relay instructions, events and unassigned opcodes have none. -/
def Instr.fields : Instr → Option Fields
  -- control (15 R358)
  | .nop g => some (fieldsX 0x00 g)
  | .bra g t => some ((fieldsX 0x01 g).withTarget t)
  | .bri g a => some ((fieldsX 0x02 g).withA a)
  | .brx g t b c => some ((((fieldsX 0x03 g).withB b).withC c).withTarget t)
  | .call g d t => some (((fieldsX 0x04 g).withDst d).withTarget t)
  | .calli g d a => some (((fieldsX 0x05 g).withDst d).withA a)
  | .ret g a => some ((fieldsX 0x06 g).withA a)
  | .join g t => some ((fieldsX 0x07 g).withTarget t)
  | .wsync g => some (fieldsX 0x08 g)
  | .loop g d t => some (((fieldsX 0x09 g).withDst d).withTarget t)
  | .bar g die id n => some ((fieldsX 0x0A g (natOfBool die)).withUp (0#18 ++ n ++ id))
  | .bara g die id n => some ((fieldsX 0x0B g (natOfBool die)).withUp (0#18 ++ n ++ id))
  | .barw g die id => some ((fieldsX 0x0C g (natOfBool die)).withUp (0#28 ++ id))
  | .yield g => some (fieldsX 0x0D g)
  | .exit g => some (fieldsX 0x0E g)
  | .spawn g k d a t => some ((((fieldsX 0x0F g k.toNat).withDst d).withA a).withTarget t)
  | .spawnw g k d a t => some ((((fieldsX 0x10 g k.toNat).withDst d).withA a).withTarget t)
  | .innset g d a b => some ((((fieldsX 0x11 g).withDst d).withA a).withB b)
  | .curfew g a => some ((fieldsX 0x12 g (natOfBool a.isNone)).withOptA a)
  | .launch g d a b => some ((((fieldsX 0x13 g).withDst d).withA a).withB b)
  | .lwait g d a => some (((fieldsX 0x14 g (natOfBool a.isNone)).withDst d).withOptA a)
  -- registers (09 R220)
  | .mov g ty d a => some ((((fieldsX 0x20 g).withDst d).withA a).withTy ty)
  | .movi g zx d imm => some (((fieldsX 0x21 g (natOfBool zx)).withDst d).withUp imm)
  | .movhi g d imm => some (((fieldsX 0x22 g).withDst d).withUp imm)
  | .sel g k ty d a b => some ((((fieldsX 0x23 g k.toNat).withDst d).withA a).withTyB ty b)
  | .plop g lut pd pa pb pc => some ((fieldsX 0x24 g).withUp (0#12 ++ pc ++ pb ++ pa ++ pd ++ lut))
  | .s2p g f =>
    match f with
    | .toPred pk a => some (((fieldsX 0x25 g 0).withA a).withUp (0#29 ++ pk))
    | .rev d pk => some (((fieldsX 0x25 g 1).withDst d).withUp (0#29 ++ pk))
    | .all a => some ((fieldsX 0x25 g 2).withA a)
    | .vr d => some ((fieldsX 0x25 g 3).withDst d)
  | .getc g hi d idx => some (((fieldsX 0x26 g (natOfBool hi)).withDst d).withA ⟨.special, idx, false⟩)
  | .setc g hi idx a => some (((fieldsX 0x27 g (natOfBool hi)).withDst ⟨.special, idx⟩).withA a)
  | .setfmt g m b => some (((fieldsX 0x28 g (natOfBool m.isSome)).withOptA m).withTyB .bits b)
  | .setscl g k b => some ((fieldsX 0x29 g k.toNat).withTyB .f32 b)
  | .racq g t mask pd => some ((fieldsX 0x2A g (natOfBool t)).withUp (0#23 ++ pd ++ mask))
  | .rrel g mask => some ((fieldsX 0x2B g).withUp (0#26 ++ mask))
  | .fewait g r =>
    match r with
    | some (a, n) => some (((fieldsX 0x2C g 0).withA a).withUp (0#27 ++ n))
    | none => some (fieldsX 0x2C g 1)
  | .fechk g pd a n => some (((fieldsX 0x2D g).withA a).withUp (0#24 ++ pd ++ n))
  -- integer and address (10 R229)
  | .iadd g sat ty d a b => some (fieldsR2 0x30 g (natOfBool sat) ty d a b)
  | .iadd3 g ty d a b c => some (fieldsR3 0x31 g 0 ty d a b c)
  | .iaddc g ty d a b cin cout =>
    some ((fieldsR2 0x32 g 0 ty d a b).withC11 (0#4 ++ BitVec.ofBool cin.neg ++ cin.idx ++ cout))
  | .isub g sat ty d a b => some (fieldsR2 0x33 g (natOfBool sat) ty d a b)
  | .imul g ty d a b => some (fieldsR2 0x34 g 0 ty d a b)
  | .imulhi g ty d a b => some (fieldsR2 0x35 g 0 ty d a b)
  | .imad g ty d a b c => some (fieldsR3 0x36 g 0 ty d a b c)
  | .imadw g ty d a b c => some (fieldsR3 0x37 g 0 ty d a b c)
  | .idiv g rem ty d a b => some (fieldsR2 0x38 g (natOfBool rem) ty d a b)
  | .imin g ty d a b => some (fieldsR2 0x39 g 0 ty d a b)
  | .imax g ty d a b => some (fieldsR2 0x3A g 0 ty d a b)
  | .iabs g sat ty d a => some (fieldsR1 0x3B g (natOfBool sat) ty d a)
  | .isad g ty d a b c => some (fieldsR3 0x3C g 0 ty d a b c)
  | .isat g t ty d a => some (fieldsR1 0x3D g t.val ty d a)
  | .lop3 g ty d a b c lut =>
    some ((((((fieldsX 0x3E g).withDst d).withA a).withB b).withC c).withExt ty (0#16 ++ lut))
  | .shl g w ty d a b => some (fieldsR2 0x3F g (natOfBool w) ty d a b)
  | .shr g w ty d a b => some (fieldsR2 0x40 g (natOfBool w) ty d a b)
  | .sar g w ty d a b => some (fieldsR2 0x41 g (natOfBool w) ty d a b)
  | .fshf g r w ty d a b c => some (fieldsR3 0x42 g (natOfBool r + 2 * natOfBool w) ty d a b c)
  | .bfe g ty d a b => some (fieldsR2 0x43 g 0 ty d a b)
  | .bfi g ty d a b c => some (fieldsR3 0x44 g 0 ty d a b c)
  | .bmsk g ty d a b => some (fieldsR2 0x45 g 0 ty d a b)
  | .popc g ty d a => some (fieldsR1 0x46 g 0 ty d a)
  | .clz g ty d a => some (fieldsR1 0x47 g 0 ty d a)
  | .brev g ty d a => some (fieldsR1 0x48 g 0 ty d a)
  | .prmt g d a b c => some (fieldsR3 0x49 g 0 .bits d a b c)
  | .icmp g cc ty a b w => some ((((fieldsX 0x4A g (cmpCode cc)).withA a).withTyB ty b).withC11 (predWriteCode w))
  | .lea g d m => some (((fieldsX 0x4B g).withDst d).withMem .u64 m)
  | .idot4 g ub sat ty d a b c => some (fieldsR3 0x4C g (natOfBool ub + 2 * natOfBool sat) ty d a b c)
  -- floating point and conversion (11 R253)
  | .fadd g rm ty d a b => some (fieldsR2 0x58 g (rmCode rm) ty d a b)
  | .fsub g rm ty d a b => some (fieldsR2 0x59 g (rmCode rm) ty d a b)
  | .fmul g rm ty d a b => some (fieldsR2 0x5A g (rmCode rm) ty d a b)
  | .ffma g rm ty d a b c => some (fieldsR3 0x5B g (rmCode rm) ty d a b c)
  | .fmin g n ty d a b => some (fieldsR2 0x5C g (natOfBool n) ty d a b)
  | .fmax g n ty d a b => some (fieldsR2 0x5D g (natOfBool n) ty d a b)
  | .fcmp g cc ty a b w => some ((((fieldsX 0x5E g (fcmpCode cc)).withA a).withTyB ty b).withC11 (predWriteCode w))
  | .fcpys g m ty d a b => some (fieldsR2 0x5F g (match m with | .cpy => 0 | .neg => 1 | .xor => 2) ty d a b)
  | .frnd g rm ty d a => some (fieldsR1 0x60 g (rmCode rm) ty d a)
  | .frcp g rm ty d a => some (fieldsR1 0x61 g (rmCode rm) ty d a)
  | .frsq g rm ty d a => some (fieldsR1 0x62 g (rmCode rm) ty d a)
  | .fsqrt g rm ty d a => some (fieldsR1 0x63 g (rmCode rm) ty d a)
  | .fdiv g rm ty d a b => some (fieldsR2 0x64 g (rmCode rm) ty d a b)
  | .fexp2 g ty d a => some (fieldsR1 0x65 g 0 ty d a)
  | .flog2 g ty d a => some (fieldsR1 0x66 g 0 ty d a)
  | .ftanh g ty d a => some (fieldsR1 0x67 g 0 ty d a)
  | .ferf g ty d a => some (fieldsR1 0x68 g 0 ty d a)
  | .fsin g ty d a => some (fieldsR1 0x69 g 0 ty d a)
  | .fcos g ty d a => some (fieldsR1 0x6A g 0 ty d a)
  | .fclass g ty a b w => some ((((fieldsX 0x6B g).withA a).withTyB ty b).withC11 (predWriteCode w))
  | .fscale g rm ty d a b => some (fieldsR2 0x6C g (rmCode rm) ty d a b)
  | .fdot2 g ty d a b c => some (fieldsR3 0x6D g 0 ty d a (.reg b) c)
  | .fdot4 g mix ty d a b c => some (fieldsR3 0x6E g (natOfBool mix) ty d a (.reg b) c)
  | .cvt g m sat elt dt sf d a =>
    let ext : BitVec 24 := 0#13 ++ elt ++ BitVec.ofBool sat ++ BitVec.ofNat 8 (fmtCode sf)
    match m with
    | .fixed rm => some ((((fieldsX 0x6F g (rmCode rm)).withDst d).withA a).withExt dt ext)
    | .fmt seed => some (((((fieldsX 0x6F g 4).withDst d).withA a).withC seed).withExt dt ext)
  | .cvtn g k ty d a seed => some ((fieldsR1 0x70 g k.toNat ty d a).withC seed)
  | .qntg g scale rm ty d a b c =>
    some (((fieldsR1 0x71 g (if scale then 4 else rmCode rm) ty d a).withOptB b).withOptC c)
  | .dqnt g grp ty d a b c => some (((fieldsR1 0x72 g grp.toNat ty d a).withB b).withOptC c)
  -- cross-lane (10 R239)
  | .shfl g m ty d a b pv =>
    some ((fieldsR2 0x78 g (match m with | .idx => 0 | .up => 1 | .down => 2 | .xor => 3) ty d a b).withC11
      (match pv with | some p => 0#7 ++ 1#1 ++ p | none => 0))
  | .vote g m q pd ballot =>
    let c : BitVec 11 := 0#4 ++ BitVec.ofBool q.neg ++ q.idx ++ pd
    match ballot with
    | some d => some (((fieldsX 0x79 g 3).withDst d).withC11 c)
    | none => some ((fieldsX 0x79 g (match m with | .all => 0 | .any => 1 | .uni => 2)).withC11 c)
  | .scan g op excl ty d a => some ((fieldsR1 0x7A g (redCode op) ty d a).withC11 (if excl then 1 else 0))
  | .lred g op ty d a => some (fieldsR1 0x7B g (redCode op) ty d a)
  | .topk g w ty d a b k seg pf =>
    let p : BitVec 4 := match pf with | some p => 1#1 ++ p | none => 0
    some (((((fieldsX 0x7C g (natOfBool w)).withDst d).withA a).withB b).withExt ty (0#13 ++ p ++ k ++ seg))
  | .bsort g desc ty d a b seg =>
    some (((((fieldsX 0x7D g (natOfBool desc)).withDst d).withA a).withB b).withExt ty (0#21 ++ seg))
  | .lmatch g ty d a => some (fieldsR1 0x7E g 0 ty d a)
  | .compact g d a q => some ((fieldsR1 0x7F g 0 .bits d a).withC11 (0#7 ++ BitVec.ofBool q.neg ++ q.idx))
  | .lhist g rank d a b => some (fieldsR2 0x80 g (natOfBool rank) .u32 d a b)
  -- loads, stores and atomics (07 R158, R177, R178)
  | .ld g ty a d m => some (fieldsM 0x84 g 0 ty a d m)
  | .st g ty a d m => some (fieldsM 0x85 g 0 ty a d m)
  | .lds g ty a d m => some (fieldsM 0x86 g 0 ty a d m)
  | .sts g ty a d m => some (fieldsM 0x87 g 0 ty a d m)
  | .ldd g ty a d m => some (fieldsM 0x88 g 0 ty a d m)
  | .std g ty a d m => some (fieldsM 0x89 g 0 ty a d m)
  | .ldk g ty a d m => some (fieldsM 0x8A g 0 ty a d m)
  | .stk g ty a d m => some (fieldsM 0x8B g 0 ty a d m)
  | .atom g op ty a d m => some (fieldsM 0x8C g (atomCode op) ty a d m)
  | .atoms g op ty a d m => some (fieldsM 0x8D g (atomCode op) ty a d m)
  | .atomf g op ty a d m => some (fieldsM 0x8E g (atomFCode op) ty a d m)
  | .atomfs g op ty a d m => some (fieldsM 0x8F g (atomFCode op) ty a d m)
  | .cas g ty a d m => some (fieldsM 0x90 g 0 ty a d m)
  | .cass g ty a d m => some (fieldsM 0x91 g 0 ty a d m)
  | .prom g op ty a d m => some (fieldsM 0x92 g (atomCode op) ty a d m)
  | .amaxr g ty a d m => some (fieldsM 0x93 g 0 ty a d m)
  | .fence g o sc => some ((fieldsX 0x94 g (orderCode o)).withUp (BitVec.ofNat 32 (scopeCode sc)))
  | .fencea g c => some (fieldsX 0x95 g (match c with | .porter => 0 | .matrix => 1 | .relay => 2))
  | .pref g k cache m =>
    some (((fieldsX 0x96 g (match k with | .l1 => 0 | .l2 => 1 | .excl => 2)).withMem .bits m).withC11
      (mattrCode ⟨cache, .grp, .plain, .b8⟩))
  | .cwb g cache m => some (((fieldsX 0x97 g).withMem .bits m).withC11 (mattrCode ⟨cache, .grp, .plain, .b8⟩))
  | .cinv g cache sc m => some (((fieldsX 0x98 g).withMem .bits m).withC11 (mattrCode ⟨cache, sc, .plain, .b8⟩))
  -- porters, scratchpads and arrivals (08 R189, R190)
  | .pcopy g ctl d a b c => some (fieldsP 0x9C g ctl d a b c)
  | .pcopy2 g ctl d a b c => some (fieldsP 0x9D g ctl d a b c)
  | .pgath g ctl d a b c => some (fieldsP 0x9E g ctl d a b c)
  | .pscat g ctl d a b c => some (fieldsP 0x9F g ctl d a b c)
  | .pwait g sc d a =>
    some ((((fieldsX 0xA0 g (natOfBool a.isNone)).withDst d).withOptA a).withUp (BitVec.ofNat 32 (scopeCode sc)))
  | .pyield g sc a slot disp =>
    some (((fieldsX 0xA1 g (natOfBool a.isNone)).withOptA a).withUp
      (disp ++ BitVec.ofNat 3 (scopeCode sc) ++ BitVec.ofNat 3 slot.val))
  | .pstat g recd d a => some (((fieldsX 0xA2 g (natOfBool recd)).withDst d).withA a)
  | .pcancel g d a => some (((fieldsX 0xA3 g (natOfBool a.isNone)).withDst d).withOptA a)
  | .arrset g die a b => some (((fieldsX 0xA4 g (natOfBool die)).withA a).withB b)
  | .arrwait g die sc d a =>
    some ((((fieldsX 0xA5 g (natOfBool die)).withDst d).withA a).withUp (BitVec.ofNat 32 (scopeCode sc)))
  | .fxfer g ssp rc lane d a =>
    some ((((fieldsX 0xA6 g).withDst d).withA a).withUp (0#23 ++ lane ++ BitVec.ofBool rc ++ BitVec.ofNat 3 (spaceCode ssp)))
  | .fatom g op ty lane d a =>
    some ((((fieldsX 0xA7 g (atomCode op)).withDst d).withA a).withUp (0#16 ++ BitVec.ofNat 8 (fmtCode ty) ++ 0#3 ++ lane))
  -- the loft and the matrix array (12 R273-R275)
  | .mres g pd => some ((fieldsX 0xAC g).withUp (0#29 ++ pd))
  | .mrel g => some (fieldsX 0xAD g)
  | .mldb g die a b c => some ((((fieldsX 0xAE g (natOfBool die)).withA a).withB b).withC c)
  | .mldbR g a b => some (((fieldsX 0xAE g 2).withA a).withB b)
  | .mlda g die d m => some (((fieldsX 0xAF g (natOfBool die)).withDst d).withMem .bits m)
  | .mldt g die pitch w d m =>
    some ((((fieldsX 0xB0 g (natOfBool die + 2 * pitch.toNat)).withDst d).withMem .bits m).withC11
      (BitVec.ofNat 11 (natOfBool w)))
  | .mmaq g d a b sx sy => some ((fieldsR2 0xB1 g 0 .bits d a b).withC11 (scalesCode sx sy))
  | .mmaqw g d a b sx sy => some ((fieldsR2 0xB2 g 0 .bits d a b).withC11 (scalesCode sx sy))
  | .mmaqi g ua ub d a b => some (fieldsR2 0xB3 g (natOfBool ua + 2 * natOfBool ub) .bits d a b)
  | .mfence g => some (fieldsX 0xB4 g)
  | .mwait g sc => some ((fieldsX 0xB5 g).withUp (BitVec.ofNat 32 (scopeCode sc)))
  | .mstat g d => some ((fieldsX 0xB6 g).withDst d)
  | .mselft g d => some ((fieldsX 0xB7 g).withDst d)
  -- tile factorisations (13 R298)
  | .tlu g cont a n1 => some (((fieldsX 0xBC g (natOfBool cont)).withA a).withUp (0#26 ++ n1))
  | .tchol g a n1 => some (((fieldsX 0xBD g).withA a).withUp (0#26 ++ n1))
  | .tqr g a n1 => some (((fieldsX 0xBE g).withA a).withUp (0#26 ++ n1))
  | .ttrs g up unit tr a b n1 r1 =>
    some ((((fieldsX 0xBF g (natOfBool up + 2 * natOfBool unit + 4 * natOfBool tr)).withA a).withB b).withUp
      (0#20 ++ r1 ++ n1))
  | .tperm g inv a n1 r1 => some (((fieldsX 0xC0 g (natOfBool inv)).withA a).withUp (0#20 ++ r1 ++ n1))
  | .tqapp g tr a b n1 r1 => some ((((fieldsX 0xC1 g (natOfBool tr)).withA a).withB b).withUp (0#20 ++ r1 ++ n1))
  | .tnorm g k d a n1 r1 =>
    some ((((fieldsX 0xC2 g (match k with | .max => 0 | .one => 1 | .inf => 2 | .frob => 3)).withDst d).withA a).withUp
      (0#20 ++ r1 ++ n1))
  | .tres g cont => some (fieldsX 0xC3 g (natOfBool cont))
  | .tstat g full d =>
    match full with
    | some sc => some (((fieldsX 0xC4 g 1).withDst d).withUp (BitVec.ofNat 32 (scopeCode sc)))
    | none => some ((fieldsX 0xC4 g 0).withDst d)
  -- collectives (14 R323, R327)
  | .boarm g reset a d m => some (fieldsM 0xC8 g (natOfBool reset) .u64 a d m)
  | .bowait g a d m => some (fieldsM 0xC9 g 0 .u64 a d m)
  | .botest g a d m => some (fieldsM 0xCA g 0 .u64 a d m)
  | .cwinBind g d a b => some ((((fieldsX 0xCB g 0).withDst d).withA a).withB b)
  | .cwinUnbind g d a => some (((fieldsX 0xCB g 1).withDst d).withA a)
  | .cwinEp g d a b => some ((((fieldsX 0xCB g 2).withDst d).withA a).withB b)
  | .cwinTrace g d a b => some ((((fieldsX 0xCB g 3).withDst d).withA a).withB b)
  -- traps (17 R408)
  | .trap g code => some ((fieldsX 0xCC g).withUp (0#16 ++ code))
  | .rte g f =>
    match f with
    | .plain => some (fieldsX 0xCD g 0)
    | .to a => some ((fieldsX 0xCD g 1).withA a)
    | .skip => some (fieldsX 0xCD g 2)
  | .brk g code => some ((fieldsX 0xCE g).withUp (0#16 ++ code))
  | .getflt g f d =>
    match f with
    | .fault => some ((fieldsX 0xCF g 0).withDst d)
    | .pc => some ((fieldsX 0xCF g 1).withDst d)
    | .gser => some ((fieldsX 0xCF g 2).withDst d)
  | .ckpt g im vf nv sf ns => some ((fieldsX 0xD0 g (natOfBool im)).withUp (0#8 ++ ns ++ sf ++ nv ++ vf))
  | .idem g clear => some ((fieldsX 0xD1 g (natOfBool clear)))
  | .evwait g d a b => some ((((fieldsX 0xD3 g).withDst d).withA a).withB b)
  -- contexts (18 R413) and INVLVA (04 R109)
  | .purse g f d a =>
    some (((fieldsX 0xD2 g (match f with | .rem => 0 | .used => 1 | .granted => 2)).withDst d).withA a)
  | .ctxnew g d a => some (((fieldsX 0xD4 g).withDst d).withA a)
  | .ctxgrantQuad g d a b c => some (fieldsS3 0xD5 g 0 d a b c)
  | .ctxgrantQueue g d a b c => some (fieldsS3 0xD5 g 1 d a b c)
  | .ctxgrantPort g d a b c => some (fieldsS3 0xD5 g 2 d a b c)
  | .ctxgrantRelay g d a b c => some (fieldsS3 0xD5 g 3 d a b c)
  | .ctxgrantPurse g d a b => some ((((fieldsX 0xD5 g 4).withDst d).withA a).withB b)
  | .ctxgrantSave g d a b c => some (fieldsS3 0xD5 g 5 d a b c)
  | .ctxgrantRights g d a b c => some (fieldsS3 0xD5 g 6 d a b c)
  | .ctxmap g lard d a b c n1 fw fx =>
    some ((fieldsS3 0xD6 g (natOfBool lard) d a b c).withUp (0#17 ++ BitVec.ofBool fx ++ BitVec.ofBool fw ++ n1))
  | .ctxrevokeQuad g d a b c => some (fieldsS3 0xD7 g 0 d a b c)
  | .ctxrevokeQueue g d a b c => some (fieldsS3 0xD7 g 1 d a b c)
  | .ctxrevokePort g d a b c => some (fieldsS3 0xD7 g 2 d a b c)
  | .ctxrevokeRelay g d a b c => some (fieldsS3 0xD7 g 3 d a b c)
  | .ctxrevokePurse g d a b => some ((((fieldsX 0xD7 g 4).withDst d).withA a).withB b)
  | .ctxrevokeFrame g d a b c => some (fieldsS3 0xD7 g 5 d a b c)
  | .ctxrevokeSave g d a b c => some (fieldsS3 0xD7 g 6 d a b c)
  | .ctxrevokeAll g d a => some (((fieldsX 0xD7 g 7).withDst d).withA a)
  | .ctxrun g d a b dl => some (((((fieldsX 0xD8 g).withDst d).withA a).withB b).withUp dl)
  | .ctxstop g save ck d a dl =>
    some ((((fieldsX 0xD9 g (natOfBool save + 2 * natOfBool ck)).withDst d).withA a).withUp dl)
  | .ctxsw g d a b c dl => some ((fieldsS3 0xDA g 0 d a b c).withUp dl)
  | .ctxqry g d a b field pd => some (((((fieldsX 0xDB g).withDst d).withA a).withB b).withUp (0#21 ++ pd ++ field))
  | .ctxrefl g k d a b =>
    some ((((fieldsX 0xDC g (match k with | .retry => 0 | .refl => 1 | .kill => 2)).withDst d).withA a).withB b)
  | .invlva g which lines d a b =>
    let s := match which with | .range => 0 | .asid => 1 | .glob => 2
    some ((((fieldsX 0xDD g (natOfBool lines + 2 * s)).withDst d).withOptA a).withOptB b)
  | _ => none

/-- The word of an instruction. DESIGN CHOICE (safe), log entry 80. -/
def encode (i : Instr) : Option InsWord :=
  match i with
  | .unassignedOpcode w => some w
  | i => i.fields.map wordOfFields

/-- A relay word of its fields (14 R332). -/
def relayWordOf (opc mode : Nat) (kd ka kb : BitVec 4) (imm : BitVec 32) : RelayWord :=
  imm ++ kb ++ ka ++ kd ++ BitVec.ofNat 4 mode ++ 0#8 ++ BitVec.ofNat 8 opc

/-- The word of a relay instruction (14 R334). -/
def encodeRelay (i : Instr) : Option RelayWord :=
  match i with
  | .relayMatch m kd ka n => some (relayWordOf 0x01 (natOfBool m) kd ka 0 n)
  | .waitin kd p => some (relayWordOf 0x02 0 kd 0 0 p)
  | .seqchk kd ka => some (relayWordOf 0x03 0 kd ka 0 0)
  | .comb kd ka kb => some (relayWordOf 0x04 0 kd ka kb 0)
  | .holdb kd ka => some (relayWordOf 0x05 0 kd ka 0 0)
  | .fwd r ka h => some (relayWordOf 0x06 (natOfBool r) 0 ka 0 h)
  | .mcast r ka kb n => some (relayWordOf 0x07 (natOfBool r) 0 ka kb n)
  | .emit ka => some (relayWordOf 0x08 0 0 ka 0 0)
  | .bump ka => some (relayWordOf 0x09 0 0 ka 0 0)
  | .nack ka => some (relayWordOf 0x0A 0 0 ka 0 0)
  | .relayLdk m kd ka n => some (relayWordOf 0x0B m.val kd ka 0 n)
  | .addk m kd ka kb n => some (relayWordOf 0x0C (natOfBool m) kd ka kb n)
  | .bne ka kb t => some (relayWordOf 0x0D 0 0 ka kb t)
  | .jmp t => some (relayWordOf 0x0E 0 0 0 0 t)
  | .relayDone => some (relayWordOf 0x0F 0 0 0 0 0)
  | .trace ka n => some (relayWordOf 0x10 0 0 ka 0 n)
  | _ => none

/-- The instruction of a table word: 64 bits are a relay instruction, any other width one of the 96-bit
instructions. Events have no word. -/
def decodeTableWord (nbits w : Nat) : Option Instr :=
  if nbits = 64 then decodeRelay (BitVec.ofNat 64 w)
  else
    match decode (BitVec.ofNat 96 w) with
    | .ok i => some i
    | .error _ => none

end Sys2Proof
end

