-- ==== Sys2Proof/Config.lean ====
section
/-! DEFINITION. What the spec leaves open: the free values, which nothing can evaluate. -/

namespace Sys2Proof.Config

/-- A value that the spec leaves open, applied to the state's counter of such values. Nothing is known of it.
DESIGN CHOICE (safe), log entry 3. -/
opaque freeValue : Nat → Nat

end Sys2Proof.Config
end

