-- ==== Sys2Proof/Machine/Map.lean ====
section
/-! DEFINITION. Sparse tables: a list of (key, value) pairs with strictly rising keys. A table read with a default
lists no entry equal to it, so that equal tables are equal lists. Memory is the table of bytes. -/

namespace Sys2Proof.Machine

/-- A table by number. DESIGN CHOICE (safe), log entry 1. -/
abbrev Tbl (α : Type) := List (Nat × α)

/-- The entry of a key. -/
def tblFind {α : Type} : Tbl α → Nat → Option α
  | [], _ => none
  | (k, v) :: r, i => if k = i then some v else tblFind r i

/-- Adds or replaces an entry, in its place. -/
def tblPut {α : Type} : Tbl α → Nat → α → Tbl α
  | [], i, x => [(i, x)]
  | (k, v) :: r, i, x => if i < k then (i, x) :: (k, v) :: r else if i = k then (i, x) :: r else (k, v) :: tblPut r i x

/-- Removes an entry. -/
def tblDel {α : Type} : Tbl α → Nat → Tbl α
  | [], _ => []
  | (k, v) :: r, i => if i = k then tblDel r i else (k, v) :: tblDel r i

/-- The value at a key, with the default of an unlisted one. -/
def tblGet {α : Type} (d : α) (t : Tbl α) (i : Nat) : α := (tblFind t i).getD d

/-- Sets the value at a key; the default removes the entry. DESIGN CHOICE (safe), log entry 1. -/
def tblSet {α : Type} [DecidableEq α] (d : α) (t : Tbl α) (i : Nat) (x : α) : Tbl α :=
  if x = d then tblDel t i else tblPut t i x

/-- Changes an entry that is there. -/
def tblUpd {α : Type} (t : Tbl α) (i : Nat) (f : α → α) : Tbl α :=
  match tblFind t i with
  | some v => tblPut t i (f v)
  | none => t

/-- A number above every key. -/
def tblFresh {α : Type} (t : Tbl α) : Nat := t.foldl (fun m e => Nat.max m (e.1 + 1)) 1

/-- Keys rise strictly from above `lo`. -/
def tblSortedFrom {α : Type} : Option Nat → Tbl α → Bool
  | _, [] => true
  | none, (k, _) :: r => tblSortedFrom (some k) r
  | some lo, (k, _) :: r => decide (lo < k) && tblSortedFrom (some k) r

/-- The canonical form of a table read with a default. -/
def tblWf {α : Type} [DecidableEq α] (d : α) (t : Tbl α) : Bool :=
  tblSortedFrom none t && t.all fun e => decide (e.2 ≠ d)

/-- Keeps the entries that hold. -/
def tblFilter {α : Type} (t : Tbl α) (p : Nat → α → Bool) : Tbl α := t.filter fun e => p e.1 e.2

/-- Maps every value. -/
def tblMap {α : Type} (t : Tbl α) (f : Nat → α → α) : Tbl α := t.map fun e => (e.1, f e.1 e.2)

/-- The first entry that holds, lowest key first. -/
def tblFirst {α : Type} (t : Tbl α) (p : Nat → α → Bool) : Option (Nat × α) := t.find? fun e => p e.1 e.2

end Sys2Proof.Machine
end

