-- ==== Sys2Proof/Machine/State.lean ====
section
/-! DEFINITION. The state of the machine as plain data: everything the spec gives the ZN9-A (INVENTORY.md, State),
the reasons a step can stop, and the state after a package reset. -/

namespace Sys2Proof.Machine

/-! ### Logical times and what a release carries (05 R120, 06 R146-R150) -/

/-- A logical time of each die: the L2s and L1s of a die share one time line (05 R120). -/
structure Times where
  t0 : Nat
  t1 : Nat
  t2 : Nat
  t3 : Nat
  deriving DecidableEq, Repr

/-- Nothing is known. -/
def Times.zero : Times := ⟨0, 0, 0, 0⟩

/-- The kinds of agents of 06 R138 whose releases the model follows. The host's accesses leave no older copy of a line
anywhere, so that its releases have nothing to carry. -/
inductive AgentKind where
  | split | engine | relay | host
  deriving DecidableEq, Repr

/-- An agent, as far as scope instances tell agents apart (06 R139): its kind and its group, its block, its grid and
die, and the core and context whose way partition it stores through. -/
structure Agent where
  kind : AgentKind
  gid : Nat
  block : Nat
  die : Nat
  core : Nat
  ctx : Nat
  deriving DecidableEq, Repr

/-- A release that a location's value carries (06 R146): the agent, its scope, whether PROM made it (06 R150), and the
times at which the writes visible to it were performed. `space` and `unit` name an aligned 4-byte unit. -/
structure Rel where
  space : Nat
  unit : Nat
  agent : Agent
  scope : Scope
  prom : Bool
  times : Times
  deriving DecidableEq, Repr

/-! ### Paths, splits and groups (09, 15, 17) -/

/-- What a latch holds: its width, a value a lane, and the instructions it stays valid for (09 R217). -/
structure Latch where
  wide : Bool
  vals : List Long
  left : Nat
  deriving DecidableEq, Repr

/-- The form of the RTE a path is parked at, with its operand read (17 R393). -/
inductive RteArg where
  | plain | to (pc : Long) | skip
  deriving DecidableEq, Repr

/-- Where a path stands (15 R351-R356, 17 R393). -/
inductive PathStatus where
  | current
  | queued
  | join (t : Long)
  | marked (t : Long)
  | wsync
  | rte (a : RteArg)
  deriving DecidableEq, Repr

/-- What a path that has begun an instruction waits for: a barrier phase, in which the lanes `here` have arrived and
after which the lanes `again` will; its chunks; work on
the array; a place in a ring for the descriptor it has read, for a queue; the
answer to an entry of a ring; device accesses; a fault-queue record; a porter operation, or all of its group's, with
the earliest that did not end done; an arrival counter, with its count once it is released; or nothing more, since its
answer, or the child whose stop it waits for, is known. -/
inductive Await where
  | bar (phase : Nat) (here again : Lanes)
  | racq
  | array
  | launch (queue : Nat) (desc : List Byte)
  | io (id : Nat)
  | ticket (queue idx : Nat)
  | evwait (n : Nat) (deadline : Option Nat)
  | porter (op : Nat)
  | porters (bad : Option (BitVec 32 × Long))
  | arrival (die : Bool) (off : Nat) (count : Option Long)
  | answer (x : Long)
  deriving DecidableEq, Repr

/-- A path: lanes that share a PC, a copy of `fmt` and latches (15 R351). `enter`: the path has just come to its PC,
so that the marked-target rule of R354 applies. `checked`: R31 checks its entry. `tail`: the last executable slot of
its line (02 R33), and `word` the word of its instruction, both taken when it entered the slot. `hold`: the latch that
the instruction that it waits in has read for HOLD (02 R39). `full`: a full fence of
wide scope has completed, so that its loads are performed at the L2 (06 R148). -/
structure Path where
  split : Nat
  lanes : Lanes
  pc : Long
  fmt : Word
  latches : Tbl Latch
  status : PathStatus
  replay : Option Lanes
  enter : Bool
  checked : Bool
  tail : Nat
  await : Option Await
  word : InsWord
  full : Bool
  hold : Option (Nat × Latch)
  deriving DecidableEq, Repr

/-- A split in use (15 R351, 16 R385): `ready` are the turns for which it has been ready without issuing. -/
structure Split where
  num : Nat
  age : Nat
  boost : Bool
  yielded : Bool
  ready : Nat
  deriving DecidableEq, Repr

/-- A family: the lanes that diverged and the `fmt` copy saved (15 R352). -/
structure Family where
  lanes : Lanes
  fmt : Word
  deriving DecidableEq, Repr

/-- A trap as it is raised: the lanes of the trapping path, class, cause and INFO of `fltrec`, the lanes not
performed, the R114 record of each lane, the PC recorded, the PC that PCOFF holds, and the destination registers of
the trapping instruction (17 R388-R393). -/
structure Trap where
  path : Lanes
  cls : Nat
  cause : Nat
  info : Nat
  mask : Lanes
  recs : Tbl (BitVec 256)
  pc : Long
  offPc : Long
  dsts : List Nat
  deriving DecidableEq, Repr

/-- The trap frame (17 R392). -/
structure Frame where
  paths : List Path
  splits : List Split
  families : List Family
  preds : Tbl Lanes
  lanes : Lanes
  pc : Long
  cls : Nat
  dsts : List Nat
  deriving DecidableEq, Repr

/-- A flashback point (17 R399). -/
structure Ckpt where
  pc : Long
  v : Tbl Word
  s : Tbl Long
  preds : Tbl Lanes
  fmt : Word
  scl : Tbl Word
  chunks : BitVec 6
  deriving DecidableEq, Repr

/-- A failure of a matrix or factorisation operation that waits to be taken (12 R290, 13 R311): its trap, the lanes
of the path that issued the operation, the registers it would have written, and whether it is a factorisation's. -/
structure Report where
  cls : Nat
  cause : Nat
  info : Nat
  va : Long
  pc : Long
  lanes : Lanes
  keys : List Nat
  fact : Bool
  deriving DecidableEq, Repr

/-- A group (09 R209). Lane l of register r is entry 32r + l of `v`. `empty` lists the registers whose full/empty bit
reads empty, by `regKey`. What the group knows of writes (06 R142-R151): `seen`, what its reads and acquires have
shown it; `fenced` and `relayed`, what its last FENCEA passed to porter operations and to relay programs; `fence`,
what its release fences lend its later stores; `pend`, the releases its plain loads have read, which an acquire fence
may take up. -/
structure Group where
  grid : Nat
  block : Nat
  quad : Nat
  idx : Nat
  serial : Long
  regbase : Nat
  regext : Nat
  chunks : BitVec 6
  live : Lanes
  v : Tbl Word
  s : Tbl Long
  empty : Tbl Bool
  preds : Tbl Lanes
  paths : List Path
  splits : List Split
  families : List Family
  scl : Tbl Word
  nbv : Nat
  perm : List Long
  grow : Word
  tstate : Word
  fltmask : Lanes
  fltrec : Long
  kbase : Long
  ksize : Nat
  handler : Bool
  frame : Option Frame
  recs : Tbl (BitVec 256)
  held : Option Trap
  ckpt : Option Ckpt
  idem : Bool
  ranCkpt : Bool
  reports : List Report
  splitAge : Nat
  seen : Times
  fenced : Times
  relayed : Times
  fence : List Rel
  pend : List Rel
  deriving DecidableEq, Repr

/-- A barrier (15 R362): its phase, the count fixed for it (`none` before the first arrival), the lanes that have
arrived in it, by group, the phase each lane last arrived in, by 32 * group + lane, and what the arrivals released. -/
structure Barrier where
  phase : Nat
  count : Option Nat
  arrived : Tbl Lanes
  last : Tbl Nat
  times : Times
  deriving DecidableEq, Repr

/-! ### Memory, translation and caches (01, 04, 05) -/

/-- Memory types (04 R97, R101). -/
inductive MemType where
  | normal | device | aliasMem | uncached
  deriving DecidableEq, Repr

/-- The permissions of a translation after composition (04 R91, R99). -/
structure Perm where
  r : Bool
  w : Bool
  x : Bool
  u : Bool
  mt : MemType
  sg : Bool
  deriving DecidableEq, Repr

/-- The kinds of access of an R114 record (04 R114 ACC). -/
inductive Acc where
  | load | store | atomic | fetch | porterRead | porterWrite
  deriving DecidableEq, Repr

/-- A translation fault: its class, the address, and the fields of 04 R114. -/
structure TFault where
  cls : Nat
  va : Long
  ca : Nat
  level : Nat
  walk : Bool
  acc : Acc
  asid : Nat
  deriving DecidableEq, Repr

/-- Why a lane's access failed (17 R388): a translation fault (class 0x0A); an access-trap cause (07 R162) with the
address and the ACC of its record (17 R395); data that is poisoned or that a completion failed (class 0x0B). -/
inductive LaneErr where
  | fault (f : TFault)
  | access (cause : Nat) (va : Long) (acc : Nat)
  | data (va : Long)
  deriving DecidableEq, Repr

/-- A combined translation in a stack base (04 R95): the level of its leaf, the number of the part of the page that it
translates (one frame at most, since every frame has its own frame-map entry), the context and machine addresses of that
part, and the permissions. -/
structure TlbEntry where
  stack : Nat
  asid : Nat
  level : Nat
  part : Nat
  ca : Nat
  ma : Nat
  perm : Perm
  deriving DecidableEq, Repr

/-- A cached first-stage entry (04 R95), with its level and the address that was walked. -/
structure TableEntry where
  stack : Nat
  asid : Nat
  ca : Nat
  entry : Nat
  va : Nat
  level : Nat
  ma : Nat
  deriving DecidableEq, Repr

/-- A cached frame-map entry (04 R95). -/
structure FrameEntry where
  stack : Nat
  ctx : Nat
  cfn : Nat
  mfn : Nat
  fw : Bool
  fx : Bool
  deriving DecidableEq, Repr

/-- A copy in an L1 (05 R116, R117): the core, the context whose ways hold it and the way, the logical time of its
value, its lease end, its grant and its cap. Poison of a line, by its 64-byte halves (04 R87), is two bits: bit 0 the
low half. The list of copies is in order of use, latest first. -/
structure L1Line where
  core : Nat
  ctx : Nat
  asid : Nat
  va : Nat
  data : Line
  perm : Perm
  wts : Nat
  le : Nat
  grant : Nat
  cap : Nat
  poison : BitVec 2
  way : Nat
  deriving DecidableEq, Repr

/-- The view of an L1 way partition, or of an engine operation (05 R120, R124): `known` are the times of what an
engine has read, and of writes performed at another die's L2 (05 R133). -/
structure PartView where
  core : Nat
  ctx : Nat
  vts : Nat
  sts : Nat
  known : Times
  deriving DecidableEq, Repr

/-- One store in a store queue: its bytes, what an orphan record needs (05 R118, 07 R170), whether it is a release at
`.die` or wider, and the releases its value carries (06 R146). `lane` is the address and `size` the width of the lane's
store that it is, or is a piece of, and `id` tells such a store from others. -/
structure StorePart where
  va : Long
  lane : Long
  size : Nat
  id : Nat
  bytes : List Byte
  pc : Long
  gser : Long
  handler : Bool
  rel : Bool
  carry : List Rel
  deriving DecidableEq, Repr

/-- An entry of a core's store queue (05 R118); the list is in program order, oldest first. In `State.late`, one whose
page has become device or alias memory since its issue. -/
structure StoreEntry where
  core : Nat
  ctx : Nat
  asid : Nat
  va : Nat
  parts : List StorePart
  deriving DecidableEq, Repr

/-- MOESI states of a line that is held (05 R127). -/
inductive Moesi where
  | m | o | e | s
  deriving DecidableEq, Repr

/-- A line of an L2 (05 R91, R119, R120, R125); the list is in order of use, latest first. `aq` is the clock until
which an acquire lease is live, `rewritten` the bytes of a poisoned line that have been overwritten (04 R87). -/
structure L2Line where
  die : Nat
  asid : Nat
  va : Nat
  ma : Nat
  data : Line
  perm : Perm
  st : Moesi
  wts : Nat
  rts : Nat
  pexp : Nat
  aq : Nat
  presence : BitVec 40
  poison : BitVec 2
  rewritten : BitVec 128
  way : Nat
  deriving DecidableEq, Repr

/-- An evicted line whose write-back is not yet acknowledged (05 R130). -/
structure WbEntry where
  die : Nat
  asid : Nat
  va : Nat
  ma : Nat
  data : Line
  perm : Perm
  poison : BitVec 2
  rewritten : BitVec 128
  deriving DecidableEq, Repr

/-- An entry of the switch directory (05 R128); the list is in order of use, latest first. -/
structure DirEntry where
  asid : Nat
  va : Nat
  owner : Option (Nat × Moesi)
  sharers : BitVec 4
  deriving DecidableEq, Repr

/-- The status register of a directory slice (05 R136). -/
structure DirStatus where
  cause : Nat
  recov : Bool
  lost : Bool
  deriving DecidableEq, Repr

/-- The owner-table states of a frame (04 R104). -/
inductive OwnState where
  | held | scrubbing | larder | global
  deriving DecidableEq, Repr

/-- An entry of the frame owner table (04 R104). -/
structure Owner where
  state : OwnState
  holder : Nat
  scrubs : BitVec 16
  deriving DecidableEq, Repr

/-- The states of a frame-map entry (04 R102). An unlisted entry is invalid. -/
inductive MapState where
  | valid | lent | larder
  deriving DecidableEq, Repr

/-- A frame-map entry (04 R102). -/
structure MapEntry where
  state : MapState
  fw : Bool
  fx : Bool
  mfn : Nat
  deriving DecidableEq, Repr

/-- A line in a quadrant's fetch buffer (02 R30, 07 R181). -/
structure Fetched where
  quad : Nat
  asid : Nat
  va : Nat
  ma : Nat
  u : Bool
  line : FetchLine
  deriving DecidableEq, Repr

/-! ### Contexts, queues, grids and blocks (14, 15, 16, 18) -/

/-- The states of a context (18 R410). -/
inductive CtxState where
  | new | running | stopping | stopped
  deriving DecidableEq, Repr

/-- A fabric endpoint of a context (14 R345). -/
structure Endpoint where
  pkg : BitVec 12
  ctx : BitVec 16
  die : Nat
  deriving DecidableEq, Repr

/-- A ring of numbered records in a context's memory: the fault queue (17 R397) or the trace ring (14 R335). -/
structure Ring where
  base : Long
  log2 : Nat
  next : Nat
  lost : Nat
  deriving DecidableEq, Repr

/-- A stop that is under way (17 R403, 18 R423): its deadline, the clock it began at, and whether the request
demands a full save. -/
structure Stop where
  deadline : Nat
  since : Nat
  save : Bool
  deriving DecidableEq, Repr

/-- A context record (18 R409-R437). `lastQ` is the queue its commands were last taken from (16 R376); `nano` is the
charge below a microjoule (R432). -/
structure Context where
  parent : Nat
  depth : Nat
  state : CtxState
  cause : Nat
  stop : Option Stop
  troot : Nat
  fmlen : Nat
  map : Tbl MapEntry
  mapFrames : List Nat
  gbbase : Long
  gblog2 : Nat
  fq : Ring
  notify : Long
  ceil : Nat
  rights : BitVec 4
  debug : Bool
  nextSeq : Nat
  lastQ : Nat
  xferSeq : BitVec 32
  purse : Int
  used : Nat
  granted : Nat
  nano : Nat
  relayG : Nat
  relayCap : Nat
  save : List Nat
  saved : Bool
  slice : Nat
  sliceD : Nat
  sliceEnd : Option Nat
  ckseq : Nat
  ndet : Bool
  trace : Option Ring
  endpoints : Tbl Endpoint
  deriving DecidableEq, Repr

/-- A launch queue's registers (16 R372), what the LAUNCHes that have pushed to it knew (06 R157), and the grid and
the block that pushed each of its device entries (15 R366), by the entry's index. -/
structure Queue where
  base : Long
  log2 : Nat
  fault : Bool
  dev : Bool
  en : Bool
  head : BitVec 32
  tail : BitVec 32
  times : Times
  pushed : List (Nat × Nat × Nat)
  deriving DecidableEq, Repr

/-- The fields of a kernel header that outlive its check (02 R48). -/
structure Header where
  nbv : Nat
  progress : Nat
  det : Bool
  regbase : Nat
  regext : Nat
  rcount : Nat
  spad : Nat
  dspad : Nat
  loft : Nat
  rtab : Nat
  codesize : Nat
  imagesize : Nat
  entries : List Nat
  deriving DecidableEq, Repr

/-- A launch descriptor (16 R375). -/
structure Desc where
  image : Long
  param : Long
  gx : Nat
  gy : Nat
  gz : Nat
  bthreads : Nat
  prio : Nat
  dflags : Nat
  ksize : Nat
  kbase : Long
  depbo : Long
  dimva : Long
  pmin : Nat
  deriving DecidableEq, Repr

/-- The guestbook states (16 R378). -/
inductive GridState where
  | accepted | started | complete | failed | cancelled
  deriving DecidableEq, Repr

/-- A grid: its guestbook entry and its progress (16 R375-R383). `ready`: its dependence is complete. `admitted`:
16 R380 has let it leave accepted. `energy` is what it was charged, in nanojoules. -/
structure Grid where
  ctx : Nat
  seq : Nat
  state : GridState
  cause : Nat
  detail : Nat
  queue : Nat
  qidx : BitVec 32
  launched : Bool
  parent : Nat
  parentBlock : Nat
  depth : Nat
  image : Long
  desc : Desc
  hdr : Header
  cls : Nat
  ready : Bool
  admitted : Bool
  nextBlock : Nat
  coaches : Nat
  runs : Nat
  runClocks : Nat
  failure : Option (Nat × Nat)
  energy : Nat
  start : Times
  ends : Times
  deriving DecidableEq, Repr

/-- An arrival counter's monitor entry (08 R201-R203): its posted target, whether its overrun report is armed, and the
sender and sequence number of each transfer it has counted. -/
structure Arrival where
  target : Option Long
  armed : Bool
  seen : List (Nat × Nat)
  deriving DecidableEq, Repr

/-- A die slice of a grid (01 R21, R22). -/
structure DieSlice where
  grid : Nat
  die : Nat
  size : Nat
  granules : List Nat
  bytes : Tbl Byte
  bar : Barrier
  arr : Tbl Arrival
  deriving DecidableEq, Repr

/-- The ways a block is pre-empted (17 R403). -/
inductive Method where
  | full | drain | flashback | restart
  deriving DecidableEq, Repr

/-- A block (15 R350, 08 R188). `method` is how it is being stopped and `saved` holds while it is not placed. `quads`
are its quadrants in ascending number. `origin` is how a coach started: its PC, its lanes and their registers (15
R370). -/
structure Block where
  grid : Nat
  method : Option Method
  saved : Bool
  index : Nat
  die : Nat
  core : Nat
  quads : List Nat
  groups : Nat
  coach : Bool
  spad : Tbl Byte
  poison : List Nat
  bars : Tbl Barrier
  arr : Tbl Arrival
  start : Nat
  origin : Option (Long × Lanes × Tbl Word)
  deriving DecidableEq, Repr

/-- An inn (15 R368-R371): its key's entry PC, its die and grid, its lodgers' parcels, its curfew and the clock at
which the partial coach's curfew expires. -/
structure Inn where
  grid : Nat
  die : Nat
  entry : Long
  lodgers : List (List Word)
  curfew : Nat
  timer : Option Nat
  deriving DecidableEq, Repr

/-- The fields of a fault-queue record (17 R397). -/
structure FaultRec where
  kind : Nat
  code : Nat
  srcctx : Nat
  order : Nat
  pc : Long
  gser : Long
  va : Long
  ca : Nat
  info : Nat
  asid : Nat
  queue : Nat
  aux : Nat
  deriving DecidableEq, Repr

/-- A record of a transfer that waits for those of earlier transfers of the same context (17 R397): the fault queue it
goes to, and the number of the context whose transfer it is. -/
structure HeldRec where
  queue : Nat
  ctx : Nat
  r : FaultRec
  deriving DecidableEq, Repr

/-! ### Engines (08, 12, 13, 14) -/

/-- The states of a porter operation (08 R198). -/
inductive PState where
  | queued | running | done | faulted | cancelled
  deriving DecidableEq, Repr

/-- A run of bytes that a porter operation moves. -/
structure PSeg where
  dst : Nat
  src : Nat
  len : Nat
  deriving DecidableEq, Repr

/-- Where an FXFER goes: its endpoint's package, context, die slice, the remote counter, and the local port. -/
structure Remote where
  pkg : BitVec 12
  ctx : BitVec 16
  die : Nat
  counter : Option Nat
  port : Nat
  deriving DecidableEq, Repr

/-- A porter operation or an FXFER (08 R183-R207): who issued it, its slot and first sequence number, what it moves,
its next transfer, the transfers sent and not acknowledged, the bytes written, whether a PCANCEL ends it, and how it
ended. `reg` is the lane register of a PGATH into registers with its producer and lanes. An operation whose slot is
free and that has transfers to be acknowledged is kept with slot 64. -/
structure PorterOp where
  gid : Nat
  gser : Long
  pc : Long
  slot : Nat
  ctx : Nat
  die : Nat
  block : Nat
  handler : Bool
  seq : BitVec 32
  count : Nat
  dsp : PSpace
  ssp : PSpace
  segs : List PSeg
  counter : Option (Bool × Nat)
  reg : Option (Nat × Nat × Lanes)
  remote : Option Remote
  next : Nat
  unacked : List Nat
  bytes : Nat
  cancel : Bool
  state : PState
  cls : Nat
  record : BitVec 256
  deriving DecidableEq, Repr

/-- What a quarter-op multiplies (12 R272): MMAQ, MMAQW, or MMAQI with its signs. -/
inductive QKind where
  | f | w
  | i (ua ub : Bool)
  deriving DecidableEq, Repr

/-- A queued quarter-op (12 R277): its group, producer, tile offset, rows, registers, kind and
snapshot, and the clock it was queued at. -/
structure QOp where
  gid : Nat
  prod : Nat
  tile : Nat
  rows : Lanes
  a : Nat
  d : Nat
  kind : QKind
  fmt : Word
  nbv : Nat
  sx : Option Word
  sy : Option Word
  pc : Long
  lanes : Lanes
  since : Nat
  deriving DecidableEq, Repr

/-- What a fill moves (12 R281-R283): fragments of lanes from a scratchpad (byte i of lane l comes from
`base l + (i / w) * pitch + i % w`), scratchpad bytes into the loft, or columns read from registers. -/
inductive FillKind where
  | frag (d : Nat) (bases : List Nat) (w pitch : Nat)
  | copy (src dst len : Nat)
  | tile (dst : Nat) (cols : List (Nat × List Byte))
  deriving DecidableEq, Repr

/-- A fill in flight. -/
structure Fill where
  gid : Nat
  prod : Nat
  die : Bool
  act : Lanes
  kind : FillKind
  pc : Long
  lanes : Lanes
  deriving DecidableEq, Repr

/-- The operations of the factorisation sequencer (13 R303-R309); TPERM's has the entries read at its issue. -/
inductive FactKind where
  | lu | chol | qr
  | trs (up unit tr : Bool)
  | perm (inv : Bool) (p : List Long)
  | qapp (tr : Bool)
  | norm (k : NormKind) (dst : Nat)
  deriving DecidableEq, Repr

/-- A factorisation operation in flight: tiles, order, columns, its producer if it has a destination, whether it has
committed a column, the clock at which its next step began to wait, and its PC. `early` are the elements that its step
has read before its commit, by loft address (13 R316). -/
structure FactOp where
  gid : Nat
  prod : Option Nat
  kind : FactKind
  ta : Nat
  tb : Nat
  n : Nat
  r : Nat
  started : Bool
  since : Nat
  pc : Long
  lanes : Lanes
  early : Tbl Nat
  deriving DecidableEq, Repr

/-- An MSELFT that waits for the quarter-ops queued before it (12 R288): its group, the producer of its register, and
the lanes of its path. -/
structure SelfTest where
  gid : Nat
  prod : Nat
  dst : Nat
  lanes : Lanes
  deriving DecidableEq, Repr

/-- The array and loft slice of a quadrant (12 R266-R292): the block that holds it, its release, fenced row-blocks,
row-blocks that fail their tests, the queues, the pass that runs, the counts of MSTAT, the passes since the last
injected self-test, and the clock at which the array was last busy. -/
structure Quad where
  holder : Option Nat
  releasing : Bool
  fenced : BitVec 4
  faulty : BitVec 4
  queue : List QOp
  pass : List QOp
  tests : List SelfTest
  fills : List Fill
  facts : List FactOp
  stfail : Nat
  lpois : Nat
  lecc : Nat
  passes : Nat
  idle : Nat
  deriving DecidableEq, Repr

/-- A loft window of a block on a quadrant (12 R266). -/
structure Window where
  block : Nat
  quad : Nat
  off : Nat
  size : Nat
  deriving DecidableEq, Repr

/-- A relay program (14 R330). -/
structure Program where
  num : Nat
  slotmin : Nat
  arrival : Bool
  code : List RelayWord
  deriving DecidableEq, Repr

/-- A staged chunk of an alias window (14 R321): its epoch, bytes, the 4-byte units stored, whether it has been sent,
whether its engine has taken it, and its sequence number. -/
structure Stage where
  epoch : Nat
  chunk : Nat
  bytes : List Byte
  units : List Nat
  sent : Bool
  taken : Bool
  seq : BitVec 32
  deriving DecidableEq, Repr

/-- The binding of an alias window (14 R318-R324), by machine frame number. `members` is the member table; `emits` and
`order` are the chunks emitted and the ranks in order of emission, by epoch; `held` are the stores that wait at the
stager, oldest first. -/
structure Binding where
  ctx : Nat
  cid : Nat
  kind : Nat
  op : Nat
  ity : Nat
  oty : Nat
  nmem : Nat
  rank : Nat
  prog : Program
  engine : Nat
  recv : Bool
  len : Nat
  cntoff : Option Nat
  resva : Long
  bova : Long
  members : List Nat
  nbv : Nat
  handler : Bool
  die : Nat
  grid : Nat
  block : Nat
  epoch : Nat
  emits : Tbl Nat
  order : Tbl (List Nat)
  failed : Bool
  stages : List Stage
  held : List (Nat × List Byte)
  deriving DecidableEq, Repr

/-- A relay buffer slot in use (14 R331, R340): a packet of a triple at an engine. `data` holds a reduce chunk widened
to FP32 elements; `len` is its length as it came. -/
structure Slot where
  ctx : Nat
  engine : Nat
  cid : Nat
  rlo : Nat
  rhi : Nat
  epoch : Nat
  chunk : Nat
  len : Nat
  port : Nat
  pkg : Nat
  sctx : Nat
  seq : BitVec 32
  data : List Byte
  checked : Bool
  ecc : Bool
  deriving DecidableEq, Repr

/-- A relay instance (14 R331): its triple, registers, next instruction, the slots it holds, its match set oldest
first, the instructions it has executed, whether it waits for a change, and whether its FWD or MCAST is under way. -/
structure Instance where
  engine : Nat
  cid : Nat
  epoch : Nat
  chunk : Nat
  prog : Program
  ctx : Nat
  k : Tbl Word
  pc : Nat
  held : List Nat
  arrived : List Nat
  count : Nat
  blocked : Bool
  sending : Bool
  deriving DecidableEq, Repr

/-- A recorded key (14 R338). -/
structure RelayKey where
  engine : Nat
  cid : Nat
  epoch : Nat
  rlo : Nat
  rhi : Nat
  chunk : Nat
  deriving DecidableEq, Repr

/-- What a packet in flight belongs to: a slot of a relay instance, a transfer of an FXFER, or an FATOM with its group
and destination pair. -/
inductive SentFor where
  | slot (inst slot : Nat)
  | xfer (op i : Nat)
  | fatom (gid prod dst : Nat)
  deriving DecidableEq, Repr

/-- A packet sent and not acknowledged (14 R346): its port, the remote die slice and counter it adds to, its owner, its
resends, and the clock at which its path last made progress. -/
structure Flight where
  ctx : Nat
  port : Nat
  p : Packet
  rod : Bool
  cnt : Option (Nat × Nat)
  owner : SentFor
  resends : Nat
  since : Nat
  deriving DecidableEq, Repr

/-- What the device puts on a port: a packet, an acknowledgement, a negative acknowledgement, or the reply of a remote
atomic. -/
inductive Wire where
  | packet (port : Nat) (p : Packet) (cnt : Option (Nat × Nat))
  | ack (port ctx : Nat) (seq : BitVec 32)
  | nack (port ctx : Nat) (seq : BitVec 32)
  | reply (port : Nat) (p : Packet) (old status : Long)
  deriving DecidableEq, Repr

/-- A remote atomic performed here, with its first reply (08 R208). -/
structure Answered where
  pkg : Nat
  ctx : Nat
  seq : BitVec 32
  old : Long
  status : Long
  deriving DecidableEq, Repr

/-- A read of the host or a peer device that a load or an atomic waits for (07 R168, 19 R439): the lane and byte
offset its data fill, and the lane's address. -/
structure Request where
  tag : Nat
  io : Nat
  lane : Nat
  off : Nat
  bytes : Nat
  peer : Option (BitVec 16)
  va : Long
  deriving DecidableEq, Repr

/-- The device accesses of one instruction in flight: the answers that are due, what each lane has read, the lanes
that failed, and for an instruction that reads once for its split, the operands it read at its issue. `outs` are the
lanes of an atomic on uncached memory that writes when its reads have come, with their bus addresses. -/
structure Io where
  gid : Nat
  wants : Nat
  vals : Tbl Nat
  errs : List (Nat × LaneErr)
  args : List Long
  outs : List (Nat × Nat)
  deriving DecidableEq, Repr

/-- A remote atomic on host or peer memory whose answer is due (08 R208, 07 R163): its port, its request, its size. -/
structure RemoteAtom where
  port : Nat
  p : Packet
  io : Nat
  size : Nat
  deriving DecidableEq, Repr

/-- What crosses the host edge outwards: a posted write, a non-posted read, an atomic, and the
completion of a read that came in. -/
inductive BusOut where
  | write (addr : Nat) (data : List Byte) (rid : BitVec 16)
  | read (tag addr bytes : Nat) (rid : BitVec 16)
  | atomic (tag addr bytes op : Nat) (a b : Nat) (rid : BitVec 16)
  | completion (data : List Byte)
  deriving DecidableEq, Repr

/-! ### The host complex (19) -/

/-- STAGE of MGMTSTAT (19 R445). -/
inductive BootStage where
  | rom | firmware | engines | ready | recovery
  deriving DecidableEq, Repr

/-- How a management request was answered (19 R446). -/
inductive MgmtStatus where
  | ok | invalidArgument | busy | refused
  deriving DecidableEq, Repr

/-- The last answer to management. -/
structure MgmtReply where
  status : MgmtStatus
  value : Nat
  deriving DecidableEq, Repr

/-- A peer window's register PEERWIN (19 R441). -/
structure PeerWin where
  valid : Bool
  rid : BitVec 16
  base : BitVec 44
  deriving DecidableEq, Repr

/-- What flash, fuses and the host complex hold across boot (19 R443-R447): the two banks of each image TYPE (by
2 TYPE + bank), the active bank of each TYPE, fused minima, revoked key slots, the images the boot has verified, an
update in progress, and in `pend` the images that wait for a reset: 3 for TYPE 3, 8 + d for TYPE 2 on die d. -/
structure Firmware where
  banks : Tbl FwImage
  active : Tbl Nat
  minSvn : Tbl Nat
  revoked : BitVec 4
  verified : List Nat
  fallback : Bool
  update : Option Nat
  verifiedUpdate : Option Nat
  pend : List Nat
  restart : Bool
  boot : BootSettings
  deriving DecidableEq, Repr

/-! ### Producers in flight, turns and the state -/

/-- A register a producer writes at its completion: the register, and a value for each lane it writes. A scalar
register takes the value of lane 0. -/
structure RegWrite where
  file : RegFile
  reg : Nat
  lanes : Lanes
  vals : List Long
  deriving DecidableEq, Repr

/-- A long-latency producer in flight (09 R213): the group, the registers that are empty until it completes, and what
it writes. -/
structure Producer where
  gid : Nat
  marks : List Nat
  writes : List RegWrite
  preds : List (Nat × Lanes × Lanes)
  ready : Bool
  deriving DecidableEq, Repr

/-- What the next step runs (the model's own field). DESIGN CHOICE (unsafe), log entry 4. -/
inductive Turn where
  | split (gid sp : Nat)
  | event (i : Instr) (x : Input)
  | relay (inst : Nat)
  deriving DecidableEq, Repr

/-- The reasons a step can stop with a fault. -/
inductive Fault where
  /-- Raised by `step` when its agenda holds, as an event, an instruction that only a split or a relay instance
  executes: nothing in the machine does that. Safe: the model stops. -/
  | strayTurn
  deriving DecidableEq, Repr

/-- The reasons a step can be refused. -/
inductive Refusal where
  /-- Raised by an arm of the dispatch whose instruction has no meaning yet. Safe: the model stops. -/
  | notModelled (mnemonic : String)
  deriving DecidableEq, Repr

/-- The machine. The fields before `clock` are the model's own. -/
structure State where
  gid : Nat
  sp : Nat
  inst : Nat
  input : Input
  agenda : List Turn
  stalled : List (Nat × Nat)
  fresh : Nat
  free : Nat
  -- the package (01, 19)
  clock : Nat
  mode : Nat
  gen : Nat
  busy : Bool
  secondTier : Nat
  -- memory, translation and caches (01, 04, 05)
  mem : Tbl Byte
  poison : Tbl Bool
  rewritten : Tbl (BitVec 128)
  owners : Tbl Owner
  gtroot : Nat
  tlb : List TlbEntry
  tables : List TableEntry
  frames : List FrameEntry
  l1 : List L1Line
  parts : List PartView
  sq : List StoreEntry
  late : List StoreEntry
  orphaned : List Nat
  l2 : List L2Line
  sliceMts : Tbl Nat
  wb : List WbEntry
  dir : List DirEntry
  dirStatus : Tbl DirStatus
  rels : List Rel
  written : Tbl Times
  fetched : List Fetched
  -- contexts and queues (16, 18)
  ctxs : Tbl Context
  quadHolder : Tbl Nat
  queueHolder : Tbl Nat
  portHolder : Tbl Nat
  queues : Tbl Queue
  -- grids, blocks, groups, inns (15, 16)
  grids : Tbl Grid
  slices : List DieSlice
  blocks : Tbl Block
  groups : Tbl Group
  answers : Tbl (Option Trap)
  inns : Tbl Inn
  chunkQ : Tbl (List (Nat × BitVec 6))
  boostTurn : Tbl Nat
  producers : Tbl Producer
  counters : Tbl Nat
  -- porters, arrays, lofts (08, 12, 13)
  porterOps : Tbl PorterOp
  porters : Tbl Nat
  porterCtx : Tbl Nat
  heldRecs : List HeldRec
  quads : Tbl Quad
  loft : Tbl Byte
  loftPoison : Tbl Bool
  windows : List Window
  -- relay engines, ports and the fabric (14)
  ownPkg : BitVec 12
  programs : List Program
  bindings : Tbl Binding
  slots : Tbl Slot
  instances : Tbl Instance
  keys : List RelayKey
  flights : List Flight
  wire : List Wire
  answered : List Answered
  routes : Tbl Nat
  breakout : Tbl Nat
  transit : Tbl Nat
  missing : List (Nat × Nat × BitVec 32)
  -- the host edge and the host complex (07, 11, 19)
  ios : Tbl Io
  requests : List Request
  opReads : Tbl Nat
  remoteAtoms : List RemoteAtom
  arrived : List (Long × List Byte)
  bus : List BusOut
  heldAccess : List BusAccess
  stage : BootStage
  firmware : Firmware
  reply : MgmtReply
  numVfs : Nat
  vfs : Tbl Nat
  peerWin : Tbl PeerWin
  laneGroups : Tbl Nat
  linkDown : Tbl Bool
  newMode : Option Nat
  deriving DecidableEq, Repr

/-! ### The state after a package reset (19 R443-R449; INVENTORY.md, State) -/

/-- The n low bytes of a number, lowest first. -/
def leBytes (n x : Nat) : List Byte := (List.range n).map fun i => BitVec.ofNat 8 (x >>> (8 * i))

/-- The image that a flash bank of a TYPE holds when the model starts: one that every check of 19 R444 passes (log
entry 9). DESIGN CHOICE (unsafe), log entry 9. -/
def flashImage (ty : Nat) (payload : List Byte := []) : FwImage :=
  let head := leBytes 4 0x4D495A43 ++ leBytes 2 ty ++ leBytes 2 0 ++ leBytes 4 0 ++ leBytes 4 payload.length
  ⟨((List.range 16).zip head).filter fun e => e.2 != 0, payload, true, true, true, 0⟩

/-- The instructions of program 1, red4 (14 R336). -/
def red4Code : List Nat :=
  [0x0000000000410001, 0x0000000004900003, 0x000000008900000D, 0x0000000100510001, 0x0000000005900003,
    0x000000038900000D, 0x0000000054400004, 0x0000000200610001, 0x0000000006900003, 0x000000078900000D,
    0x0000000300710001, 0x0000000007900003, 0x0000000A8900000D, 0x0000000076600004, 0x0000000064400004,
    0x0000000004000008, 0x000000000000000F]

/-- The program image of red4, which Cerweir's relay program sets carry (14 R330).
DESIGN CHOICE (unsafe), log entry 9. -/
def red4Image : List Byte :=
  leBytes 4 0x4C455259 ++ leBytes 2 17 ++ leBytes 2 4 ++ leBytes 1 0 ++ leBytes 1 1 ++ leBytes 6 0 ++
    red4Code.flatMap (leBytes 8)

/-- The boot settings that flash holds when the model starts: the defaults of 18 R409, and zero where the spec gives
none (log entry 2). DESIGN CHOICE (unsafe), log entry 2. -/
def flashBoot : BootSettings := ⟨2 ^ 62, 0, 12, 0, 12, 0, 1⟩

/-- Flash and fuses when the model starts. DESIGN CHOICE (unsafe), log entry 9. -/
def flashReset : Firmware where
  banks := [(2, flashImage 1), (3, flashImage 1), (4, flashImage 2), (5, flashImage 2), (6, flashImage 3),
    (7, flashImage 3), (8, flashImage 4 red4Image), (9, flashImage 4 red4Image)]
  active := []
  minSvn := []
  revoked := 0
  verified := []
  fallback := false
  update := none
  verifiedUpdate := none
  pend := []
  restart := false
  boot := flashBoot

/-- The machine right after a package reset.
DESIGN CHOICE (unsafe), log entry 2; DESIGN CHOICE (unsafe), log entry 10. -/
def State.reset : State where
  gid := 0
  sp := 0
  inst := 0
  input := .nothing
  agenda := []
  stalled := []
  fresh := 1
  free := 0
  clock := 0
  mode := 1
  gen := 0
  busy := false
  secondTier := 0
  mem := []
  poison := []
  rewritten := []
  owners := []
  gtroot := 0
  tlb := []
  tables := []
  frames := []
  l1 := []
  parts := []
  sq := []
  late := []
  orphaned := []
  l2 := []
  sliceMts := []
  wb := []
  dir := []
  dirStatus := []
  rels := []
  written := []
  fetched := []
  ctxs := []
  quadHolder := []
  queueHolder := []
  portHolder := []
  queues := []
  grids := []
  slices := []
  blocks := []
  groups := []
  answers := []
  inns := []
  chunkQ := []
  boostTurn := []
  producers := []
  counters := []
  porterOps := []
  porters := []
  porterCtx := []
  heldRecs := []
  quads := []
  loft := []
  loftPoison := []
  windows := []
  ownPkg := 0
  programs := []
  bindings := []
  slots := []
  instances := []
  keys := []
  flights := []
  wire := []
  answered := []
  routes := []
  breakout := []
  transit := []
  missing := []
  ios := []
  requests := []
  opReads := []
  remoteAtoms := []
  arrived := []
  bus := []
  heldAccess := []
  stage := .rom
  firmware := flashReset
  reply := ⟨.ok, 0⟩
  numVfs := 0
  vfs := []
  peerWin := []
  laneGroups := []
  linkDown := []
  newMode := none

end Sys2Proof.Machine
end

