-- ==== Sys2Proof/Machine/Cells.lean ====
section
/-! DEFINITION. Machine addresses (01 R25), the bytes of memory in little-endian order (00 R4), and the plain
helpers over addresses, lines and counters. -/

namespace Sys2Proof.Machine

/-- The regions of the machine address map (01 R25). -/
inductive Region where
  | stack | tier | host | peer | aliasMem | regs | reserved
  deriving DecidableEq, Repr

/-- The region of a machine address (01 R25); a second-tier frame that is not populated is reserved. -/
def regionOf (s : State) (ma : Nat) : Region :=
  if ma < 0x00C000000000 then .stack
  else if ma < 0x080000000000 then .reserved
  else if ma < 0x100000000000 then (if (ma - 0x080000000000) / 0x200000 < s.secondTier then .tier else .reserved)
  else if ma < 0x110000000000 then .host
  else if ma < 0x120000000000 then .peer
  else if ma < 0x120400000000 then .aliasMem
  else if ma < 0x130000000000 then .reserved
  else if ma < 0x130010000000 then .regs
  else .reserved

/-- A frame that a frame map may name (01 R25). -/
def populatedFrame (s : State) (mfn : Nat) : Bool := regionOf s (mfn * 0x200000) != .reserved

/-- A byte of machine memory; a byte that nothing has written reads 0 (log entry 8).
DESIGN CHOICE (safe), log entry 1; DESIGN CHOICE (unsafe), log entry 8. -/
def memByte (m : Tbl Byte) (a : Nat) : Byte := tblGet 0 m a

/-- Writes one byte of machine memory. DESIGN CHOICE (safe), log entry 1. -/
def memSet (m : Tbl Byte) (a : Nat) (b : Byte) : Tbl Byte := tblSet 0 m a b

/-- n bytes from address a. -/
def memBytes (m : Tbl Byte) (a n : Nat) : List Byte := (List.range n).map fun i => memByte m (a + i)

/-- Writes bytes from address a. -/
def memWrite (m : Tbl Byte) (a : Nat) : List Byte → Tbl Byte
  | [] => m
  | b :: r => memWrite (memSet m a b) (a + 1) r

/-- The number of a byte list, lowest byte first (00 R4). -/
def natOfBytes : List Byte → Nat
  | [] => 0
  | b :: r => b.toNat + 256 * natOfBytes r

/-- The n low bytes of a number, lowest first (00 R4). -/
def bytesOfNat (n x : Nat) : List Byte := (List.range n).map fun i => BitVec.ofNat 8 (x >>> (8 * i))

/-- A line of machine memory (05 R116). -/
def memLine (m : Tbl Byte) (ma : Nat) : Line := BitVec.ofNat 1024 (natOfBytes (memBytes m ma 128))

/-- Writes a whole line of machine memory. -/
def memSetLine (m : Tbl Byte) (ma : Nat) (d : Line) : Tbl Byte := memWrite m ma (bytesOfNat 128 d.toNat)

/-- n bytes of a line from offset off. -/
def lineBytes (d : Line) (off n : Nat) : List Byte := bytesOfNat n (d.toNat >>> (8 * off))

/-- A line with bytes written at offset off. -/
def lineSet (d : Line) (off : Nat) (bs : List Byte) : Line :=
  let m : Line := BitVec.ofNat 1024 ((2 ^ (8 * bs.length) - 1) <<< (8 * off))
  (d &&& ~~~m) ||| BitVec.ofNat 1024 (natOfBytes bs <<< (8 * off))

/-- A half-line of 64 bytes is poisoned (04 R87), as every line of a CXL link that is down is (19 R442).
DEDUCED (unsafe), log entry 74. -/
def poisoned (s : State) (ma : Nat) : Bool :=
  tblGet false s.poison (ma / 64) || (regionOf s ma = .tier && tblGet false s.linkDown (bits ma 9 8))

/-- The poison of a line's halves, low half first. DEDUCED (unsafe), log entry 74. -/
def linePoison (s : State) (ma : Nat) : BitVec 2 := BitVec.ofNat 2 (one (poisoned s ma) + 2 * one (poisoned s (ma + 64)))

/-- n bytes from offset off of a line touch a poisoned half. -/
def touchesPoison (p : BitVec 2) (off n : Nat) : Bool :=
  (p.getLsbD 0 && decide (off < 64)) || (p.getLsbD 1 && decide (64 < off + n))

/-- The bytes off to off + n of a line. -/
def lineMask (off n : Nat) : BitVec 128 := BitVec.ofNat 128 ((2 ^ n - 1) <<< off)

/-- The poison of a line and its overwritten bytes after a write of n bytes from offset off: an overwrite of every byte,
in one write or in several, clears the poison (04 R87). DEDUCED (unsafe), log entry 74. -/
def overwrite (p : BitVec 2) (o : BitVec 128) (off n : Nat) : BitVec 2 × BitVec 128 :=
  let o1 := o ||| lineMask off n
  if p == 0 || ~~~o1 == 0 then (0, 0) else (p, o1)

/-- Writes the poison of both halves of a line, and its overwritten bytes. -/
def setLinePoison (s : State) (ma : Nat) (p : BitVec 2) (o : BitVec 128) : State :=
  { s with
    poison := tblSet false (tblSet false s.poison (ma / 64) (p.getLsbD 0)) (ma / 64 + 1) (p.getLsbD 1)
    rewritten := tblSet 0 s.rewritten (ma / 128) (if p == 0 then 0 else o) }

/-- The overwritten bytes of a poisoned line in memory. -/
def lineOver (s : State) (ma : Nat) : BitVec 128 := tblGet 0 s.rewritten (ma / 128)

/-- A write that reaches memory past the caches, within one line: uncached accesses (04 R101), and what it does to the
line's poison (04 R87). -/
def memStore (s : State) (ma : Nat) (bs : List Byte) : State :=
  let l := ma / 128 * 2
  let p := BitVec.ofNat 2 (one (tblGet false s.poison l) + 2 * one (tblGet false s.poison (l + 1)))
  let x := overwrite p (lineOver s ma) (ma % 128) bs.length
  setLinePoison { s with mem := memWrite s.mem ma bs } (ma / 128 * 128) x.1 x.2

/-- The line address of an address. -/
def lineOf (a : Nat) : Nat := a / 128 * 128

/-- 57-bit canonical form (01 R24). -/
def canonical (a : Long) : Bool := (a.extractLsb' 0 57).signExtend 64 == a

/-- The global range (04 R100). -/
def isGlobal (a : Long) : Bool := a.getLsbD 56

/-- The ASID of an access (04 R92, R100). DEDUCED (unsafe), log entry 73. -/
def asidOf (ctx : Nat) (a : Long) : Nat := if isGlobal a then 0 else ctx

/-- The partition of a die (01 R16). -/
def partitionOf (s : State) (die : Nat) : Nat :=
  if s.mode = 1 then 0 else if s.mode = 2 then die / 2 else die

/-- The partition of a machine address of stack DRAM (01 R16). -/
def maPartition (s : State) (ma : Nat) : Nat :=
  if s.mode = 1 then 0 else if s.mode = 2 then ma / 0x6000000000 else ma / 0x3000000000

/-- Where a byte of stack DRAM lies: its package stack and its offset in the stack (01 R15, R16). -/
def stackPlace (s : State) (ma : Nat) : Nat × Nat :=
  let q := maPartition s ma
  if s.mode = 1 then (bits ma 10 7, ma / 2 ^ 11 * 128 + ma % 128)
  else if s.mode = 2 then (8 * q + bits ma 9 7, (ma - q * 0x6000000000) / 2 ^ 10 * 128 + ma % 128)
  else (4 * q + bits ma 8 7, (ma - q * 0x3000000000) / 2 ^ 9 * 128 + ma % 128)

/-- The machine address of a byte of a stack: the inverse of `stackPlace` (01 R16). -/
def placeMa (s : State) (stack off : Nat) : Nat :=
  let n := if s.mode = 1 then 16 else if s.mode = 2 then 8 else 4
  let base := if s.mode = 1 then 0 else if s.mode = 2 then stack / 8 * 0x6000000000 else stack / 4 * 0x3000000000
  base + off / 128 * (128 * n) + stack % n * 128 + off % 128

/-- The home stack of a line for a requester on a die (01 R16). -/
def homeStack (s : State) (die : Nat) (va : Nat) : Nat :=
  if s.mode = 1 then bits va 10 7
  else if s.mode = 2 then 8 * partitionOf s die + bits va 9 7
  else 4 * die + bits va 8 7

/-- The die that holds the home stack of a line at a machine address (05 R127). A line of stack DRAM lies in the stack
that its machine address names, also one of the global range (04 R94). A line of the second tier, which lies in no
partition, homes in the partition of the die that caches it, and in the first where it is of the global range, whose
lines cross partitions. DEDUCED (unsafe), log entry 81. -/
def homeDie (s : State) (die asid va ma : Nat) : Nat :=
  if ma < 0x00C000000000 then (stackPlace s ma).1 / 4 else homeStack s (if asid = 0 then 0 else die) va / 4

/-! ### Logical times (05 R120) -/

def Times.at (t : Times) (die : Nat) : Nat :=
  match die with
  | 0 => t.t0 | 1 => t.t1 | 2 => t.t2 | _ => t.t3

def Times.join (a b : Times) : Times := ⟨Nat.max a.t0 b.t0, Nat.max a.t1 b.t1, Nat.max a.t2 b.t2, Nat.max a.t3 b.t3⟩

/-- The time of one die. -/
def timesOf (die n : Nat) : Times :=
  match die with
  | 0 => ⟨n, 0, 0, 0⟩ | 1 => ⟨0, n, 0, 0⟩ | 2 => ⟨0, 0, n, 0⟩ | _ => ⟨0, 0, 0, n⟩

/-- The agents of a scope instance (06 R139). A relay engine belongs to `.pkg` and `.sys` alone, the host and its
devices to `.sys`. -/
def inScope (a : Agent) (sc : Scope) (b : Agent) : Bool :=
  let near := (a.kind = .split || a.kind = .engine) && (b.kind = .split || b.kind = .engine)
  match sc with
  | .grp => near && a.gid = b.gid
  | .blk => near && a.block = b.block
  | .die => near && a.die = b.die
  | .pkg => a.kind != .host && b.kind != .host
  | .sys => true

/-- Two events are inclusive (06 R140): each agent lies in the other's scope instance. -/
def inclusive (a : Agent) (sa : Scope) (b : Agent) (sb : Scope) : Bool := inScope a sa b && inScope b sb a

/-- An acquire takes up a release that the value it read carries (06 R146). A release that PROM made counts as though
the acquire had been made at PROM's scope, and an acquire that PROM makes as though the release had been (06 R150). -/
def takesUp (a : Agent) (sc : Scope) (prom : Bool) (r : Rel) : Bool :=
  inclusive a (if r.prom then r.scope else sc) r.agent (if prom then sc else r.scope)

/-- Releases by one agent at one scope are one, with all the times. -/
def joinRel (l : List Rel) (r : Rel) : List Rel :=
  let same (x : Rel) : Bool := x.space = r.space && x.unit = r.unit && x.agent = r.agent && x.scope = r.scope && x.prom = r.prom
  if l.any same then l.map fun x => if same x then { x with times := x.times.join r.times } else x else l ++ [r]

/-- What an acquire learns from the releases it takes up. DEDUCED (unsafe), log entry 82. -/
def relTimes (a : Agent) (sc : Scope) (prom : Bool) (l : List Rel) : Times :=
  l.foldl (fun t r => if takesUp a sc prom r then t.join r.times else t) Times.zero

/-- Adds to a telemetry counter: k numbers it in the order of 05 R135, 12 R293 and 14 R342, i is its instance
(19 R448). -/
def count (s : State) (k i n : Nat) : State :=
  { s with counters := tblSet 0 s.counters (k * 65536 + i) ((tblGet 0 s.counters (k * 65536 + i) + n) % 2 ^ 64) }

/-- The next free value (Config.freeValue): nothing is known of it. DESIGN CHOICE (safe), log entry 3. -/
def freeNext (s : State) : Nat × State := (Config.freeValue s.free, { s with free := s.free + 1 })

/-- The core and the die of a quadrant (01 R12). -/
def coreOfQuad (q : Nat) : Nat := q / 4
def dieOfQuad (q : Nat) : Nat := q / 160
def dieOfCore (c : Nat) : Nat := c / 40

/-- The holder of a quadrant, a launch queue or a sub-port: the root holds what nothing has been lent (18 R409).
DESIGN CHOICE (unsafe), log entry 54. -/
def quadHolder (s : State) (q : Nat) : Nat := tblGet 1 s.quadHolder q
/-- DESIGN CHOICE (unsafe), log entry 54. -/
def queueHolder (s : State) (q : Nat) : Nat := tblGet 1 s.queueHolder q
/-- DESIGN CHOICE (unsafe), log entry 54. -/
def portHolder (s : State) (p : Nat) : Nat := tblGet 1 s.portHolder p

/-- Changes a context record. -/
def updCtx (s : State) (c : Nat) (f : Context → Context) : State := { s with ctxs := tblUpd s.ctxs c f }

/-- The L2 slice of a line (05 R125). -/
def l2Slice (va : Nat) : Nat := Nat.xor (bits va 14 11) (bits va 10 7)

/-- The L2 set of a line (05 R125). -/
def l2Set (va : Nat) : Nat := bits va 25 15

/-- The directory slice of a line (05 R128). -/
def dirSlice (asid va : Nat) : Nat := Nat.xor (bits va 13 11) (asid % 8)

/-- The directory set of a line (05 R128). -/
def dirSet (va : Nat) : Nat := bits va 29 14

end Sys2Proof.Machine
end

