-- ==== Sys2Proof/Machine/Translate.lean ====
section
/-! DEFINITION. Translation at the stack bases (04 R94-R103, R112-R115, R476): the walk, the frame maps, the caches
of translations, and the order of the checks. -/

namespace Sys2Proof.Machine

/-- Who makes an access: its context, the die it is made from, and whether U = 0 pages are reachable (04 R476). -/
structure Who where
  ctx : Nat
  die : Nat
  core : Option Nat
  handler : Bool
  deriving DecidableEq, Repr

/-- A translated access. -/
structure Xlat where
  ma : Nat
  perm : Perm
  ca : Nat
  level : Nat
  deriving DecidableEq, Repr

/-- An entry of a context's frame map (04 R102, R103). The root's map is the identity over populated frames, less the
frames it has lent and its save frames (18 R428). -/
def mapEntry (s : State) (ctx cfn : Nat) : Option MapEntry :=
  match tblFind s.ctxs ctx with
  | none => none
  | some c =>
    match tblFind c.map cfn with
    | some e => some e
    | none =>
      if ctx = 1 && populatedFrame s cfn && !c.save.contains cfn then some ⟨.valid, true, true, cfn⟩ else none

/-- FMBASE of a context record (04 R102): the machine address of the first frame that holds its frame map. -/
def fmBase (c : Context) : Option Nat := c.mapFrames.head?.map (· * 0x200000)

/-- The machine address of entry n of a context's frame map: FMBASE + 8n where the frames that hold the map adjoin (04
R102), as they need not. DEDUCED (unsafe), log entry 84. -/
def mapWordAt (c : Context) (cfn : Nat) : Option Nat :=
  (c.mapFrames[cfn / 0x40000]?).map fun f => f * 0x200000 + 8 * (cfn % 0x40000)

/-- The 8 bytes of a frame-map entry (04 R102). -/
def mapWord : Option MapEntry → Nat
  | none => 0
  | some e =>
    (match e.state with | .valid => 1 | .lent => 2 | .larder => 3) * 2 ^ 61 + one e.fw * 2 ^ 60 + one e.fx * 2 ^ 59 +
      e.mfn % 2 ^ 27

/-- What 8 bytes of a frame map say (04 R102): an entry, an invalid one, or a STATE that is never written. -/
def readMapWord (x : Nat) : Except Nat (Option MapEntry) :=
  let e (st : MapState) : Except Nat (Option MapEntry) := .ok (some ⟨st, bit x 60, bit x 59, bits x 26 0⟩)
  match bits x 63 61 with
  | 0 => .ok none
  | 1 => e .valid
  | 2 => e .lent
  | 3 => e .larder
  | _ => .error 0x13

/-- Writes an entry of a frame map, in the engine's record and in the frames of the map (04 R102, 18 R409); `none` is
invalid. The root's map is the identity and lies in no frame: an entry equal to it is not listed. -/
def setMapEntry (s : State) (ctx cfn : Nat) (e : Option MapEntry) : State :=
  let at_ := ((tblFind s.ctxs ctx).bind fun c => mapWordAt c cfn)
  let s1 := match at_ with
    | some a => { s with mem := memWrite s.mem a (bytesOfNat 8 (mapWord e)) }
    | none => s
  updCtx s1 ctx fun c =>
    { c with map := match e with
        | none => tblDel c.map cfn
        | some e => if ctx = 1 && e.state = .valid && e.mfn = cfn then tblDel c.map cfn else tblPut c.map cfn e }

/-- The owner-table entry of a frame (04 R104): the root holds what nothing has taken. -/
def ownerOf (s : State) (mfn : Nat) : Owner := tblGet ⟨.held, 1, 0⟩ s.owners mfn

def setOwner (s : State) (mfn : Nat) (o : Owner) : State := { s with owners := tblSet ⟨.held, 1, 0⟩ s.owners mfn o }

/-- Keeps the n latest of the entries that hold, and every other entry. DEDUCED (unsafe), log entry 84. -/
def keepFrom {α : Type} (p : α → Bool) : Nat → List α → List α
  | _, [] => []
  | 0, x :: r => if p x then keepFrom p 0 r else x :: keepFrom p 0 r
  | n + 1, x :: r => x :: keepFrom p (if p x then n else n + 1) r

/-- The frame-map entry that a stack base reads: the root's by the identity, another's from the frames of its map
(04 R102, R103). DEDUCED (unsafe), log entry 84. -/
def walkerEntry (s : State) (ctx cfn : Nat) : Except Nat (Option MapEntry) :=
  if ctx = 1 then .ok (mapEntry s ctx cfn)
  else
    match tblFind s.ctxs ctx with
    | none => .ok none
    | some c =>
      if c.fmlen ≤ cfn then .ok none
      else
        match mapWordAt c cfn with
        | none => .ok none
        | some a => readMapWord (natOfBytes (memBytes s.mem a 8))

/-- What a stack base finds for a context address: the machine address with FW and FX, or the class of the fault (04
R102, R107, R112); 0x13 is the machine check of a STATE that is never written. The first translation through a larder
entry makes it valid and the frame held. -/
def frameLookup (s : State) (stack ctx ca : Nat) : Except Nat (State × Nat × Bool × Bool) :=
  let cfn := ca / 0x200000
  match s.frames.find? fun e => e.stack = stack && e.ctx = ctx && e.cfn = cfn with
  | some e => .ok (s, e.mfn * 0x200000 + ca % 0x200000, e.fw, e.fx)
  | none =>
    match walkerEntry s ctx cfn with
    | .error cls => .error cls
    | .ok none => .error 0x10
    | .ok (some e) =>
      if e.state = .lent then .error 0x07
      else
        let s1 :=
          if e.state = .larder then
            setOwner (setMapEntry s ctx cfn (some { e with state := .valid })) e.mfn
              { ownerOf s e.mfn with state := .held }
          else s
        .ok ({ s1 with frames := keepFrom (fun x => x.stack = stack) 512 (⟨stack, ctx, cfn, e.mfn, e.fw, e.fx⟩ :: s1.frames) },
          e.mfn * 0x200000 + ca % 0x200000, e.fw, e.fx)

/-- The address of a context address in the global range is itself (04 R100). -/
def outputLookup (s : State) (stack ctx asid ca : Nat) : Except Nat (State × Nat × Bool × Bool) :=
  if asid = 0 then .ok (s, ca, true, true) else frameLookup s stack ctx ca

/-- The memory types a region allows (01 R25). -/
def typeAllowed (r : Region) (mt : MemType) : Bool :=
  match r with
  | .stack | .tier => mt = .normal || mt = .uncached
  | .host | .peer => mt = .device || mt = .uncached
  | .aliasMem => mt = .aliasMem
  | .regs => mt = .device
  | .reserved => false

/-- The permissions of a first-stage leaf (04 R97). -/
def leafPerm (e : Nat) : Perm where
  r := bit e 2
  w := bit e 3
  x := bit e 4
  u := bit e 5
  mt := match bits e 7 6 with
    | 0 => .normal | 1 => .device | 2 => .aliasMem | _ => .uncached
  sg := bit e 8

/-- What an access needs (04 R99). -/
def permOk (p : Perm) (a : Acc) (handler : Bool) : Bool :=
  (p.u || handler) &&
  match a with
  | .load | .porterRead => p.r
  | .store | .porterWrite => p.w
  | .atomic => p.r && p.w
  | .fetch => p.x && p.mt = .normal

/-- The frame map's share of what an access needs (04 R102, R112). -/
def framePermOk (fw fx : Bool) (a : Acc) : Bool :=
  match a with
  | .store | .atomic | .porterWrite => fw
  | .fetch => fx
  | .load | .porterRead => true

/-- The rules of 04 R98 on a valid entry at a level. -/
def entryFormatOk (e level asid : Nat) : Bool :=
  bits e 63 48 == 0 &&
  (if bit e 1 then
     level ≤ 2 && (level != 1 || bits e 20 12 == 0) && (level != 2 || bits e 29 12 == 0) &&
       (if asid = 0 then bit e 8 else !bit e 8)
   else level != 0)

/-- Reads a first-stage entry at a stack base, through its cache, which holds no invalid entry and none that breaks a
rule of R98 (04 R95, R108). DEDUCED (unsafe), log entry 84. -/
def readTableEntry (s : State) (stack asid ca ma va level : Nat) : State × Nat :=
  match s.tables.find? fun e => e.stack = stack && e.asid = asid && e.ca = ca with
  | some e => (s, e.entry)
  | none =>
    let e := natOfBytes (memBytes s.mem ma 8)
    if bit e 0 && entryFormatOk e level asid then
      ({ s with tables := keepFrom (fun x => x.stack = stack) 1024 (⟨stack, asid, ca, e, va, level, ma⟩ :: s.tables) }, e)
    else (s, e)

/-- A fault of a walk; a machine check at the stack base is counted (04 R102). -/
def walkFault (s : State) (f : TFault) {α : Type} : State × Except TFault α :=
  (if f.cls = 0x13 then count s 37 0 1 else s, .error f)

/-- The walk from a level down (04 R96, R112 step 3): the leaf's entry and its level, and the state with what the walk
has cached and the larder entries it has used, however it ends (04 R107). -/
def walkFrom (stack ctx asid : Nat) (va : Long) (acc : Acc) : Nat → Nat → State → State × Except TFault (Nat × Nat)
  | level, tca, s =>
    let idx := bits va.toNat (12 + 9 * level + 8) (12 + 9 * level)
    let eca := tca + 8 * idx
    let flt (cls : Nat) (walk : Bool) : TFault := ⟨cls, va, eca, level, walk, acc, asid⟩
    match outputLookup s stack ctx asid eca with
    | .error cls => walkFault s (flt cls true)
    | .ok (s1, ma, _, _) =>
      if regionOf s ma != .stack && regionOf s ma != .tier then (s1, .error (flt 0x04 true))
      else
        let (s2, e) := readTableEntry s1 stack asid eca ma va.toNat level
        if !bit e 0 then (s2, .error (flt 0x01 false))
        else if !entryFormatOk e level asid then (s2, .error (flt 0x03 false))
        else if bit e 1 then (s2, .ok (e, level))
        else
          match level with
          | 0 => (s2, .error (flt 0x03 false))
          | l + 1 => walkFrom stack ctx asid va acc l (bits e 47 12 * 4096) s2

/-- The bytes a leaf of a level maps. -/
def pageSize (level : Nat) : Nat := 4096 * 512 ^ level

/-- The size of what one combined translation covers: the page, and at most a frame where a frame map applies. -/
def partSize (asid level : Nat) : Nat := if asid = 0 then pageSize level else pageSize (Nat.min level 1)

/-- The whole walk of a virtual address (04 R112 steps 3-7), and the state after it however it ends (04 R107). -/
def walkAll (s : State) (w : Who) (stack : Nat) (va : Long) (acc : Acc) : State × Except TFault Xlat :=
  let asid := asidOf w.ctx va
  let root := if asid = 0 then s.gtroot else ((tblFind s.ctxs w.ctx).map (·.troot)).getD 0
  match walkFrom stack w.ctx asid va acc 4 root s with
  | (s1, .error f) => (s1, .error f)
  | (s1, .ok (e, level)) =>
    let out := bits e 47 12 * 4096 + va.toNat % pageSize level
    let flt (cls : Nat) : TFault := ⟨cls, va, out, level, false, acc, asid⟩
    let p := leafPerm e
    if !permOk p acc w.handler then (s1, .error (flt 0x02))
    else
      match outputLookup s1 stack w.ctx asid out with
      | .error cls => walkFault s1 (flt cls)
      | .ok (s2, ma, fw, fx) =>
        if !framePermOk fw fx acc then (s2, .error (flt 0x11))
        else if !typeAllowed (regionOf s2 ma) p.mt then (s2, .error (flt 0x04))
        else
          let perm : Perm := { p with w := p.w && fw, x := p.x && fx }
          let n := partSize asid level
          let t : TlbEntry := ⟨stack, asid, level, va.toNat / n, out / n * n, ma / n * n, perm⟩
          ({ s2 with tlb := keepFrom (fun x => x.stack = stack) 4096 (t :: s2.tlb) }, .ok ⟨ma, perm, out, level⟩)

/-- A walk that succeeds, or its fault. DEDUCED (unsafe), log entry 30; DEDUCED (unsafe), log entry 34. -/
def walk (s : State) (w : Who) (stack : Nat) (va : Long) (acc : Acc) : Except TFault (State × Xlat) :=
  match walkAll s w stack va acc with
  | (s1, .ok x) => .ok (s1, x)
  | (_, .error f) => .error f

/-- The checks before any walk (04 R112 steps 1 and 2). -/
def addressFault (s : State) (w : Who) (va : Long) (acc : Acc) : Option TFault :=
  if !canonical va then some ⟨0x05, va, 0, 0, false, acc, asidOf w.ctx va⟩
  else if isGlobal va && !((tblFind s.ctxs w.ctx).any fun c => c.rights.getLsbD 0) then
    some ⟨0x06, va, 0, 0, false, acc, 0⟩
  else none

/-- Translates one address at its home stack base: from a cached translation that permits the access, or by a walk
(04 R94, R95, R112). -/
def translate (s : State) (w : Who) (va : Long) (acc : Acc) : Except TFault (State × Xlat) :=
  match addressFault s w va acc with
  | some f => .error f
  | none =>
    let asid := asidOf w.ctx va
    let stack := homeStack s w.die va.toNat
    match s.tlb.find? fun t => t.stack = stack && t.asid = asid && t.part = va.toNat / partSize asid t.level &&
        permOk t.perm acc w.handler with
    | some t =>
      let o := va.toNat % partSize asid t.level
      if typeAllowed (regionOf s (t.ma + o)) t.perm.mt then .ok (s, ⟨t.ma + o, t.perm, t.ca + o, t.level⟩)
      else .error ⟨0x04, va, t.ca + o, t.level, false, acc, asid⟩
    | none => walk s w stack va acc

/-- The state after an access that a walk has refused: what the walk changed stays (04 R107). -/
def afterWalk (s : State) (w : Who) (va : Long) (acc : Acc) : State :=
  match addressFault s w va acc with
  | some _ => s
  | none => (walkAll s w (homeStack s w.die va.toNat) va acc).1

/-- The state after an access that its translation, whatever it finds, stands behind (04 R107).
DEDUCED (unsafe), log entry 84. -/
def afterAccess (s : State) (w : Who) (va : Long) (acc : Acc) : State :=
  match translate s w va acc with
  | .ok (s1, _) => s1
  | .error _ => afterWalk s w va acc

/-- The state after an access that ended in a fault (04 R107). DEDUCED (unsafe), log entry 84. -/
def afterFault (s : State) (w : Who) (f : TFault) : State := afterAccess s w f.va f.acc

/-- A fault found at a leaf whose translation stands (04 R112, R114): the class with the leaf output's address and
level, or the fault of a walk of its own. -/
def leafFault (s : State) (w : Who) (cls : Nat) (va : Long) (acc : Acc) : TFault :=
  match walk s w (homeStack s w.die va.toNat) va acc with
  | .error f => f
  | .ok (_, t) => ⟨cls, va, t.ca, t.level, false, acc, asidOf w.ctx va⟩

/-- ACC of 04 R114. -/
def accCode : Acc → Nat
  | .load => 0 | .store => 1 | .atomic => 2 | .fetch => 3 | .porterRead => 4 | .porterWrite => 5

/-- The R114 record of a fault. -/
def faultRecord (f : TFault) : BitVec 256 :=
  BitVec.ofNat 256 (f.va.toNat + f.ca * 2 ^ 64 + f.cls * 2 ^ 128 +
    ((f.level * 2 ^ 9 + (if f.walk then 2 ^ 8 else 0) + accCode f.acc * 2 ^ 5) * 2 ^ 160) + f.asid * 2 ^ 192)

/-- INFO of a fault (04 R114). -/
def faultInfo (f : TFault) : Nat := f.level * 2 ^ 9 + (if f.walk then 2 ^ 8 else 0) + accCode f.acc * 2 ^ 5

/-- Purges translations of an ASID in [lo, hi), or all of them, and what the fetch buffers hold of it, so that every
later access walks afresh (04 R110, R111). DEDUCED (unsafe), log entry 14. -/
def purgeRange (s : State) (asid : Nat) (all : Bool) (lo hi : Nat) : State :=
  let keep (va sz : Nat) : Bool := !all && (va + sz ≤ lo || hi ≤ va)
  { s with
    tlb := s.tlb.filter fun t => t.asid != asid ||
      keep (t.part * partSize asid t.level / pageSize t.level * pageSize t.level) (pageSize t.level)
    tables := s.tables.filter fun t => t.asid != asid || keep (t.va / pageSize t.level * pageSize t.level) (pageSize t.level)
    frames := s.frames.filter fun t => t.ctx != asid
    fetched := s.fetched.filter fun f => f.asid != asid || keep f.va 64 }

/-- Purges every translation-cache entry for a frame: translations into it, table entries read from it, its frame-map
entries, and the code fetched from it (04 R105 steps 3-5, R106). DEDUCED (unsafe), log entry 14. -/
def purgeFrame (s : State) (mfn : Nat) : State :=
  { s with
    tlb := s.tlb.filter fun t => !(t.ma < (mfn + 1) * 0x200000 && mfn * 0x200000 < t.ma + partSize t.asid t.level)
    tables := s.tables.filter fun t => t.ma / 0x200000 != mfn
    frames := s.frames.filter fun t => t.mfn != mfn
    fetched := s.fetched.filter fun f => f.ma / 0x200000 != mfn }

end Sys2Proof.Machine
end

