-- ==== Sys2Proof/Machine/Cache.lean ====
section
/-! DEFINITION. The caches (05): L1 copies and leases, store queues, the L2s as MOESI agents, the switch directory,
lost slices, write-back buffers. Every access here is whole: a wait for a lease to expire moves the clock on. -/

namespace Sys2Proof.Machine

/-- What an access can meet besides data (04 R112, 04 R87, 07 R163): a translation fault, or memory that is not
normal, at its machine address. -/
inductive Miss where
  | fault (f : TFault)
  | special (ma : Nat) (p : Perm)
  deriving DecidableEq, Repr

/-- What is held of a partition's view (05 R120). An engine operation has a view of its own, under a number above every
core's: the spec names no partition for its writes (log entry 82). DEDUCED (unsafe), log entry 82. -/
def partView (s : State) (core ctx : Nat) : PartView :=
  (s.parts.find? fun p => p.core = core && p.ctx = ctx).getD ⟨core, ctx, 0, 0, Times.zero⟩

def setPartView (s : State) (p : PartView) : State :=
  { s with parts := p :: s.parts.filter fun q => !(q.core = p.core && q.ctx = p.ctx) }

/-- The numbers of the views of agents that are no core (06 R138): a porter operation, a relay engine, the context
engine and the distributor. R123 does not say which `vts` and `sts` their writes take, and each has its own, which
starts at 0. DEDUCED (unsafe), log entry 82. -/
def engineCore : Nat := 1000
def relayCore (engine : Nat) : Nat := 500 + engine
def deviceCore : Nat := 400
def opCore (id : Nat) : Nat := engineCore + id

/-- What a way partition has had performed, or an agent other than a split has read and written, by its view (05 R124,
06 R147, R152). DEDUCED (unsafe), log entry 82. -/
def viewTimes (s : State) (core ctx die : Nat) : Times :=
  let p := partView s core ctx
  if core < 160 then p.known.join (timesOf die p.sts) else p.known

/-! ### The L2s and the directory -/

def l2Find (s : State) (die asid va : Nat) : Option L2Line :=
  s.l2.find? fun l => l.die = die && l.asid = asid && l.va = va

/-- Drops a line of an L2 with the L1 copies that its presence vector names (05 R91, R119). -/
def l2Drop (s : State) (die asid va : Nat) : State :=
  match l2Find s die asid va with
  | none => s
  | some ln =>
    { s with
      l2 := s.l2.filter fun l => !(l.die = die && l.asid = asid && l.va = va)
      l1 := s.l1.filter fun l =>
        !(dieOfCore l.core = die && l.asid = asid && l.va = va && ln.presence.getLsbD (l.core % 40)) }

/-- Puts a line at the head of the L2s' order of use. -/
def l2Set! (s : State) (ln : L2Line) : State :=
  { s with l2 := ln :: s.l2.filter fun l => !(l.die = ln.die && l.asid = ln.asid && l.va = ln.va) }

/-- Writes a line's data to its home stack base, or through it to the second tier (05 R129, 04 R87). -/
def toDram (s : State) (ma : Nat) (d : Line) (poison : BitVec 2) (rewritten : BitVec 128) : State :=
  setLinePoison { s with mem := memSetLine s.mem ma d } ma poison rewritten

def dirFind (s : State) (asid va : Nat) : Option DirEntry := s.dir.find? fun e => e.asid = asid && e.va = va

def dirSlot (s : State) (e : DirEntry) : State :=
  { s with dir := e :: s.dir.filter fun x => !(x.asid = e.asid && x.va = e.va) }

def dirFree (s : State) (asid va : Nat) : State :=
  { s with dir := s.dir.filter fun x => !(x.asid = asid && x.va = va) }

/-- Where the last time of a line's writes is kept. -/
def writtenKey (asid va : Nat) : Nat := asid * 2 ^ 57 + va % 2 ^ 57

/-- The times at which the writes of a line were performed, at each die's L2: what one who reads the line has seen (06
R147). DEDUCED (unsafe), log entry 82. -/
def writtenAt (s : State) (asid va : Nat) : Times := tblGet Times.zero s.written (writtenKey asid va)

/-- A write of a line has been performed at a die's L2. DEDUCED (unsafe), log entry 82. -/
def noteWritten (s : State) (asid va die wts : Nat) : State :=
  { s with written := tblSet Times.zero s.written (writtenKey asid va) ((writtenAt s asid va).join (timesOf die wts)) }

/-- A slice is lost (05 R132). -/
def sliceLost (s : State) (j : Nat) : Bool := ((tblFind s.dirStatus j).map (·.lost)).getD false

/-- Lines of normal memory that the directory is for (05 R127). -/
def dirLine (s : State) (asid : Nat) : Bool := s.mode != 4 || asid = 0

/-- Lines of normal memory that the directory tracks (05 R127, R133). -/
def tracked (s : State) (asid va : Nat) : Bool := dirLine s asid && !sliceLost s (dirSlice asid va)

/-- The Paorid die holds every new request to a line of a slice that it recovers (05 R132 step 1): a miss, or a write
to a line without write permission. DEDUCED (safe), log entry 69. -/
def heldRequest (s : State) (die asid va : Nat) (write : Bool) : Bool :=
  dirLine s asid && ((tblFind s.dirStatus (dirSlice asid va)).map (·.recov)).getD false &&
    match l2Find s die asid va with
    | none => true
    | some l => write && !(l.st = .m || l.st = .e)

/-- A held request that its agent cannot put off is released with the recovery, which its wait sees out (05 R132 steps
1 and 4). DEDUCED (safe), log entry 69. -/
def seeRecovery (s : State) (die asid va : Nat) (write : Bool) : State :=
  if heldRequest s die asid va write then
    { s with dirStatus := tblUpd s.dirStatus (dirSlice asid va) fun d => { d with recov := false } }
  else s

/-- The machine address that a line of the global range lies at, for its home (04 R94): a cached line's, or a walk's. -/
def globalMa (s : State) (w : Who) (va : Long) : Nat :=
  match s.l2.find? fun l => l.asid = 0 && l.va = lineOf va.toNat with
  | some l => l.ma
  | none =>
    match (walkFrom (homeStack s w.die va.toNat) w.ctx 0 va .load 4 s.gtroot s).2 with
    | .ok (e, level) => bits e 47 12 * 4096 + va.toNat % (4096 * 512 ^ level)
    | .error _ => 2 ^ 48

/-- The die whose L2 serves a requester: the home die for a line of a lost slice (05 R133). -/
def serveDie (s : State) (w : Who) (va : Long) : Nat :=
  let asid := asidOf w.ctx va
  let lva := lineOf va.toNat
  if dirLine s asid && sliceLost s (dirSlice asid lva) then
    if asid = 0 && s.mode != 1 then homeDie s w.die asid lva (globalMa s w va) else homeStack s w.die lva / 4
  else w.die

/-- The home die of a line that an L2 holds (05 R127). DEDUCED (unsafe), log entry 81. -/
def lineHome (s : State) (l : L2Line) : Nat := homeDie s l.die l.asid l.va l.ma

/-- The write-back buffers' entry of a line (05 R130). -/
def wbFind (s : State) (asid va : Nat) : Option WbEntry := s.wb.find? fun e => e.asid = asid && e.va = va

def wbDel (s : State) (e : WbEntry) : State :=
  { s with wb := s.wb.filter fun x => !(x.die = e.die && x.asid = e.asid && x.va = e.va) }

/-- A pending write-back reaches its slice (05 R129, R130). From the line's owner, the home stack base takes the data
and the entry is kept as shared if sharers remain, else freed; one that another die's request has overtaken is
discarded. -/
def wbComplete (s : State) (e : WbEntry) : State :=
  let s1 := wbDel s e
  if !tracked s e.asid e.va then toDram s1 e.ma e.data e.poison e.rewritten
  else
    match dirFind s1 e.asid e.va with
    | some d =>
      if (d.owner.map (·.1)) != some e.die then s1
      else
        let s2 := toDram s1 e.ma e.data e.poison e.rewritten
        if d.sharers = 0 then dirFree s2 e.asid e.va else dirSlot s2 { d with owner := none }
    | none => s1

/-- Completes the write-backs of a line that are under way. -/
def wbDrain (s : State) (asid va : Nat) : State :=
  (s.wb.filter fun e => e.asid = asid && e.va = va).foldl wbComplete s

/-- An L2 evicts a line (05 R120, R130): the slice's `mts` rises, the L1 copies go, a dirty line goes to the
write-back buffer, whose oldest entry leaves first when all 64 are in use. -/
def l2Evict (s : State) (ln : L2Line) : State :=
  let k := ln.die * 16 + l2Slice ln.va
  let s1 : State := { l2Drop s ln.die ln.asid ln.va with
    sliceMts := tblSet 0 s.sliceMts k (Nat.max (tblGet 0 s.sliceMts k) ln.rts) }
  if ln.st = .m || ln.st = .o then
    let s2 :=
      if (s1.wb.filter fun e => e.die = ln.die).length < 64 then s1
      else
        match s1.wb.find? fun e => e.die = ln.die with
        | some e => wbComplete s1 e
        | none => s1
    { s2 with wb := s2.wb ++ [⟨ln.die, ln.asid, ln.va, ln.ma, ln.data, ln.perm, ln.poison, ln.rewritten⟩] }
  else s1

/-- The ways of an L2 set that die scratchpad has taken (05 R126): granule g takes way g / 64 in 32 consecutive sets of
every slice. -/
def carvedWays (s : State) (die set : Nat) : List Nat :=
  s.slices.foldl (fun l d => if d.die = die then l ++ (d.granules.filter fun g => g % 64 = set / 32).map (· / 64) else l) []

/-- Fills a line into an L2, into a free way of its set, or into that of the least recently used line, which is evicted.
DEDUCED (unsafe), log entry 34. -/
def l2Fill (s : State) (ln : L2Line) : State :=
  let same := s.l2.filter fun l => l.die = ln.die && l2Slice l.va = l2Slice ln.va && l2Set l.va = l2Set ln.va
  match same.find? fun l => l.asid = ln.asid && l.va = ln.va with
  | some l => l2Set! s { ln with way := l.way }
  | none =>
    let carved := carvedWays s ln.die (l2Set ln.va)
    match (List.range 16).find? fun w => !carved.contains w && !same.any fun l => l.way = w with
    | some w => l2Set! s { ln with way := w }
    | none =>
      match same.getLast? with
      | some v => l2Set! (l2Evict s v) { ln with way := v.way }
      | none => s

/-- A line as its L2 holds it now. -/
def nowHeld (s : State) (ln : L2Line) : L2Line := (l2Find s ln.die ln.asid ln.va).getD ln

/-- A new line in a die's L2: `wts` and `rts` take the slice's `mts` (05 R120), as it stands before the fill evicts a
line of its own. DESIGN CHOICE (unsafe), log entry 89. -/
def newLine (s : State) (die asid va ma : Nat) (data : Line) (p : Perm) (st : Moesi) (poison : BitVec 2)
    (rewritten : BitVec 128) : L2Line :=
  let t := tblGet 0 s.sliceMts (die * 16 + l2Slice va)
  ⟨die, asid, va, ma, data, p, st, t, t, 0, 0, 0, poison, rewritten, 0⟩

/-- A die writes back a line it holds dirty and drops it (05 R129, R131, R132). -/
def l2Flush (s : State) (ln : L2Line) : State :=
  let s1 := if ln.st = .m || ln.st = .o then toDram s ln.ma ln.data ln.poison ln.rewritten else s
  l2Drop s1 ln.die ln.asid ln.va

/-- Makes room for an entry in a directory set (05 R131): the least recently used entry of a full set is recalled, by
one message to each sharer and to the owner. DEDUCED (unsafe), log entry 34. -/
def dirRoom (s : State) (asid va : Nat) : State :=
  let same := s.dir.filter fun e => dirSlice e.asid e.va = dirSlice asid va && dirSet e.va = dirSet va
  if same.length < 16 then s
  else
    match same.getLast? with
    | none => s
    | some e =>
      let s1 := (s.l2.filter fun l => l.asid = e.asid && l.va = e.va).foldl l2Flush (wbDrain s e.asid e.va)
      let j := dirSlice asid va
      let told := ((List.range 4).filter fun d => e.sharers.getLsbD d || (e.owner.map (·.1)) == some d).length
      dirFree (count (count s1 13 j 1) 14 j told) e.asid e.va

/-- The bit of a die in a sharer vector. -/
def dieBit (die : Nat) : BitVec 4 := BitVec.ofNat 4 (1 <<< die)

/-- Every sharer but one is invalidated (05 R129). -/
def dropSharers (s : State) (asid va except_ : Nat) (v : BitVec 4) : State :=
  (List.range 4).foldl (fun s d => if d != except_ && v.getLsbD d then count (l2Drop s d asid va) 12 (dirSlice asid va) 1 else s) s

/-- Translates and reads a line at its home stack base (05 R129). -/
def homeRead (s : State) (w : Who) (va : Long) (acc : Acc) : Except Miss (State × Xlat × Line × BitVec 2) :=
  match translate s w va acc with
  | .error f => .error (.fault f)
  | .ok (s1, x) =>
    if x.perm.mt = .normal then
      let ma := lineOf x.ma
      .ok (s1, x, memLine s1.mem ma, linePoison s1 ma)
    else .error (.special x.ma x.perm)

/-- A die takes a line back from its own write-back buffer (05 R130): it is held as before its eviction. -/
def wbTake (s : State) (e : WbEntry) : State × L2Line :=
  let shared := ((dirFind s e.asid e.va).map fun d => d.sharers != 0).getD false
  let ln := newLine s e.die e.asid e.va e.ma e.data e.perm (if shared then .o else .m) e.poison e.rewritten
  let s1 := l2Fill (wbDel s e) ln
  (s1, nowHeld s1 ln)

/-- What a die's L2 finds of a line: its own, or one in its own write-back buffer. The access is counted (05 R135), as
is one that the home die serves for another (05 R133). -/
def l2Look (s : State) (w : Who) (die asid lva : Nat) : State × Option L2Line :=
  let k := die * 16 + l2Slice lva
  let s := if die != w.die then count s 17 die 1 else s
  match l2Find s die asid lva with
  | some ln => (count (l2Set! s ln) 7 k 1, some ln)
  | none =>
    match s.wb.find? fun e => e.die = die && e.asid = asid && e.va = lva with
    | some e =>
      let (s1, ln) := wbTake s e
      (count s1 7 k 1, some ln)
    | none => (count s 8 k 1, none)

/-- A die's L2 obtains a line for reading (05 R129 Read). A forward that finds the owner's line in its write-back
buffer is served from there: the data goes home as it is sent, and the slice discards the write-back (05 R130). An
owner in E that has evicted the line in silence, which R129 does not resolve, leaves the read to the home stack base
and the requester as a sharer. DEDUCED (unsafe), log entry 30; DEDUCED (unsafe), log entry 83. -/
def l2Read (s : State) (w : Who) (va : Long) (acc : Acc) : Except Miss (State × L2Line) :=
  let asid := asidOf w.ctx va
  let lva := lineOf va.toNat
  let die := serveDie s w va
  match addressFault s w va acc with
  | some f => .error (.fault f)
  | none =>
  match l2Look (seeRecovery s die asid lva false) w die asid lva with
  | (s, some ln) => .ok (s, ln)
  | (s, none) =>
    let fresh (st : Moesi) (k : State → State) : Except Miss (State × L2Line) :=
      match homeRead s { w with die := die } va acc with
      | .error m => .error m
      | .ok (s1, x, d, p) =>
        let ln := newLine s1 die asid lva (lineOf x.ma) d x.perm st p (lineOver s1 (lineOf x.ma))
        let s2 := k (l2Fill s1 ln)
        .ok (s2, nowHeld s2 ln)
    if !tracked s asid lva then fresh .e id
    else
      match dirFind s asid lva with
      | none => fresh .e fun s => dirSlot (dirRoom s asid lva) ⟨asid, lva, some (die, .e), 0⟩
      | some e =>
        match e.owner with
        | none => fresh .s fun s => dirSlot s { e with sharers := e.sharers ||| dieBit die }
        | some (o, _) =>
          match l2Find s o asid lva with
          | some own =>
            let keep := own.st = .m || own.st = .o
            let s1 := l2Set! s { own with st := if keep then .o else .s }
            let ln := newLine s1 die asid lva own.ma own.data own.perm .s own.poison own.rewritten
            let e1 : DirEntry :=
              { e with
                owner := if keep then some (o, .o) else none
                sharers := e.sharers ||| dieBit die ||| (if keep then 0 else dieBit o) }
            let s2 := count (dirSlot (l2Fill s1 ln) e1) 11 (dirSlice asid lva) 1
            .ok (s2, nowHeld s2 ln)
          | none =>
            match wbFind s asid lva with
            | some b =>
              let ln := newLine s die asid lva b.ma b.data b.perm .s b.poison b.rewritten
              let home := toDram (wbDel s b) b.ma b.data b.poison b.rewritten
              let e1 : DirEntry := { e with owner := none, sharers := e.sharers ||| dieBit die }
              let s1 := count (dirSlot (l2Fill home ln) e1) 11 (dirSlice asid lva) 1
              .ok (s1, nowHeld s1 ln)
            | none => fresh .s fun s => dirSlot s { e with owner := none, sharers := e.sharers ||| dieBit die }

/-- A die's L2 obtains a line with write permission, in E or M (05 R127, R129 Write): every sharer is invalidated, and
an owner sends its data and is invalidated, from its write-back buffer if it is evicting the line: its write-back is
then discarded (05 R130). DEDUCED (unsafe), log entry 30; DEDUCED (unsafe), log entry 83. -/
def l2Own (s : State) (w : Who) (va : Long) (acc : Acc) : Except Miss (State × L2Line) :=
  let asid := asidOf w.ctx va
  let lva := lineOf va.toNat
  let die := serveDie s w va
  match addressFault s w va acc with
  | some f => .error (.fault f)
  | none =>
  let take (s : State) (ln : L2Line) : State × L2Line :=
    let e := (dirFind s asid lva).getD ⟨asid, lva, none, 0⟩
    let s1 := dropSharers s asid lva die e.sharers
    let s2 := (s1.l2.filter fun l => l.die != die && l.asid = asid && l.va = lva).foldl
      (fun s l => count (l2Drop s l.die asid lva) 12 (dirSlice asid lva) 1) s1
    let s2 := { s2 with wb := s2.wb.filter fun b => !(b.asid = asid && b.va = lva) }
    let s3 := if (dirFind s2 asid lva).isSome || !tracked s2 asid lva then s2 else dirRoom s2 asid lva
    let ln := { ln with st := .m }
    let s4 := l2Fill (if tracked s3 asid lva then dirSlot s3 ⟨asid, lva, some (die, .m), 0⟩ else s3) ln
    (s4, nowHeld s4 ln)
  match l2Look (seeRecovery s die asid lva true) w die asid lva with
  | (s, some ln) =>
    if ln.st = .m || ln.st = .e || !tracked s asid lva then .ok (s, ln)
    else .ok (take s ln)
  | (s, none) =>
    let sent (ma : Nat) (d : Line) (p : Perm) (poison : BitVec 2) (rewritten : BitVec 128) (s1 : State) :
        Except Miss (State × L2Line) :=
      .ok (take (count s1 11 (dirSlice asid lva) 1) (newLine s die asid lva ma d p .m poison rewritten))
    let owner := if tracked s asid lva then
        s.l2.find? fun l => l.die != die && l.asid = asid && l.va = lva && (l.st = .m || l.st = .o || l.st = .e)
      else none
    match owner with
    | some own => sent own.ma own.data own.perm own.poison own.rewritten s
    | none =>
      match (if tracked s asid lva then wbFind s asid lva else none) with
      | some b => sent b.ma b.data b.perm b.poison b.rewritten (wbDel s b)
      | none =>
        match homeRead s { w with die := die } va acc with
        | .error m => .error m
        | .ok (s1, x, d, p) =>
          .ok (take s1 (newLine s1 die asid lva (lineOf x.ma) d x.perm .m p (lineOver s1 (lineOf x.ma))))

/-- A permission failure at a line that is held (04 R99): the walk gives the rest of the record, or a fault of its
own. -/
def heldFault (s : State) (w : Who) (va : Long) (acc : Acc) : TFault := leafFault s w 0x02 va acc

/-- The timestamps of a write performed at the L2 (05 R123), and the wait for an acquire-held line. `rel`: the write
is a release at `.die` or wider. A write that passes a lease end later than the old value is counted (05 R135).
DEDUCED (unsafe), log entry 35; DEDUCED (unsafe), log entry 74. -/
def stampWrite (s : State) (ln : L2Line) (p : PartView) (rel : Bool) : State × L2Line :=
  let k := ln.die * 16 + l2Slice ln.va
  let (s1, w1) :=
    if s.clock < ln.aq then
      (count (count { s with clock := Nat.max s.clock ln.pexp } 3 k 1) 4 k (ln.pexp - s.clock),
        Nat.max (ln.wts + 1) p.vts)
    else (s, Nat.max (Nat.max (ln.wts + 1) (ln.rts + 1)) p.vts)
  let w2 := if rel then Nat.max w1 p.sts else w1
  let s2 := if ln.wts < ln.rts && ln.rts < w2 then count s1 5 k 1 else s1
  (setPartView s2 { p with sts := Nat.max p.sts w2 }, { ln with wts := w2, rts := w2 })

/-- Writes bytes into a core's own L1 copy of a line, so that the core reads what it has written, or read at the L2
(05 R118, 06 R143). -/
def l1Patch (s : State) (core ctx asid lva off wts : Nat) (bs : List Byte) : State :=
  { s with l1 := s.l1.map fun l =>
      if l.core = core && l.ctx = ctx && l.asid = asid && l.va = lva then
        { l with data := lineSet l.data off bs, wts := Nat.max l.wts wts }
      else l }

/-- A write performed on a line held with write permission (05 R123): the bytes, the timestamps, the line in M, and the
writer's view. -/
def l2Put (s : State) (w : Who) (ln : L2Line) (va : Long) (bs : List Byte) (rel : Bool) : State :=
  let core := w.core.getD deviceCore
  let (s1, ln1) := stampWrite s ln (partView s core w.ctx) rel
  let off := va.toNat % 128
  let x := overwrite ln1.poison ln1.rewritten off bs.length
  let ln2 := { ln1 with st := .m, data := lineSet ln1.data off bs, poison := x.1, rewritten := x.2 }
  let p := partView s1 core w.ctx
  let s2 := if ln.die = w.die && core < 160 then s1 else setPartView s1 { p with known := p.known.join (timesOf ln.die ln1.wts) }
  l1Patch (noteWritten (l2Set! s2 ln2) ln.asid ln.va ln.die ln1.wts) core w.ctx (asidOf w.ctx va) (lineOf va.toNat) off ln1.wts bs

/-- A write performed at the L2, which obtains write permission first (05 R123). -/
def l2Write (s : State) (w : Who) (va : Long) (bs : List Byte) (acc : Acc) (rel : Bool) : Except Miss State :=
  match l2Own s w va acc with
  | .error m => .error m
  | .ok (s1, ln) =>
    if permOk ln.perm acc w.handler then .ok (l2Put s1 w ln va bs rel) else .error (.fault (heldFault s1 w va acc))

/-- The queued stores of a core to a line, laid over its data in program order (05 R118, 06 R143). -/
def overlay (s : State) (core ctx asid lva : Nat) (d : Line) : Line :=
  s.sq.foldl (fun d e =>
    if e.core = core && e.ctx = ctx && e.asid = asid && e.va = lva then
      e.parts.foldl (fun d p => lineSet d (p.va.toNat % 128) p.bytes) d
    else d) d

/-- Bytes of a line read at the L2, past the L1s, which the reader's later release carries (06 R147). A core's own copy
shows what it has read (06 R143). -/
def l2ReadBytes (s : State) (w : Who) (va : Long) (n : Nat) (acc : Acc) : Except Miss (State × List Byte × Bool) :=
  match l2Read s w va acc with
  | .error m => .error m
  | .ok (s1, ln) =>
    if !permOk ln.perm acc w.handler then .error (.fault (heldFault s1 w va acc))
    else
      let core := w.core.getD deviceCore
      let off := va.toNat % 128
      let p := partView s1 core w.ctx
      let s2 := setPartView s1 { p with known := (p.known.join (timesOf ln.die ln.wts)).join (writtenAt s1 ln.asid ln.va) }
      let own := overlay s2 core w.ctx ln.asid ln.va ln.data
      let s3 := l1Patch s2 core w.ctx ln.asid ln.va off ln.wts (lineBytes own off n)
      .ok (s3, lineBytes ln.data off n, touchesPoison ln.poison off n)

/-! ### The L1s -/

/-- The ways of a core's L1 that a context holds (05 R117): four for each quadrant. -/
def l1Ways (s : State) (core ctx : Nat) : List Nat :=
  (List.range 16).filter fun w => quadHolder s (4 * core + w / 4) = ctx

def l1Find (s : State) (core ctx asid lva : Nat) : Option L1Line :=
  s.l1.find? fun l => l.core = core && l.ctx = ctx && l.asid = asid && l.va = lva

/-- A copy is valid (05 R122). DEDUCED (unsafe), log entry 35. -/
def l1Valid (s : State) (l : L1Line) : Bool :=
  (partView s l.core l.ctx).vts ≤ l.le && s.clock < l.grant + l.cap

/-- Fills a copy into the requesting context's ways (05 R117): a free one, or that of the least recently used copy of
the set. A context without a way keeps no copy. DEDUCED (unsafe), log entry 34. -/
def l1Fill (s : State) (ln : L1Line) : State :=
  let rest := s.l1.filter fun l => !(l.core = ln.core && l.ctx = ln.ctx && l.asid = ln.asid && l.va = ln.va)
  let same := rest.filter fun l => l.core = ln.core && bits l.va 13 7 = bits ln.va 13 7
  let ways := l1Ways s ln.core ln.ctx
  match ways.find? fun w => !same.any fun l => l.way = w with
  | some w => { s with l1 := { ln with way := w } :: rest }
  | none =>
    match (same.filter fun l => ways.contains l.way).getLast? with
    | none => { s with l1 := rest }
    | some v =>
      { s with l1 := { ln with way := v.way } :: rest.filter fun l => !(l.core = v.core && l.way = v.way && l.ctx = v.ctx && l.asid = v.asid && l.va = v.va) }

/-- The L2 grants a lease to a core's L1 (05 R121, R119); `acq`: for an acquire load.
DEDUCED (unsafe), log entry 30; DEDUCED (unsafe), log entry 35. -/
def l1Grant (s : State) (w : Who) (core : Nat) (ln : L2Line) (acq : Bool) : State × L1Line :=
  let p := partView s core w.ctx
  let le := Nat.max ln.rts (Nat.max ln.wts p.vts + 16)
  let cap := if acq || s.clock < ln.aq then 256 else 4096
  let ln2 := { ln with
    rts := le, pexp := Nat.max ln.pexp (s.clock + cap)
    aq := if acq then s.clock + cap else ln.aq
    presence := ln.presence ||| BitVec.ofNat 40 (1 <<< (core % 40)) }
  let c : L1Line :=
    ⟨core, w.ctx, ln.asid, ln.va, overlay s core w.ctx ln.asid ln.va ln.data, ln.perm, ln.wts, le, s.clock, cap, ln.poison, 0⟩
  (l1Fill (l2Set! s ln2) c, c)

/-- What a core's load finds: the line as the core sees it, with its permissions and poison, and the die and logical
time of its value. -/
structure Seen where
  data : Line
  perm : Perm
  poison : BitVec 2
  die : Nat
  wts : Nat
  deriving DecidableEq, Repr

/-- The view of a partition advances (05 R124); the valid copies that this makes invalid are counted (05 R135).
DEDUCED (unsafe), log entry 74. -/
def raiseVts (s : State) (core ctx n : Nat) : State :=
  let p := partView s core ctx
  if n ≤ p.vts then s
  else
    let gone := s.l1.filter fun l => l.core = core && l.ctx = ctx && p.vts ≤ l.le && l.le < n && s.clock < l.grant + l.cap
    count (setPartView s { p with vts := n }) 6 core gone.length

/-- A core reads a line (05 R122, R124). `atL2`: performed at the L2, as an acquire of wide scope is, which then
advances the partition's view past the line, read at its home die's L2 or at its own (05 R133). `acq`: the read is an
acquire load. A line of a lost slice homed elsewhere is cached in no L1 (05 R133), and the core's queued stores are laid
over it. `load`: the access is a load, which is counted (05 R135). -/
def coreRead (s : State) (w : Who) (core : Nat) (va : Long) (acc : Acc) (atL2 acq load : Bool) : Except Miss (State × Seen) :=
  let asid := asidOf w.ctx va
  let lva := lineOf va.toNat
  match addressFault s w va acc with
  | some f => .error (.fault f)
  | none =>
    let hit := (l1Find s core w.ctx asid lva).filter fun l => !atL2 && l1Valid s l
    match hit with
    | some l =>
      if permOk l.perm acc w.handler then
        let s1 := { s with l1 := l :: s.l1.filter fun x => !(x.core = core && x.ctx = w.ctx && x.asid = asid && x.va = lva) }
        .ok (if load then count s1 0 core 1 else s1, ⟨l.data, l.perm, l.poison, w.die, l.wts⟩)
      else .error (.fault (heldFault s w va acc))
    | none =>
      match l2Read (if load then count s 1 core 1 else s) w va acc with
      | .error m => .error m
      | .ok (s1, ln) =>
        if !permOk ln.perm acc w.handler then .error (.fault (heldFault s1 w va acc))
        else
          let far := ln.die != w.die
          let (s2, d) := if far then (s1, overlay s1 core w.ctx asid lva ln.data)
            else ((l1Grant s1 w core ln acq).1, (l1Grant s1 w core ln acq).2.data)
          let s3 := if atL2 then raiseVts s2 core w.ctx ln.wts else s2
          .ok (s3, ⟨d, ln.perm, ln.poison, ln.die, ln.wts⟩)

/-! ### Invalidation and write-back over the package -/

/-- Writes back and drops every copy of the lines that hold, with their directory entries (05 R119, 04 R105, R110). An
entry whose line is in no L2 any more goes with the lines that `gone` names. -/
def flushLines (s : State) (p : Nat → Nat → Nat → Bool) (gone : Nat → Nat → Bool) : State :=
  let s1 := (s.wb.filter fun e => p e.asid e.va e.ma).foldl wbComplete s
  let s2 := (s1.l2.filter fun l => p l.asid l.va l.ma).foldl l2Flush s1
  { s2 with
    dir := s2.dir.filter fun d => !gone d.asid d.va &&
      !(s1.l2.any fun l => l.asid = d.asid && l.va = d.va && p l.asid l.va l.ma) &&
      !(s1.wb.any fun l => l.asid = d.asid && l.va = d.va && p l.asid l.va l.ma) }

/-- CWB at the L2s (07 R180): a dirty copy's data goes to its home, M becomes E and O becomes S. -/
def cleanLine (s : State) (asid lva : Nat) : State :=
  let s0 := wbDrain s asid lva
  (s0.l2.filter fun l => l.asid = asid && l.va = lva && (l.st = .m || l.st = .o)).foldl
    (fun s l =>
      let s1 := { toDram s l.ma l.data l.poison l.rewritten with
        l2 := s.l2.map fun x => if x.die = l.die && x.asid = asid && x.va = lva then
          { x with st := if x.st = .m then .e else .s } else x }
      match dirFind s1 asid lva with
      | some d => dirSlot s1 (if l.st = .m then { d with owner := some (l.die, .e) }
          else { d with owner := none, sharers := d.sharers ||| dieBit l.die })
      | none => s1) s0

/-- Drops the L1 copies of a line on the cores that hold, and their presence bits (05 R119). -/
def l1DropWhere (s : State) (asid lva : Nat) (p : Nat → Bool) : State :=
  let kept (l : L2Line) : BitVec 40 :=
    (List.range 40).foldl (fun v i => if l.presence.getLsbD i && !p (40 * l.die + i) then v ||| BitVec.ofNat 40 (1 <<< i) else v) 0
  { s with
    l1 := s.l1.filter fun l => !(l.asid = asid && l.va = lva && p l.core)
    l2 := s.l2.map fun l => if l.asid = asid && l.va = lva then { l with presence := kept l } else l }

end Sys2Proof.Machine
end

