-- ==== Sys2Proof/Machine/Groups.lean ====
section
/-! DEFINITION. A group's registers (09 R209-R215), and its paths, splits and families: divergence, parking, merges and
the return from a trap (15 R351-R356, 17 R392, R393). -/

namespace Sys2Proof.Machine

/-! ### Lanes -/

def laneBit (l : Nat) : Lanes := BitVec.ofNat 32 (2 ^ l)

/-- The lanes of a mask, ascending. -/
def laneList (m : Lanes) : List Nat := (List.range 32).filter fun l => m.getLsbD l

/-- DEDUCED (unsafe), log entry 21. -/
def firstLane (m : Lanes) : Nat := ((laneList m).head?).getD 32

/-- The mask of the lanes that hold. -/
def laneMask (p : Nat → Bool) : Lanes := (List.range 32).foldl (fun m l => if p l then m ||| laneBit l else m) 0

def allLanes : Lanes := 0xFFFFFFFF

/-! ### Registers -/

def vGet (g : Group) (r l : Nat) : Word := tblGet 0 g.v (32 * r + l)
def vSet (g : Group) (r l : Nat) (x : Word) : Group := { g with v := tblSet 0 g.v (32 * r + l) x }
def vGet64 (g : Group) (r l : Nat) : Long := vGet g (r + 1) l ++ vGet g r l
def vSet64 (g : Group) (r l : Nat) (x : Long) : Group :=
  vSet (vSet g r l (x.extractLsb' 0 32)) (r + 1) l (x.extractLsb' 32 32)
def sGet (g : Group) (r : Nat) : Long := tblGet 0 g.s r
def sSet (g : Group) (r : Nat) (x : Long) : Group := { g with s := tblSet 0 g.s r x }

/-- The lanes in which a predicate register is true; p7 reads true (09 R209). -/
def pGet (g : Group) (p : Nat) : Lanes := if p = 7 then allLanes else tblGet 0 g.preds p

/-- Writes a predicate in the lanes of a mask (09 R210); p7 is never written. DEDUCED (unsafe), log entry 21. -/
def pSet (g : Group) (p : Nat) (m x : Lanes) : Group :=
  if p = 7 then g else { g with preds := tblSet 0 g.preds p ((tblGet 0 g.preds p &&& ~~~m) ||| (x &&& m)) }

/-- The lanes for which a predicate field is true. -/
def predLanes (g : Group) (p : Pred) : Lanes := if p.neg then ~~~(pGet g p.idx.toNat) else pGet g p.idx.toNat

/-- The number of a lane or scalar register in the group's list of empty registers. -/
def regKey (f : RegFile) (r : Nat) : Nat := if f = .lane then r else 256 + r

def isEmpty (g : Group) (k : Nat) : Bool := tblGet false g.empty k

/-- Marks registers empty or full (09 R213). -/
def setEmpty (g : Group) (ks : List Nat) (b : Bool) : Group :=
  { g with empty := ks.foldl (fun t k => tblSet false t k b) g.empty }

/-- The registers a field names. -/
def useKeys (u : Use) : List Nat :=
  match u.file with
  | .lane | .scalar => (List.range u.span).map fun i => regKey u.file (u.reg + i)
  | _ => []

/-- The group holds a lane register: its base block or a held chunk (09 R211, R212). -/
def holdsReg (g : Group) (r : Nat) : Bool := r < g.regbase || (64 ≤ r && g.chunks.getLsbD ((r - 64) / 32))

/-! ### Paths and splits -/

def curPath (g : Group) (sp : Nat) : Option Path := g.paths.find? fun p => p.split = sp && p.status = .current

/-- Changes the path that holds the given lanes. -/
def updPath (g : Group) (lanes : Lanes) (f : Path → Path) : Group :=
  { g with paths := g.paths.map fun p => if p.lanes = lanes then f p else p }

/-- The PC after a slot, in a line whose last executable slot is `tail` (02 R28, R33). -/
def nextPc (pc : Long) (tail : Nat) : Long :=
  if pc.toNat % 8 < tail then pc + 1 else BitVec.ofNat 64 (pc.toNat / 64 * 64 + 64)

/-- A malformed PC (02 R28). DEDUCED (unsafe), log entry 13. -/
def badPc (pc : Long) : Bool := bits pc.toNat 5 3 != 0 || 4 < pc.toNat % 8

/-- Lanes gathered by destination, in the order of each destination's lowest lane (15 R352). -/
def gatherDests (d : Nat → Long) : List Nat → List (Long × Lanes)
  | [] => []
  | l :: r =>
    let rest := gatherDests d r
    match rest.find? fun e => e.1 = d l with
    | some e => (d l, e.2 ||| laneBit l) :: rest.filter fun e => e.1 != d l
    | none => (d l, laneBit l) :: rest

def freeSplit (g : Group) : Option Nat := (List.range 4).find? fun n => !(g.splits.any fun s => s.num = n)

/-- The oldest split among those that hold (15 R351). -/
def oldestSplit (g : Group) (p : Split → Bool) : Option Split :=
  g.splits.foldl (fun b s =>
    if p s && (b.all fun x => s.age < x.age) then some s else b) none

/-- A new split takes the lowest free number. -/
def newSplit (g : Group) (n : Nat) : Group :=
  { g with splits := g.splits ++ [⟨n, g.splitAge, false, false, 0⟩], splitAge := g.splitAge + 1 }

/-- Gives the further paths of a divergence their splits, or queues them at the tail of the oldest split's list
(15 R352 steps 5, 6). -/
def placePaths (g : Group) : List Path → Group
  | [] => g
  | p :: r =>
    let g1 :=
      match freeSplit g with
      | some n => { newSplit g n with paths := g.paths ++ [{ p with split := n, status := .current }] }
      | none =>
        let o := ((oldestSplit g fun _ => true).map (·.num)).getD 0
        { g with paths := g.paths ++ [{ p with split := o, status := .queued }] }
    placePaths g1 r

/-- A path's lanes go to their destinations (15 R352, R359): one PC, or a divergence with its family. -/
def transfer (g : Group) (p : Path) (d : Nat → Long) : Group :=
  let next := nextPc p.pc p.tail
  let arrive (pc : Long) (m : Lanes) : Path :=
    { p with lanes := m, pc := pc, enter := true, checked := pc != next, replay := none, await := none }
  match gatherDests d (laneList p.lanes) with
  | [] => g
  | [(pc, m)] => updPath g p.lanes fun _ => arrive pc m
  | (pc, m) :: rest =>
    let g1 := updPath g p.lanes fun _ => arrive pc m
    placePaths { g1 with families := g1.families ++ [⟨p.lanes, p.fmt⟩] } (rest.map fun e => arrive e.1 e.2)

/-- Parks the current path that holds the lanes. -/
def park (g : Group) (lanes : Lanes) (pc : Long) (st : PathStatus) : Group :=
  updPath g lanes fun p => { p with pc := pc, status := st, replay := none, await := none }

/-! ### Settling: what follows from a change of the paths (15 R353-R356) -/

/-- A split that owns no path is freed; a split without a current path takes the first queued path of its list. -/
def takeQueued (g : Group) : Group :=
  let g1 := { g with splits := g.splits.filter fun s => g.paths.any fun p => p.split = s.num }
  g1.splits.foldl (fun g s =>
    if (curPath g s.num).isSome then g
    else
      match g.paths.find? fun p => p.split = s.num && p.status = .queued with
      | some p => updPath g p.lanes fun p => { p with status := .current }
      | none => g) g1

/-- Where a path is parked, by JOIN or at a marked target. -/
def parkedAt (p : Path) : Option Long :=
  match p.status with
  | .join t | .marked t => some t
  | .current | .queued | .wsync | .rte _ => none

/-- The PC at which every live lane of a family is parked (15 R354). -/
def completeAt (g : Group) (f : Family) : Option Long :=
  let ps := g.paths.filter fun p => p.lanes &&& f.lanes &&& g.live != 0
  match ps.head? with
  | none => none
  | some p =>
    match parkedAt p with
    | none => none
    | some t => if ps.all fun q => parkedAt q = some t then some t else none

/-- Paths become one (15 R354, R355): it goes to the lowest-numbered split that owned one of them, current if that
split has no current path, else first in its list. DEDUCED (unsafe), log entry 38. -/
def mergePaths (g : Group) (lanes : Lanes) (pc : Long) (fmt : Word) (checked : Bool) : Group :=
  let gone := g.paths.filter fun p => p.lanes &&& lanes != 0
  let kept := g.paths.filter fun p => p.lanes &&& lanes == 0
  let sp := gone.foldl (fun m p => Nat.min m p.split) 4
  let busy := kept.any fun p => p.split = sp && p.status = .current
  let p : Path := ⟨sp, lanes, pc, fmt, [], if busy then .queued else .current, none, true, checked, 0, none, 0,
    gone.any (·.full), none⟩
  { g with paths := p :: kept }

/-- The outermost complete family merges, with the families it encloses (15 R354). DEDUCED (unsafe), log entry 38. -/
def mergeFamily (g : Group) : Option Group :=
  let fs := g.families.filter fun f => f.lanes &&& g.live != 0
  match fs.find? fun f => (completeAt g f).isSome with
  | none => none
  | some f =>
    let t := (completeAt g f).getD 0
    let m := f.lanes &&& g.live
    some { mergePaths g m t f.fmt true with families := fs.filter fun h => h.lanes &&& g.live &&& ~~~m != 0 }

/-- Every live lane is parked by WSYNC (15 R355). DEDUCED (unsafe), log entry 38. -/
def mergeWsync (g : Group) : Option Group :=
  if g.paths != [] && g.paths.all fun p => p.status = .wsync then
    match g.paths.find? fun p => p.lanes.getLsbD (firstLane g.live) with
    | none => none
    | some p =>
      let fmt := ((g.families.head?).map (·.fmt)).getD p.fmt
      some { mergePaths g g.live p.pc fmt false with families := [] }
  else none

/-- The return from the handler (17 R393). Lanes that exited in the handler have left their paths. What a full fence
of the handler asks of later loads it asks of the paths that go on (06 R148). A return to the PC that the trap
recorded is not checked against TMASK, and one to another PC is (02 R31); RTE.skip goes on in sequence, as R28 does,
and is not. DEDUCED (unsafe), log entry 46. -/
def rteRestore (g : Group) (f : Frame) (a : RteArg) : Group :=
  let keep (p : Path) : Path := { p with lanes := p.lanes &&& g.live, full := p.full || g.paths.any (·.full) }
  let resume (p : Path) : Path :=
    if p.lanes = f.lanes then
      match a with
      | .plain =>
        { p with pc := f.pc, checked := false, enter := p.enter || f.cls = 0x11 || f.cls = 0x12
                 replay := if f.cls = 0x11 || f.cls = 0x12 || f.cls = 0x13 then none else some g.fltmask }
      | .to pc => { p with pc := pc, checked := pc != f.pc, enter := true, replay := none }
      | .skip =>
        let pc := if f.cls = 0x11 || f.cls = 0x12 then f.pc else nextPc f.pc p.tail
        { p with pc := pc, checked := false, enter := true, replay := none }
    else p
  let g1 := { g with
    paths := (f.paths.map fun p => keep (resume p)).filter fun p => p.lanes != 0
    splits := f.splits, families := f.families, preds := f.preds, handler := false, frame := none }
  if a = .skip then setEmpty g1 f.dsts false else g1

/-- Every live lane is parked at an RTE: the path with the lowest live lane, and its form (17 R393).
DEDUCED (unsafe), log entry 46. -/
def rteForm (g : Group) : Option (Path × RteArg) :=
  if g.paths != [] && g.paths.all fun p => match p.status with | .rte _ => true | _ => false then
    match g.paths.find? fun p => p.lanes.getLsbD (firstLane g.live) with
    | none => none
    | some p =>
      match p.status with
      | .rte a => some (p, a)
      | .current | .queued | .join _ | .marked _ | .wsync => none
  else none

/-- A form that transfers to a malformed PC does not return: it traps at its RTE (02 R28).
DEDUCED (unsafe), log entry 46. -/
def rteBad : RteArg → Bool
  | .to pc => badPc pc
  | .plain | .skip => false

/-- The form of the path with the lowest live lane applies (17 R393). -/
def mergeRte (g : Group) : Option Group :=
  match g.frame, rteForm g with
  | some f, some (_, a) => if rteBad a then none else some (rteRestore g f a)
  | _, _ => none

/-- A free split number takes the first queued path of the oldest split that holds one (15 R353). -/
def fillFree (g : Group) : Option Group :=
  match freeSplit g with
  | none => none
  | some n =>
    match oldestSplit g fun s => g.paths.any fun p => p.split = s.num && p.status = .queued with
    | none => none
    | some s =>
      match g.paths.find? fun p => p.split = s.num && p.status = .queued with
      | none => none
      | some p => some (updPath (newSplit g n) p.lanes fun p => { p with split := n, status := .current })

/-- No split has a current path and nothing merges: the path parked by JOIN that holds the lowest lane resumes alone
(15 R356); with none parked by JOIN, the one parked at a marked target. DEDUCED (unsafe), log entry 38. -/
def resumeAlone (g : Group) : Option Group :=
  if g.paths.any fun p => p.status = .current || p.status = .queued then none
  else
    let low (sel : Path → Bool) : Option Path :=
      g.paths.foldl (fun b p =>
        if sel p && (b.all fun x => firstLane p.lanes < firstLane x.lanes) then some p else b) none
    let pick :=
      match low fun p => match p.status with | .join _ => true | _ => false with
      | some p => some p
      | none => low fun p => match p.status with | .marked _ => true | _ => false
    match pick with
    | none => none
    | some p => some (updPath g p.lanes fun p => { p with status := .current, enter := false, checked := true })

/-- One change that follows from the state of the paths, if any. -/
def settleStep (g : Group) : Option Group :=
  match mergeFamily g with
  | some h => some h
  | none =>
    match mergeWsync g with
    | some h => some h
    | none =>
      match mergeRte g with
      | some h => some h
      | none =>
        match fillFree g with
        | some h => some h
        | none => resumeAlone g

/-- Applies the changes until none is left. A group has at most 32 paths and 31 families. -/
def settleFor : Nat → Group → Group
  | 0, g => takeQueued g
  | n + 1, g =>
    let g1 := takeQueued g
    match settleStep g1 with
    | some h => settleFor n h
    | none => g1

/-- DEDUCED (unsafe), log entry 38. -/
def settle (g : Group) : Group := settleFor 128 g

/-- Lanes leave the group (15 R361). -/
def exitLanes (g : Group) (m : Lanes) : Group :=
  { g with
    live := g.live &&& ~~~m
    paths := (g.paths.map fun p => { p with lanes := p.lanes &&& ~~~m }).filter fun p => p.lanes != 0 }

/-! ### Groups in the state -/

def updGroup (s : State) (gid : Nat) (f : Group → Group) : State := { s with groups := tblUpd s.groups gid f }

/-- The grid of a group, and the context it runs in. -/
def gridOf (s : State) (g : Group) : Option Grid := tblFind s.grids g.grid
def ctxOf (s : State) (g : Group) : Nat := ((gridOf s g).map (·.ctx)).getD 0
def blockOf (s : State) (g : Group) : Option Block := tblFind s.blocks g.block

/-- Who makes a split's accesses (04 R476). -/
def whoOf (s : State) (g : Group) : Who := ⟨ctxOf s g, dieOfQuad g.quad, some (coreOfQuad g.quad), g.handler⟩

/-- c is anc or one of its descendants; n bounds the climb (18 R409: at most eight levels). -/
def isUnder (s : State) (anc : Nat) : Nat → Nat → Bool
  | 0, c => c = anc
  | n + 1, c =>
    c = anc ||
    match tblFind s.ctxs c with
    | some r => r.parent != 0 && isUnder s anc n r.parent
    | none => false

/-- A subtree still stops. -/
def treeStopping (s : State) (x : Nat) : Bool := s.ctxs.any fun e => e.2.state = .stopping && isUnder s x 16 e.1

/-- The die from which the device makes its own accesses to a context's structures: in modes 2 and 4, one of the
partition that the context, or the nearest ancestor that holds quadrants, lies in (log entry 72).
DEDUCED (unsafe), log entry 72. -/
def engineDie : Nat → State → Nat → Nat
  | 0, _, _ => 0
  | n + 1, s, k =>
    if s.mode = 1 || k ≤ 1 then 0
    else
      match (List.range 640).find? fun q => isUnder s k 16 (quadHolder s q) with
      | some q => dieOfQuad q
      | none => engineDie n s (((tblFind s.ctxs k).map (·.parent)).getD 0)

/-- Who makes the device's own accesses to a context's structures (04 R476).
DEDUCED (unsafe), log entry 72; DESIGN CHOICE (unsafe), log entry 85. -/
def whoEngine (s : State) (ctx : Nat) : Who := ⟨ctx, engineDie 16 s ctx, none, true⟩

/-! ### Blocks, die slices and their barriers (15 R362) -/

def updBlock (s : State) (b : Nat) (f : Block → Block) : State := { s with blocks := tblUpd s.blocks b f }

def sliceOf (s : State) (grid die : Nat) : Option DieSlice := s.slices.find? fun x => x.grid = grid && x.die = die

def updDieSlice (s : State) (grid die : Nat) (f : DieSlice → DieSlice) : State :=
  { s with slices := s.slices.map fun x => if x.grid = grid && x.die = die then f x else x }

def newBarrier : Barrier := ⟨0, none, [], [], Times.zero⟩

/-- A barrier of a group's block, or of its die slice. -/
def getBarrier (s : State) (g : Group) (die : Bool) (id : Nat) : Barrier :=
  match blockOf s g with
  | none => newBarrier
  | some b => if die then ((sliceOf s b.grid b.die).map (·.bar)).getD newBarrier else tblGet newBarrier b.bars id

def setBarrier (s : State) (g : Group) (die : Bool) (id : Nat) (x : Barrier) : State :=
  match blockOf s g with
  | none => s
  | some b =>
    if die then updDieSlice s b.grid b.die fun y => { y with bar := x }
    else updBlock s g.block fun b => { b with bars := tblSet newBarrier b.bars id x }

/-- The groups a barrier counts: those of the block, or of every block of the die slice. -/
def barrierGroups (s : State) (g : Group) (die : Bool) : Tbl Group :=
  let here := blockOf s g
  s.groups.filter fun e =>
    if die then
      e.2.grid = g.grid && ((blockOf s e.2).map (·.die)) = here.map (·.die)
    else e.2.block = g.block

/-- Every live lane of a group has arrived in the phase. -/
def allArrived (x : Barrier) (gid : Nat) (g : Group) : Bool := g.live &&& ~~~(tblGet 0 x.arrived gid) == 0

/-- The phase is complete: its count of group arrivals is reached, or for count 0 every group has arrived or has exited
(15 R362). A group whose lanes have all exited stays listed as arrived in the phase in which it did. -/
def barrierFull (x : Barrier) (gs : Tbl Group) : Bool :=
  match x.count with
  | none => false
  | some n =>
    if n = 0 then gs.all fun e => allArrived x e.1 e.2
    else
      let here := x.arrived.filter fun e => (tblFind gs e.1).all fun g => allArrived x e.1 g
      n ≤ here.length

/-- Completes a full phase and begins the next. -/
def turnBarrier (x : Barrier) (gs : Tbl Group) : Barrier :=
  if barrierFull x gs then { x with phase := x.phase + 1, count := none, arrived := [] } else x

/-- Phases that a group's exits complete (15 R362, R361): a group of which no lane is left has arrived in every phase
that is open. DEDUCED (unsafe), log entry 39. -/
def settleBarriers (s : State) (gid : Nat) (g : Group) : State :=
  let gone := (tblFind s.groups gid).all fun h => h.live = 0
  let turn (s : State) (die : Bool) (id : Nat) : State :=
    let x := getBarrier s g die id
    let x := if gone then { x with arrived := tblSet 0 x.arrived gid allLanes } else x
    if gone || x.count.isSome then setBarrier s g die id (turnBarrier x (barrierGroups s g die)) else s
  (List.range 16).foldl (fun s i => turn s false i) (turn s true 0)

end Sys2Proof.Machine
end

