-- ==== Sys2Proof/Machine/Sync.lean ====
section
/-! DEFINITION. Synchronisation (06): what releases leave with the locations they write, what acquires learn from them,
and what a group knows of the writes that happen before its accesses. A copy in an L1 may be stale only for a reader that
no release has told of the newer write: the logical times of 05 R120 say which copies those are. The times that a release
carries beyond the `wts` of its line (05 R123, R124) are what 06 R143-R152 require. -/

namespace Sys2Proof.Machine

/-- The agent of a split of a group (06 R138, R139). -/
def agentOf (s : State) (gid : Nat) (g : Group) : Agent :=
  ⟨.split, gid, g.block, dieOfQuad g.quad, coreOfQuad g.quad, ctxOf s g⟩

/-- An engine operation of a group (06 R139). -/
def engineOf (a : Agent) : Agent := { a with kind := .engine }

/-- An agent of the Paorid die that acts for a context: the context engine, the distributor or a relay engine. -/
def paoridAgent (ctx : Nat) : Agent := ⟨.relay, 0, 0, 4, 0, ctx⟩

/-! ### Locations (06 R141) -/

/-- The number of the space of a die slice's scratchpad; a die slice that is away has a die above 3. -/
def sliceSpace (grid die : Nat) : Nat := 2 ^ 17 + 2 * (8 * grid + die) + 1

/-- The number of the space of a block's scratchpad, or of its die slice's; an ASID numbers virtual memory. -/
def scratchSpace (s : State) (b : Nat) (die : Bool) : Nat :=
  match tblFind s.blocks b with
  | some k => if die then sliceSpace k.grid k.die else 2 ^ 17 + 2 * b
  | none => 2 ^ 17

/-- The aligned 4-byte units that n bytes from address a touch. -/
def unitsOf (a n : Nat) : List Nat := (List.range ((a + n + 3) / 4 - a / 4)).map fun i => a / 4 + i

/-- The releases that the bytes carry where they were performed. -/
def relsAt (s : State) (space a n : Nat) : List Rel :=
  s.rels.filter fun r => r.space = space && a / 4 ≤ r.unit && r.unit < (a + n + 3) / 4

/-- The releases that a core sees with the bytes: those performed, and those of its own queued stores (05 R118). -/
def relsSeen (s : State) (core ctx space a n : Nat) : List Rel :=
  let here (r : Rel) : Bool := r.space = space && a / 4 ≤ r.unit && r.unit < (a + n + 3) / 4
  relsAt s space a n ++ (s.sq.filter fun e => e.core = core && e.ctx = ctx).flatMap fun e =>
    e.parts.flatMap fun p => p.carry.filter here

/-- The releases that a write to n bytes leaves with each of its units. -/
def carryAt (space a n : Nat) (rs : List Rel) : List Rel :=
  (unitsOf a n).flatMap fun u => rs.map fun r => { r with space := space, unit := u }

/-- A write is performed: the units it fills carry its own releases, and those it follows in a release sequence if it is
an RMW (06 R146). -/
def putRels (s : State) (space a n : Nat) (rmw : Bool) (carry : List Rel) : State :=
  let covered (r : Rel) : Bool := r.space = space && a ≤ 4 * r.unit && 4 * r.unit + 4 ≤ a + n
  { s with rels := carry.foldl joinRel (if rmw then s.rels else s.rels.filter fun r => !covered r) }

/-- The number of the list of releases that stores and atomics to host and peer memory have carried. -/
def devSpace : Nat := 2 ^ 16 + 4

/-- A write to host or peer memory carries releases (06 R156): an acquire that reads such memory takes up all that its
scope admits, since the model does not know which write the answer is. DEDUCED (unsafe), log entry 31. -/
def putDevRels (s : State) (carry : List Rel) : State :=
  { s with rels := carry.foldl (fun l r => joinRel l { r with space := devSpace, unit := 0 }) s.rels }

/-! ### What a group knows -/

/-- What a group's release makes visible (06 R147): what it has read and learned, and what its way partition has stored.
DEDUCED (unsafe), log entry 82. -/
def knowOf (s : State) (gid : Nat) : Times :=
  match tblFind s.groups gid with
  | none => Times.zero
  | some g => g.seen.join (viewTimes s (coreOfQuad g.quad) (ctxOf s g) (dieOfQuad g.quad))

/-- A release of a group at a scope. DEDUCED (unsafe), log entry 82. -/
def relOf (s : State) (gid : Nat) (sc : Scope) (prom : Bool) : List Rel :=
  match tblFind s.groups gid with
  | none => []
  | some g => [⟨0, 0, agentOf s gid g, sc, prom, knowOf s gid⟩]

/-- What a store of a group carries besides a release of its own: its release fences (06 R146 cases 3 and 5). -/
def fenceOf (s : State) (gid : Nat) : List Rel := ((tblFind s.groups gid).map (·.fence)).getD []

/-- A group learns of writes; its partition's view passes those of its die (05 R124). -/
def learn (s : State) (gid : Nat) (t : Times) (view : Nat) : State :=
  match tblFind s.groups gid with
  | none => s
  | some g =>
    raiseVts (updGroup s gid fun g => { g with seen := g.seen.join t }) (coreOfQuad g.quad) (ctxOf s g) view

/-- A group learns all that an agent has made visible to it. -/
def learnAll (s : State) (gid : Nat) (t : Times) : State :=
  learn s gid t (((tblFind s.groups gid).map fun g => t.at (dieOfQuad g.quad)).getD 0)

/-- An acquire of a group takes up releases (06 R146, R150). At a narrow scope, where R124 leaves the L1 as it is,
only a release made elsewhere, or by an engine, moves the view: one of a split of the own way partition is seen
through the L1 it shares. DEDUCED (unsafe), log entry 82. -/
def takeUp (s : State) (gid : Nat) (sc : Scope) (prom wide : Bool) (rs : List Rel) : State :=
  match tblFind s.groups gid with
  | none => s
  | some g =>
    let a := agentOf s gid g
    let far := if wide then rs else rs.filter fun r => !(r.agent.kind = .split && r.agent.core = a.core && r.agent.ctx = a.ctx)
    learn s gid (relTimes a sc prom rs) ((relTimes a sc prom far).at a.die)

/-- What a read that is no acquire has met, for an acquire fence after it (06 R146 cases 4 and 5). -/
def notePend (s : State) (gid : Nat) (rs : List Rel) : State :=
  if rs = [] then s
  else
    updGroup s gid fun g => { g with pend := rs.foldl (fun l r => joinRel l { r with space := 0, unit := 0 }) g.pend }

/-- A group has read a line's value of a die at a logical time: the writes it may have read were performed at the times
that are kept with the line (06 R147). -/
def noteSeen (s : State) (gid asid lva die wts : Nat) : State :=
  updGroup s gid fun g => { g with seen := (g.seen.join (timesOf die wts)).join (writtenAt s asid lva) }

/-- A group's read of a location: an acquire takes up the releases that the value carries, another read keeps them for a
fence. -/
def noteRead (s : State) (gid : Nat) (acq : Bool) (sc : Scope) (prom wide : Bool) (rs : List Rel) : State :=
  if acq then takeUp s gid sc prom wide rs else notePend s gid rs

end Sys2Proof.Machine
end

