-- ==== Sys2Proof/Machine/Records.lean ====
section
/-! DEFINITION. What the context engine and the distributor write into a context's own memory: fault-queue records
(17 R397) and guestbook entries (16 R378, R379); and what they read there. -/

namespace Sys2Proof.Machine

/-- A write of the device into a context's memory, within one line, as a release at `.sys` or as none (06 R146, 16
R379). Memory that is not cached is written in place. -/
def engineWrite (s : State) (w : Who) (va : Long) (bs : List Byte) (rel : Bool) : Except TFault State :=
  let asid := asidOf w.ctx va
  let note (s : State) : State :=
    let r : Rel := ⟨0, 0, paoridAgent w.ctx, .sys, false, viewTimes s (w.core.getD deviceCore) w.ctx w.die⟩
    putRels s asid va.toNat bs.length false (carryAt asid va.toNat bs.length (if rel then [r] else []))
  match l2Write s w va bs .store rel with
  | .ok s1 => .ok (note s1)
  | .error (.fault f) => .error f
  | .error (.special ma p) =>
    let s := afterAccess s w va .store
    if p.mt = .uncached && (regionOf s ma = .stack || regionOf s ma = .tier) then .ok (note (memStore s ma bs))
    else .error (leafFault s w 0x04 va .store)

/-- A read of the device from a context's memory, within one line. Poisoned bytes are a data error, of the class that
08 R198 gives it. DEDUCED (unsafe), log entry 92. -/
def engineRead (s : State) (w : Who) (va : Long) (n : Nat) (acc : Acc) : Except TFault (State × List Byte) :=
  let take (s : State) (bs : List Byte) (poison : Bool) : Except TFault (State × List Byte) :=
    if poison then .error (leafFault s w 0xF0 va acc) else .ok (s, bs)
  match l2ReadBytes s w va n acc with
  | .ok (s1, bs, poison) => take s1 bs poison
  | .error (.fault f) => .error f
  | .error (.special ma p) =>
    let s := afterAccess s w va acc
    if p.mt = .uncached && (regionOf s ma = .stack || regionOf s ma = .tier) then
      take s (memBytes s.mem ma n) (poisoned s ma || poisoned s (ma + n - 1))
    else .error (leafFault s w 0x04 va acc)

/-- Reads n bytes across lines, 8 at a time from an 8-byte aligned address. -/
def engineReadLong (s : State) (w : Who) (va : Long) (acc : Acc) : Nat → Except TFault (State × List Byte)
  | 0 => .ok (s, [])
  | n + 1 =>
    match engineRead s w va 8 acc with
    | .error f => .error f
    | .ok (s1, bs) =>
      match engineReadLong s1 w (va + 8) acc n with
      | .error f => .error f
      | .ok (s2, r) => .ok (s2, bs ++ r)

/-- A record of a translation fault. -/
def faultRec (kind srcctx : Nat) (pc gser : Long) (f : TFault) : FaultRec :=
  ⟨kind, f.cls, srcctx, 0, pc, gser, f.va, f.ca, faultInfo f, f.asid, 0, 0⟩

/-- A record with the fields of an R114 record, as GETFLT would read it.
DEDUCED (unsafe), log entry 46; DEDUCED (unsafe), log entry 77. -/
def recordRec (kind code srcctx : Nat) (pc gser : Long) (r : BitVec 256) : FaultRec :=
  ⟨kind, code, srcctx, 0, pc, gser, r.extractLsb' 0 64, bits r.toNat 127 64, bits r.toNat 191 160,
    bits r.toNat 207 192, 0, 0⟩

/-- Bytes 0x00-0x37 of a record. -/
def recBytes (r : FaultRec) : List Byte :=
  bytesOfNat 1 r.kind ++ bytesOfNat 1 r.code ++ bytesOfNat 2 r.srcctx ++ bytesOfNat 4 r.order ++
  bytesOfNat 8 r.pc.toNat ++ bytesOfNat 8 r.gser.toNat ++ bytesOfNat 8 r.va.toNat ++ bytesOfNat 8 r.ca ++
  bytesOfNat 4 r.info ++ bytesOfNat 2 r.asid ++ bytesOfNat 2 r.queue ++ bytesOfNat 8 r.aux

/-- The address of entry n - 1 of a ring of 64-byte entries. -/
def ringEntry (base : Long) (log2 n : Nat) : Long := base + BitVec.ofNat 64 (64 * ((n - 1) % 2 ^ log2))

/-- Writes a record into a context's fault queue (17 R397). An occupied entry, or a write that faults, drops the
record; a fault is told to the parent. `depth` bounds the climb through the ancestors.
DEDUCED (unsafe), log entry 77. -/
def faultQueueWrite : Nat → State → Nat → FaultRec → State
  | 0, s, _, _ => s
  | depth + 1, s, ctx, r =>
    match tblFind s.ctxs ctx with
    | none => s
    | some c =>
      let w := whoEngine s ctx
      let a := ringEntry c.fq.base c.fq.log2 c.fq.next
      let drop (s : State) (f : Option TFault) : State :=
        let lose (s : State) : State := updCtx s ctx fun c => { c with fq := { c.fq with lost := c.fq.lost + 1 } }
        match f with
        | none => lose s
        | some f =>
          let s1 := lose (afterFault s w f)
          if c.parent = 0 then s1
          else faultQueueWrite depth s1 c.parent { faultRec 10 ctx 0 0 f with aux := 1 }
      match engineRead s w (a + 0x38) 8 .load with
      | .error f => drop s (some f)
      | .ok (s1, bs) =>
        if natOfBytes bs != 0 then drop s1 none
        else
          match engineWrite s1 w a (recBytes r) false with
          | .error f => drop s1 (some f)
          | .ok s2 =>
            match engineWrite s2 w (a + 0x38) (bytesOfNat 4 c.fq.next ++ bytesOfNat 4 c.fq.lost) true with
            | .error f => drop s2 (some f)
            | .ok s3 => updCtx s3 ctx fun c => { c with fq := { c.fq with next := c.fq.next % (2 ^ 32 - 1) + 1, lost := 0 } }

/-- Sends a record to a context's fault queue. DEDUCED (unsafe), log entry 77. -/
def sendRecord (s : State) (ctx : Nat) (r : FaultRec) : State := faultQueueWrite 16 s ctx r

/-- a is earlier than b among sequence numbers (08 R184). -/
def seqBefore (a b : BitVec 32) : Bool := a != b && (b - a).toNat < 2 ^ 31

/-- Records of transfers of one context are written in ascending ORDER (17 R397): one may be written when no porter
operation of the context has an earlier transfer to come, and no earlier record waits. -/
def recordDue (s : State) (h : HeldRec) : Bool :=
  let n := BitVec.ofNat 32 h.r.order
  !(s.porterOps.any fun e => e.2.ctx = h.ctx && (e.2.state = .queued || e.2.state = .running) && e.2.next < e.2.count &&
    seqBefore (e.2.seq + BitVec.ofNat 32 e.2.next) n) &&
  !(s.heldRecs.any fun x => x.ctx = h.ctx && seqBefore (BitVec.ofNat 32 x.r.order) n)

/-- Writes the waiting records that are due; n bounds their number. -/
def flushRecsFor : Nat → State → State
  | 0, s => s
  | n + 1, s =>
    match s.heldRecs.find? (recordDue s) with
    | none => s
    | some h => flushRecsFor n (sendRecord { s with heldRecs := s.heldRecs.erase h } h.queue h.r)

def flushRecs (s : State) : State := flushRecsFor s.heldRecs.length s

/-- Sends a record of a transfer, in its turn. -/
def orderRecord (s : State) (queue ctx : Nat) (r : FaultRec) : State :=
  flushRecs { s with heldRecs := s.heldRecs ++ [⟨queue, ctx, r⟩] }

/-- The parent of a context; the root's own records go to the root (17 R389). -/
def parentOf (s : State) (ctx : Nat) : Nat :=
  match tblFind s.ctxs ctx with
  | some c => if c.parent = 0 then ctx else c.parent
  | none => ctx

/-- The STATE code of a grid (16 R378). -/
def gridCode : GridState → Nat
  | .accepted => 0 | .started => 1 | .complete => 2 | .failed => 3 | .cancelled => 4

def gridFinal : GridState → Bool
  | .accepted | .started => false
  | .complete | .failed | .cancelled => true

/-- The 8-byte word at 0x08 of a guestbook entry. -/
def gridWord (g : Grid) : Nat :=
  gridCode g.state + g.cause * 2 ^ 8 + (g.detail % 2 ^ 16) * 2 ^ 16 + (g.queue % 2 ^ 16) * 2 ^ 32 +
    (one g.hdr.det + 2 * one g.launched) * 2 ^ 48 + g.depth * 2 ^ 56

/-- A context and its running descendants begin to stop (18 R424): the cut itself is the context engine's. -/
def stopTree (s : State) (ctx cause : Nat) (st : Stop) : State :=
  { s with ctxs := tblMap s.ctxs fun k c =>
      if c.state != .running || !isUnder s ctx 16 k then c
      else if k = ctx then { c with state := .stopping, cause := cause, stop := some st }
      else { c with state := .stopping, cause := 4, stop := some st } }

/-- Writes a grid's guestbook entry (16 R379). A fault stops the context with cause 6, which `CtxState` shows as
stopping (16 R378, 18 R410). -/
def guestbookWrite (s : State) (gid : Nat) : State :=
  match tblFind s.grids gid with
  | none => s
  | some g =>
    match tblFind s.ctxs g.ctx with
    | none => s
    | some c =>
      let w := whoEngine s g.ctx
      let a := ringEntry c.gbbase c.gblog2 g.seq
      let parentSeq := ((tblFind s.grids g.parent).map (·.seq)).getD 0
      let body := bytesOfNat 8 parentSeq ++ bytesOfNat 8 g.qidx.toNat ++ bytesOfNat 8 s.clock ++
        bytesOfNat 8 (if gridFinal g.state then g.energy / 1000 else 0) ++ bytesOfNat 8 g.image.toNat ++ bytesOfNat 8 0
      let bad (s : State) (f : TFault) : State :=
        let s1 := stopTree (afterFault s w f) g.ctx 6 ⟨0, s.clock, false⟩
        if c.parent = 0 then s1 else sendRecord s1 c.parent (faultRec 10 g.ctx 0 0 f)
      match engineWrite s w (a + 0x10) body false with
      | .error f => bad s f
      | .ok s1 =>
        match (if g.state = .accepted then engineWrite s1 w a (bytesOfNat 8 g.seq) false else .ok s1) with
        | .error f => bad s1 f
        | .ok s2 =>
          match engineWrite s2 w (a + 8) (bytesOfNat 8 (gridWord g)) true with
          | .error f => bad s2 f
          | .ok s3 => s3

/-- Changes a grid. -/
def updGrid (s : State) (gid : Nat) (f : Grid → Grid) : State := { s with grids := tblUpd s.grids gid f }

/-- A grid takes a new state, with its guestbook entry (16 R379). -/
def setGridState (s : State) (gid : Nat) (st : GridState) (cause detail : Nat) : State :=
  guestbookWrite (updGrid s gid fun g => { g with state := st, cause := cause, detail := detail }) gid

/-- Records the failure that a grid ends with, unless an earlier one is recorded (17 R392). -/
def failGrid (s : State) (gid cause : Nat) : State :=
  updGrid s gid fun g => { g with failure := match g.failure with | some f => some f | none => some (cause, 0) }

end Sys2Proof.Machine
end

