-- ==== Sys2Proof/Machine/Ops.lean ====
section
/-! DEFINITION. The operations the meanings share: store queues, releases and acquires (05 R118, R124, 06 R147), taking
a trap (17 R388-R392), and the issue of an instruction of a split (02 R45, 09 R212-R217, 17 R388). -/

namespace Sys2Proof.Machine

/-! ### The bus -/

/-- The requester ID of a context's accesses to the host (19 R439): the virtual function whose root child is the
context or its ancestor, or 0 for the physical function. -/
def requesterId (s : State) (ctx : Nat) : BitVec 16 :=
  match s.vfs.find? fun e => isUnder s e.2 16 ctx with
  | some e => BitVec.ofNat 16 e.1
  | none => 0

/-- The bus address of a host or peer window address, or nothing for an unbound peer window (19 R439, R441). -/
def busAddr (s : State) (ma : Nat) : Option Nat :=
  match regionOf s ma with
  | .host => some (ma - 0x100000000000)
  | .peer =>
    let n := (ma - 0x110000000000) / 2 ^ 34
    match tblFind s.peerWin n with
    | some p => if p.valid then some (p.base.toNat * 4096 + ma % 2 ^ 34) else none
    | none => none
  | _ => none

/-- The posted writes of a store to the host or a peer, two of 16 bytes (07 R163, R168). -/
def postWrites (s : State) (ctx b : Nat) (bs : List Byte) : State :=
  let rid := requesterId s ctx
  { s with bus := s.bus ++
      if bs.length = 16 then [.write b (bs.take 8) rid, .write (b + 8) (bs.drop 8) rid] else [.write b bs rid] }

/-! ### Store queues, releases and acquires -/

/-- An orphan record (07 R170): to the parent for classes 0x10 and above. -/
def orphan (s : State) (ctx : Nat) (p : StorePart) (r : FaultRec) : State :=
  sendRecord s (if 0x10 ≤ r.code then parentOf s ctx else ctx) { r with pc := p.pc, gser := p.gser }

/-- An orphan store of an access-trap cause (07 R170): CODE 0, AUX the cause, INFO ACC 1; its ASID field is 0.
DESIGN CHOICE (unsafe), log entry 93. -/
def orphanAccess (ctx : Nat) (p : StorePart) (cause : Nat) : FaultRec :=
  ⟨1, 0, ctx, 0, p.pc, p.gser, p.lane, 0, 2 ^ 5, 0, 0, cause⟩

/-- A queued store fails: its lane's one orphan record is sent (04 R114, 07 R170). -/
def orphanPart (s : State) (ctx : Nat) (p : StorePart) (r : FaultRec) : State :=
  if s.orphaned.contains p.id then s
  else orphan { s with orphaned := p.id :: s.orphaned } ctx p { r with va := p.lane }

/-- One queued store is performed at the L2 (05 R123), and its bytes carry its releases (06 R146); a failure found
there is an orphan. One whose page has become uncached or device memory of the host or a peer is performed there (04
R101); one to device registers or an alias window leaves the caches for its target. DEDUCED (unsafe), log entry 28. -/
def performPart (e : StoreEntry) (s : State) (p : StorePart) : State :=
  let w : Who := ⟨e.ctx, dieOfCore e.core, some e.core, p.handler⟩
  let note (s : State) : State := putRels s e.asid p.va.toNat p.bytes.length false p.carry
  match l2Write s w p.va p.bytes .store p.rel with
  | .ok s1 => note s1
  | .error (.fault f) => orphanPart (afterWalk s w p.va .store) e.ctx p (faultRec 1 e.ctx p.pc p.gser f)
  | .error (.special ma pm) =>
    let s := afterAccess s w p.va .store
    if pm.mt != .uncached && p.lane.toNat % p.size != 0 then orphanPart s e.ctx p (orphanAccess e.ctx p 1)
    else
      match regionOf s ma with
      | .stack | .tier => note (memStore s ma p.bytes)
      | .host | .peer =>
        match busAddr s ma with
        | some b => postWrites s e.ctx b p.bytes
        | none => orphanPart s e.ctx p (orphanAccess e.ctx p 3)
      | .regs | .aliasMem => { s with late := s.late ++ [{ e with parts := [p] }] }
      | .reserved => s

/-- An entry leaves its store queue (05 R118). DEDUCED (unsafe), log entry 28. -/
def performEntry (s : State) (e : StoreEntry) : State :=
  let s1 := e.parts.foldl (performPart e) { s with sq := s.sq.erase e }
  let queued (id : Nat) : Bool := (s1.sq ++ s1.late).any fun x => x.parts.any fun p => p.id = id
  { s1 with orphaned := s1.orphaned.filter queued }

/-- The entries of each core's queue from its oldest to the last one that holds: a queue sends its entries in order
(06 R149). -/
def throughLast (p : StoreEntry → Bool) : List StoreEntry → List StoreEntry
  | [] => []
  | e :: r => if p e || r.any fun x => x.core = e.core && p x then e :: throughLast p r else throughLast p r

/-- Performs the queued stores that hold, and those before them, oldest first (06 R149).
DEDUCED (unsafe), log entry 28. -/
def drain (s : State) (p : StoreEntry → Bool) : State := (throughLast p s.sq).foldl performEntry s

/-- A store that a drain would perform is to a line of a slice that is being recovered, and is held (05 R132). -/
def drainHeld (s : State) (p : StoreEntry → Bool) : Bool :=
  (throughLast p s.sq).any fun e => heldRequest s (dieOfCore e.core) e.asid e.va true

/-- The queued stores of a group's way partition. -/
def ownStore (s : State) (g : Group) (e : StoreEntry) : Bool := e.core = coreOfQuad g.quad && e.ctx = ctxOf s g

/-- A scope at which a group synchronises at the L2 (05 R124): `.blk` only when its block spans cores. -/
def wideScope (s : State) (g : Group) (sc : Scope) : Bool :=
  match sc with
  | .grp => false
  | .blk => ((blockOf s g).map fun b => b.quads.any fun q => q < 640 && coreOfQuad q != coreOfQuad g.quad).getD false
  | .die | .pkg | .sys => true

/-- A release at a scope (05 R124, 06 R147): the stores of the group's way partition are performed at the L2.
DEDUCED (unsafe), log entry 28. -/
def release (s : State) (g : Group) (sc : Scope) : State :=
  if wideScope s g sc then drain s (ownStore s g) else s

/-- A release at a scope must wait for a slice that is being recovered. -/
def releaseHeld (s : State) (g : Group) (sc : Scope) : Bool := wideScope s g sc && drainHeld s (ownStore s g)

/-- The numbers of the lists of releases that no location carries: those of full fences (06 R148), and the completion
releases of a group's engine operations (06 R152), which have the group's number as their unit. -/
def fenceSpace : Nat := 2 ^ 16 + 1
def doneSpace : Nat := 2 ^ 16 + 2

/-- An acquire without a line takes up releases, and moves the view where its scope acts on the L1 (05 R124, 06
R146). -/
def acquireOf (s : State) (gid : Nat) (sc : Scope) (rs : List Rel) : State :=
  match tblFind s.groups gid with
  | none => s
  | some g => takeUp s gid sc false (wideScope s g sc) rs

/-- A completion acquire of a group at a scope: what its own finished operations have released (06 R152). -/
def acquireDone (s : State) (gid : Nat) (sc : Scope) : State :=
  acquireOf s gid sc (s.rels.filter fun r => r.space = doneSpace && r.unit = gid)

/-- An engine operation of a group has completed: its release at `.sys` (06 R152), with what it has read and written. -/
def releaseDone (s : State) (gid op : Nat) : State :=
  match tblFind s.groups gid with
  | none => s
  | some g =>
    let a := engineOf (agentOf s gid g)
    let r : Rel := ⟨doneSpace, gid, a, .sys, false, viewTimes s (opCore op) a.ctx a.die⟩
    { s with rels := joinRel s.rels r, parts := s.parts.filter fun p => p.core != opCore op }

/-- A fence of a group (06 R146-R148). An acquire takes up what its loads have met, a release lends its times to the
stores after it, and a full fence takes its place in the fence order: it learns what the inclusive full fences before it
have made visible. -/
def fenceAt (s : State) (gid : Nat) (g : Group) (o : MOrd) (sc : Scope) : State :=
  let full := o = .acqrel
  let s1 := if wideScope s g sc then drain s (ownStore s g) else s
  let s2 := if o = .acq || full then acquireOf s1 gid sc g.pend else s1
  let s3 := if full then acquireOf s2 gid sc (s2.rels.filter fun r => r.space = fenceSpace) else s2
  let own := relOf s3 gid sc false
  let s4 := if o = .rel || full then
      updGroup s3 gid fun g => { g with fence := own.foldl joinRel g.fence }
    else s3
  if full then { s4 with rels := own.foldl (fun l r => joinRel l { r with space := fenceSpace }) s4.rels } else s4

def acquires : MOrd → Bool
  | .acq | .acqrel => true
  | .plain | .rel => false

def releases : MOrd → Bool
  | .rel | .acqrel => true
  | .plain | .acq => false

/-! ### Taking a trap -/

/-- The live lanes of a group exit as by EXIT, and its grid will end failed (17 R392, R389). -/
def killGroup (s : State) (gid : Nat) (cause : Nat) : State :=
  match tblFind s.groups gid with
  | none => s
  | some g =>
    let s1 := updGroup { s with
        chunkQ := (s.chunkQ.map fun e => (e.1, e.2.filter fun x => x.1 != gid)).filter fun e => !e.2.isEmpty } gid fun g =>
      { exitLanes g g.live with splits := [], families := [], held := none }
    failGrid (settleBarriers s1 gid g) g.grid cause

/-- INFO of `fltrec` (17 R391). -/
def fltrecOf (t : Trap) (base : Long) : Long :=
  BitVec.ofNat 64 (((t.offPc - base).toNat % 2 ^ 32) * 2 ^ 32 + t.cls * 2 ^ 24 + (t.cause % 256) * 2 ^ 16 + t.info % 2 ^ 16)

/-- The registers an instruction writes. -/
def destKeys (i : Instr) : List Nat := (i.uses.filter (·.writes)).flatMap useKeys

/-- A path waits in an instruction that a save takes as not issued: EVWAIT (17 R398), and TSTAT `.full` (13 R313). -/
def idleWait (p : Path) : Bool :=
  match p.await with
  | some (.evwait _ _) => true
  | some .array => match (decode p.word).toOption with
    | some (.tstat ..) => true
    | _ => false
  | _ => false

/-- A group of the block has taken a trap after its method was chosen: rows 3 and 4 of 17 R403 hold no more (R407).
DEDUCED (unsafe), log entry 47. -/
def saveWhole (s : State) (block : Nat) : State :=
  updBlock s block fun b => { b with
    method := if b.method = some .flashback || b.method = some .restart then some .full else b.method }

/-- Enters the handler (17 R392): saves the trap frame, writes `fltrec` and `fltmask`, and gathers every live lane into
one path in split 0 at ENTRY1. What another path had begun goes on in the frame, with its registers empty until it
completes (17 R390). A block that was to go by flashback or restart is saved whole, with the frame (R407).
DEDUCED (unsafe), log entry 87. -/
def enterHandler (s : State) (gid : Nat) (t : Trap) : State :=
  match tblFind s.groups gid with
  | none => s
  | some g =>
    let gr := gridOf s g
    let base := (gr.map (·.image)).getD 0
    let entry := ((gr.map (·.hdr.entries)).getD []).getD 1 0
    let fmt := ((g.paths.find? fun p => p.lanes = t.path).map (·.fmt)).getD 0
    if entry = 0 || g.handler then
      let r := ((t.recs.head?).map (·.2)).getD 0
      let s1 := sendRecord s (ctxOf s g) (recordRec 8 t.cls (ctxOf s g) t.pc g.serial (if t.cls = 0x0A then r else 0))
      killGroup s1 gid (if g.handler then 0x21 else 0x20)
    else
      updGroup (saveWhole s g.block) gid fun g => { g with
        frame := some ⟨g.paths, g.splits, g.families, g.preds, t.path, t.pc, t.cls, t.dsts⟩
        fltrec := fltrecOf t base, fltmask := t.mask, recs := t.recs, idem := false, handler := true
        paths := [⟨0, g.live, base + BitVec.ofNat 64 entry, fmt, [], .current, none, true, true, 0, none, 0,
          g.paths.any (·.full), none⟩]
        splits := [⟨0, g.splitAge, false, false, 0⟩], splitAge := g.splitAge + 1, families := [] }

/-- Lanes whose record the parent receives (04 R113). -/
def parentRecs (t : Trap) : Tbl (BitVec 256) := t.recs.filter fun e => 0x10 ≤ bits e.2.toNat 135 128

/-- A group takes a trap (17 R388, R389): in its handler, or held for the parent. A group of the root is not held: its
lanes exit and its grid ends failed with cause 0x25. DEDUCED (unsafe), log entry 46. -/
def takeTrap (s : State) (gid : Nat) (t : Trap) : State :=
  match tblFind s.groups gid with
  | none => s
  | some g =>
    let ctx := ctxOf s g
    let c := tblFind s.ctxs ctx
    let toParent := (t.cls = 0x0A && parentRecs t != []) || t.cls = 0x13 || (t.cls = 0x12 && (c.map (·.debug)).getD false)
    if !toParent then enterHandler s gid t
    else
      let kind := if t.cls = 0x0A then 5 else if t.cls = 0x13 then 6 else 7
      let s1 :=
        if t.cls = 0x0A then
          (parentRecs t).foldl (fun s e =>
            sendRecord s (parentOf s ctx) (recordRec 5 (bits e.2.toNat 135 128) ctx t.pc g.serial e.2)) s
        else sendRecord s (parentOf s ctx) (recordRec kind t.cls ctx t.pc g.serial (((parentRecs t).head?.map (·.2)).getD 0))
      if (c.map (·.parent)).getD 0 = 0 then killGroup s1 gid 0x25
      else updGroup (saveWhole s1 g.block) gid fun g => { g with held := some t }

/-! ### Issue -/

/-- What a meaning is given: its group and path as they stand, and the lanes in which it acts. -/
structure Ins where
  gid : Nat
  g : Group
  p : Path
  act : Lanes
  i : Instr

/-- How the attempt to issue an instruction ends: performed, with the path going on at the next PC; performed, with
the paths placed by the meaning; not issued, to be tried again; begun and waiting; a trap. -/
inductive Act where
  | done (s : State)
  | moved (s : State)
  | wait
  | park (s : State)
  | trap (t : Trap) (s : State)
  deriving DecidableEq, Repr

/-- A trap precise at an instruction (17 R388). -/
def trapAt (p : Path) (cls cause : Nat) (mask : Lanes) : Trap := ⟨p.lanes, cls, cause, 0, mask, [], p.pc, p.pc, []⟩

/-- A trap of the instruction's own checks: `fltmask` names the lanes in which it would act. -/
def Ins.trap (c : Ins) (cls cause : Nat) : Trap := trapAt c.p cls cause c.act

/-- The lanes in which an instruction acts: active, with the predicate true, and not performed before a trap. -/
def actLanes (g : Group) (p : Path) (i : Instr) : Lanes :=
  p.lanes &&& (match i.guard with | some gd => predLanes g gd.pred | none => 0) &&& p.replay.getD allLanes

/-- The lanes for which a path still has to perform its instruction. -/
def dueLanes (p : Path) : Lanes := p.lanes &&& p.replay.getD allLanes

/-- The chunk check (09 R212). -/
def chunkOk (g : Group) (i : Instr) : Bool :=
  i.uses.all fun u => u.file != .lane || (List.range u.span).all fun k => holdsReg g (u.reg + k)

/-- The registers a field reads that are empty. -/
def emptyKeys (g : Group) (u : Use) : List Nat := (useKeys u).filter (isEmpty g)

/-- INFO of the empty-source trap (17 R391): position, file, register. -/
def emptyInfo (u : Use) (k : Nat) : Nat := u.pos * 2 ^ 14 + u.file.code * 2 ^ 12 + k % 256

/-- The field that HOLD copies. -/
def holdUse (i : Instr) : Option Use :=
  match i.guard with
  | none => none
  | some g => if g.hold.sel == 0 then none else i.uses.find? fun u => u.pos == g.hold.sel.toNat && u.reads

/-- The fields an instruction reads at its issue: all of them if it acts, else the one it holds (02 R39).
DEDUCED (unsafe), log entry 20. -/
def readUses (i : Instr) (act : Lanes) : List Use :=
  if act = 0 then (holdUse i).toList else i.uses.filter (·.reads)

/-- A latch source is valid and of the position's width (09 R217). -/
def latchOk (p : Path) (u : Use) : Bool :=
  u.file != .latch ||
  match tblFind p.latches u.reg with
  | some l => l.left != 0 && l.wide == (u.count == 2)
  | none => false

/-- Instructions that clear the IDEM flag at their issue (17 R401). DEDUCED (safe), log entry 22. -/
def clearsIdem : Instr → Bool
  | .atom .. | .atoms .. | .atomf .. | .atomfs .. | .cas .. | .cass .. | .prom .. | .amaxr .. | .fxfer .. | .fatom ..
  | .pcancel .. | .arrset .. | .launch .. | .spawn .. | .spawnw .. | .innset .. | .curfew .. | .bar .. | .bara ..
  | .barw .. | .boarm .. | .cwinBind .. | .cwinUnbind .. | .cwinEp .. | .cwinTrace .. | .racq .. | .rrel .. | .ctxnew ..
  | .ctxgrantQuad .. | .ctxgrantQueue .. | .ctxgrantPort .. | .ctxgrantRelay .. | .ctxgrantPurse .. | .ctxgrantSave ..
  | .ctxgrantRights .. | .ctxmap .. | .ctxrevokeQuad .. | .ctxrevokeQueue .. | .ctxrevokePort .. | .ctxrevokeRelay ..
  | .ctxrevokePurse .. | .ctxrevokeFrame .. | .ctxrevokeSave .. | .ctxrevokeAll .. | .ctxrun .. | .ctxstop .. | .ctxsw ..
  | .ctxqry .. | .ctxrefl .. | .invlva .. | .trap .. | .brk .. | .evwait .. => true
  | _ => false

/-- Instructions of the factorisation chapter at which its reports are taken at the issue (13 R311). TSTAT `.full`
takes them at the end of its wait. -/
def factInstr : Instr → Bool
  | .tlu .. | .tchol .. | .tqr .. | .ttrs .. | .tperm .. | .tqapp .. | .tnorm .. | .tres .. => true
  | _ => false

def isExit : Instr → Bool
  | .exit _ => true
  | _ => false

/-- A report that is due at an instruction that acts (12 R290, 13 R311, 15 R361). -/
def reportDue (g : Group) (i : Instr) (act : Lanes) : Option Report :=
  if g.handler || act = 0 then none
  else
    let keys := (i.uses.filter fun u => u.reads || u.writes).flatMap useKeys
    g.reports.find? fun r => isExit i || (r.fact && factInstr i) || (!r.fact && r.keys.any keys.contains)

/-- The trap of a report (12 R290, 17 R391): precise at the instruction, with PCOFF of the failed one. -/
def reportTrap (p : Path) (mask : Lanes) (r : Report) : Trap :=
  { trapAt p r.cls r.cause mask with
    info := r.info, offPc := r.pc
    recs := if r.cls = 0x0B then (laneList mask).map fun l => (l, BitVec.ofNat 256 r.va.toNat) else [] }

def dropReport (s : State) (gid : Nat) (r : Report) : State :=
  updGroup s gid fun g => { g with reports := g.reports.erase r }

/-- The checks of an instruction's issue, in the order of 17 R388: what stops it, or nothing. -/
inductive Check where
  | go
  | wait
  | report (r : Report)
  | trap (t : Trap)
  deriving DecidableEq, Repr

/-- DEDUCED (unsafe), log entry 20. -/
def issueCheck (g : Group) (p : Path) (i : Instr) (act : Lanes) : Check :=
  let reads := readUses i act
  match reportDue g i act with
  | some r => .report r
  | none =>
    if !chunkOk g i then .trap (trapAt p 7 1 (dueLanes p))
    else if reads.any fun u => (u.pos == 0 || !u.policy) && emptyKeys g u != [] then .wait
    else
      match reads.find? fun u => emptyKeys g u != [] with
      | some u => .trap { trapAt p 8 0 (dueLanes p) with info := emptyInfo u ((emptyKeys g u).headD 0) }
      | none =>
        if !(reads.all (latchOk p)) then .trap (trapAt p 6 0 (dueLanes p))
        else if act != 0 && i.uses.any fun u => u.writes && emptyKeys g u != [] then .wait
        else .go

/-- The value of a source in a lane: `n` registers of a lane operand (1 or 2), a scalar's 64 bits, a latch's value. -/
def srcVal (g : Group) (p : Path) (x : Src) (n l : Nat) : Long :=
  match x.file with
  | .lane => if n = 2 then vGet64 g x.reg.toNat l else (vGet g x.reg.toNat l).setWidth 64
  | .scalar => sGet g x.reg.toNat
  | .latch => ((tblFind p.latches x.reg.toNat).bind fun t => t.vals[l]?).getD 0
  | .special => 0

/-- Source B in a lane; an immediate is extended as given. -/
def bVal (g : Group) (p : Path) (b : BOpd) (n : Nat) (signed : Bool) (l : Nat) : Long :=
  match b with
  | .reg x => srcVal g p x n l
  | .imm v => if signed then v.signExtend 64 else v.setWidth 64

/-- Writes a result in the lanes that act (09 R210): `n` registers of a lane destination, or a scalar once.
DEDUCED (unsafe), log entry 21. -/
def writeDst (g : Group) (d : Dst) (n : Nat) (act : Lanes) (f : Nat → Long) : Group :=
  match d.file with
  | .lane =>
    (laneList act).foldl (fun g l =>
      if n = 2 then vSet64 g d.reg.toNat l (f l) else vSet g d.reg.toNat l ((f l).setWidth 32)) g
  | .scalar => sSet g d.reg.toNat (f (firstLane act))
  | .special | .latch => g

/-- The immediate that HOLD copies (02 R39): extended as the operand is where TYPE is 64 bits wide. -/
def holdImm (i : Instr) : Bool × Long :=
  match i.fields with
  | none => (false, 0)
  | some f =>
    let t := f.b.toNat % 256
    let o := f.opc.toNat
    let wide := (t = 0x07 || t = 0x08) && o < 0x78 && o != 0x4B
    (wide, if wide && t = 0x07 then f.up.signExtend 64 else f.up.setWidth 64)

/-- The M format's fields give a scalar base or index whole (02 R42). -/
def isMemForm (i : Instr) : Bool :=
  match i with
  | .lea .. => true
  | _ => match i.fields with | some f => 0x84 ≤ f.opc.toNat && f.opc.toNat ≤ 0x98 | none => false

/-- The latch that HOLD fills: the value read for every lane of the path (02 R39). A source of more than two registers
leaves a value that nothing is known of. DEDUCED (unsafe), log entry 20; DESIGN CHOICE (unsafe), log entry 27. -/
def holdLatch (s : State) (g : Group) (p : Path) (i : Instr) : Option (Nat × Latch × State) :=
  match i.guard with
  | none => none
  | some gd =>
    if gd.hold.sel == 0 then none
    else
      let k := gd.hold.latch.toNat
      if gd.hold.sel == 2 && i.immB then
        let (wide, v) := holdImm i
        some (k, ⟨wide, List.replicate 32 v, 2⟩, s)
      else
        match holdUse i with
        | none => none
        | some u =>
          if u.file = .lane && 2 < u.count then
            let (x, s1) := freeNext s
            some (k, ⟨true, (List.range 32).map fun l => BitVec.ofNat 64 (x >>> (64 * l)), 2⟩, s1)
          else
            let wide := u.count == 2 || (u.file = .scalar && isMemForm i)
            let src : Src := ⟨u.file, BitVec.ofNat 8 u.reg, false⟩
            let v (l : Nat) : Long :=
              let x := srcVal g p src u.count l
              if wide then x else (x.setWidth 32).setWidth 64
            some (k, ⟨wide, (List.range 32).map v, 2⟩, s)

/-- One instruction issues: the latches' lives shorten (09 R217), the replay mask is used up.
DEDUCED (unsafe), log entry 20. -/
def agePath (p : Path) : Path :=
  { p with
    latches := (p.latches.map fun e => (e.1, { e.2 with left := e.2.left - 1 })).filter fun e => e.2.left != 0
    replay := none, await := none }

/-- What an instruction holds, read at its issue (02 R39), and the state after. DEDUCED (unsafe), log entry 20. -/
def heldValue (s : State) (c : Ins) : Option (Nat × Latch) × State :=
  if c.p.await.isSome then (c.p.hold, s)
  else
    match holdLatch s c.g c.p c.i with
    | none => (none, s)
    | some (k, l, s1) => (some (k, l), s1)

/-- The path goes on at the next PC, with what the instruction holds. -/
def advance (s : State) (c : Ins) : State :=
  let (h, s1) := heldValue s c
  updGroup s1 c.gid fun g => updPath g c.p.lanes fun p => { p with
    pc := nextPc c.p.pc c.p.tail, enter := true, checked := false, hold := none
    latches := match h with
      | some (k, l) => tblPut p.latches k l
      | none => p.latches }

/-- The path is tried again later; another split has its turn first. DESIGN CHOICE (safe), log entry 5. -/
def stall (s : State) : State := { s with stalled := (s.gid, s.sp) :: s.stalled }

/-- A change of the machine lets stalled paths be tried again. DESIGN CHOICE (safe), log entry 5. -/
def wake (s : State) : State := { s with stalled := [] }

/-- A split loses its boost when it issues (16 R385). -/
def unboost (s : State) (gid sp : Nat) : State :=
  updGroup s gid fun g => { g with splits := g.splits.map fun x => if x.num = sp then { x with boost := false } else x }

/-- A return to a malformed PC, when it would take effect, is a bad-target trap at the RTE whose form applies (02 R28,
17 R393). DEDUCED (unsafe), log entry 46. -/
def badReturn (s : State) (gid : Nat) : State :=
  match (tblFind s.groups gid).bind rteForm with
  | none => s
  | some (p, a) => if rteBad a then takeTrap s gid (trapAt p 2 0 p.lanes) else s

/-- An instruction that has issued when its path begins to wait: it has arrived, or sent what it is answered (16 R385).
One that has only found that it must wait is tried again. -/
def issuesAsWaits : Instr → Bool
  | .bar .. | .launch .. | .evwait .. | .ctxstop .. | .ctxsw .. | .ctxnew .. | .racq .. | .ld .. | .atom .. | .prom ..
  | .atomf .. | .cas .. | .amaxr .. => true
  | _ => false

/-- A path whose instruction was issued before its group stopped fails in some lanes (17 R390): those are its replay
mask. A report that is taken at the end of a wait stays pending, with the wait. DEDUCED (unsafe), log entry 45;
DEDUCED (unsafe), log entry 87. -/
def failLate (s u : State) (c : Ins) (t : Trap) : State :=
  if ((tblFind u.groups c.gid).map (·.reports)) != some c.g.reports then stall s
  else wake (updGroup u c.gid fun g => updPath g c.p.lanes fun p => { p with await := none, hold := none, replay := some t.mask })

/-- The path and its group after an attempt to issue. A path that begins to wait keeps what it holds. -/
def concludeIssue (s : State) (c : Ins) (a : Act) : State :=
  let back (t : State) : State :=
    updGroup t c.gid fun g => updPath g c.p.lanes fun p => { p with latches := c.p.latches, replay := c.p.replay }
  match a with
  | .done t => wake (unboost (advance t c) c.gid c.p.split)
  | .moved t => wake (badReturn (updGroup (unboost t c.gid c.p.split) c.gid settle) c.gid)
  | .wait => stall s
  | .park t =>
    let (h, t1) := heldValue t c
    let t2 := updGroup (back t1) c.gid fun g => updPath g c.p.lanes fun p => { p with hold := h }
    stall (if c.p.await.isNone && issuesAsWaits c.i then unboost t2 c.gid c.p.split else t2)
  | .trap t u =>
    if c.g.held.isSome && c.p.await.isSome then failLate s (back u) c t
    else
    let u1 := if t.cls = 0x11 || t.cls = 0x12 then u else back u
    wake (takeTrap u1 c.gid { t with dsts := destKeys c.i })

/-- The current path of the split whose turn it is. -/
def issuing (s : State) : Option (Group × Path) :=
  match tblFind s.groups s.gid with
  | none => none
  | some g => (curPath g s.sp).map fun p => (g, p)

/-- The instruction is issued: latches age, and IDEM is cleared where R401 says so, once for one that has to wait.
DEDUCED (safe), log entry 22. -/
def issued (s : State) (c : Ins) : State :=
  updGroup s c.gid fun g =>
    { updPath g c.p.lanes agePath with idem := g.idem && (c.p.await.isSome || !clearsIdem c.i) }

/-- An instruction that waits with its destination full: another split's producer may empty it meanwhile, and it is
waited for again (09 R213). DEDUCED (unsafe), log entry 20. -/
def waitsFull : Instr → Bool
  | .pwait .. | .pcancel .. | .arrwait .. => true
  | _ => false

/-- Issues an instruction of a split: the checks of its issue, then its meaning, which acts if `always` or if a lane
acts. A path that has begun the instruction goes straight to the meaning, once what it is to write is full.
DEDUCED (unsafe), log entry 20. -/
def issueWith (always : Bool) (i : Instr) (body : Ins → State → Act) (s : State) : State :=
  match issuing s with
  | none => s
  | some (g, p) =>
    let act := actLanes g p i
    let c : Ins := ⟨s.gid, g, p, act, i⟩
    let run (_ : Unit) : State :=
      concludeIssue s c (if act = 0 && !always then .done (issued s c) else body c (issued s c))
    if p.await.isSome then
      if waitsFull i && i.uses.any (fun u => u.writes && emptyKeys g u != []) then stall s else run ()
    else
      match issueCheck g p i act with
      | .go => run ()
      | .wait => stall s
      | .report r => wake (takeTrap (dropReport s s.gid r) s.gid { reportTrap p act r with dsts := destKeys i })
      | .trap t => wake (takeTrap s s.gid { t with dsts := destKeys i })

/-- An instruction that acts only if a lane acts. -/
def issue (i : Instr) (body : Ins → State → Act) (s : State) : Host.Outcome State Fault Refusal :=
  .next (issueWith false i body s)

/-- An instruction that acts on its path whatever its predicate. -/
def issueAlways (i : Instr) (body : Ins → State → Act) (s : State) : Host.Outcome State Fault Refusal :=
  .next (issueWith true i body s)

/-- An instruction whose only effect is on its group. -/
def groupDone (s : State) (c : Ins) (f : Group → Group) : Act := .done (updGroup s c.gid f)

/-- A producer starts (09 R213): its registers are empty until it completes and writes.
DEDUCED (unsafe), log entry 29. -/
def produce (s : State) (gid : Nat) (marks : List Nat) (ws : List RegWrite) (ps : List (Nat × Lanes × Lanes)) : State :=
  let id := s.fresh
  { updGroup s gid fun g => setEmpty g marks true with
    fresh := id + 1, producers := tblPut s.producers id ⟨gid, marks, ws, ps, true⟩ }

/-- What a producer writes into the lanes that are still live (15 R361). -/
def writeReg (g : Group) (w : RegWrite) : Group :=
  match w.file with
  | .lane => (laneList (w.lanes &&& g.live)).foldl (fun g l => vSet g w.reg l ((w.vals.getD l 0).setWidth 32)) g
  | .scalar => if g.live = 0 then g else sSet g w.reg (w.vals.getD 0 0)
  | .special | .latch => g

/-- A producer completes: it writes, and its registers are full (09 R213). What it writes of predicates goes to those
in use. DEDUCED (unsafe), log entry 29; DESIGN CHOICE (unsafe), log entry 96. -/
def completeProducer (s : State) (id : Nat) : State :=
  match tblFind s.producers id with
  | none => s
  | some p =>
    let f (g : Group) : Group :=
      let g1 := p.writes.foldl writeReg g
      let g2 := p.preds.foldl (fun g e => pSet g e.1 (e.2.1 &&& g.live) e.2.2) g1
      setEmpty g2 p.marks false
    wake (updGroup { s with producers := tblDel s.producers id } p.gid f)

/-- The write of one or two registers of a lane destination, or of a scalar, by a producer. -/
def regWrites (d : Dst) (n : Nat) (act : Lanes) (f : Nat → Long) : List RegWrite :=
  match d.file with
  | .lane => (List.range n).map fun k => ⟨.lane, d.reg.toNat + k, act, (List.range 32).map fun l => (f l) >>> (32 * k)⟩
  | .scalar => [⟨.scalar, d.reg.toNat, act, [f (firstLane act)]⟩]
  | .special | .latch => []

end Sys2Proof.Machine
end

