-- ==== Sys2Proof/Machine/Spaces.lean ====
section
/-! DEFINITION. The spaces besides virtual memory: block and die scratchpad, the loft (08 R186-R188, 12 R266), their
arrival counters (08 R201-R203), and the accesses that engines make to any space (08 R185, R195). -/

namespace Sys2Proof.Machine

/-! ### Scratchpads and the loft -/

/-- Bytes of a block's scratchpad, or of the die slice's (08 R160 bounds: SPAD of the header, the carved size). -/
def scratchSize (s : State) (b : Nat) (die : Bool) : Nat :=
  match tblFind s.blocks b with
  | none => 0
  | some k =>
    if die then ((sliceOf s k.grid k.die).map (·.size)).getD 0
    else ((tblFind s.grids k.grid).map (·.hdr.spad)).getD 0

def scratchBytes (s : State) (b : Nat) (die : Bool) : Tbl Byte :=
  match tblFind s.blocks b with
  | none => []
  | some k => if die then ((sliceOf s k.grid k.die).map (·.bytes)).getD [] else k.spad

/-- n bytes of a scratchpad. -/
def scratchRead (s : State) (b : Nat) (die : Bool) (off n : Nat) : List Byte := memBytes (scratchBytes s b die) off n

/-- A 4-byte word of block scratchpad is poisoned (08 R187). -/
def scratchPoison (s : State) (b : Nat) (die : Bool) (off n : Nat) : Bool :=
  !die && ((tblFind s.blocks b).map fun k => k.poison.any fun w => off < 4 * w + 4 && 4 * w < off + n).getD false

/-- Writes bytes of a scratchpad; a word written whole loses its poison. -/
def scratchWrite (s : State) (b : Nat) (die : Bool) (off : Nat) (bs : List Byte) : State :=
  match tblFind s.blocks b with
  | none => s
  | some k =>
    if die then updDieSlice s k.grid k.die fun x => { x with bytes := memWrite x.bytes off bs }
    else
      updBlock s b fun k => { k with
        spad := memWrite k.spad off bs
        poison := k.poison.filter fun w => !(off ≤ 4 * w && 4 * w + 4 ≤ off + bs.length) }

/-- The block's loft window on a quadrant (12 R266). -/
def windowOf (s : State) (b q : Nat) : Option Window := s.windows.find? fun w => w.block = b && w.quad = q

def loftKey (q off : Nat) : Nat := q * 2 ^ 20 + off
def loftRead (s : State) (q off n : Nat) : List Byte := memBytes s.loft (loftKey q off) n

/-- The halves of poisoned 8-byte words are listed by their place in 4-byte units, each until it is written: a word
with a half listed is poisoned, and a write of both halves, in one or in two, clears it (12 R267). -/
def loftPoisoned (s : State) (q off n : Nat) : Bool :=
  (List.range ((off + n + 7) / 8 - off / 8)).any fun i =>
    let u := q * 2 ^ 18 + 2 * (off / 8 + i)
    tblGet false s.loftPoison u || tblGet false s.loftPoison (u + 1)

/-- The 8-byte word of the loft at an offset becomes poisoned (12 R267). -/
def loftSpoil (s : State) (q off : Nat) : State :=
  let u := q * 2 ^ 18 + 2 * (off / 8)
  { s with loftPoison := tblSet false (tblSet false s.loftPoison u true) (u + 1) true }

/-- Writes the loft; a half word that is written is no longer listed (12 R267). -/
def loftWrite (s : State) (q off : Nat) (bs : List Byte) : State :=
  { s with
    loft := memWrite s.loft (loftKey q off) bs
    loftPoison := s.loftPoison.filter fun e =>
      !(q * 2 ^ 20 + off ≤ 4 * e.1 && 4 * e.1 + 4 ≤ q * 2 ^ 20 + off + bs.length) }

/-! ### Arrival counters -/

def newArrival : Arrival := ⟨none, false, []⟩

/-- What the monitor holds of a counter. -/
def arrival (s : State) (b : Nat) (die : Bool) (off : Nat) : Arrival :=
  match tblFind s.blocks b with
  | none => newArrival
  | some k => tblGet newArrival (if die then ((sliceOf s k.grid k.die).map (·.arr)).getD [] else k.arr) off

def setArrival (s : State) (b : Nat) (die : Bool) (off : Nat) (a : Arrival) : State :=
  match tblFind s.blocks b with
  | none => s
  | some k =>
    if die then updDieSlice s k.grid k.die fun x => { x with arr := tblSet newArrival x.arr off a }
    else updBlock s b fun k => { k with arr := tblSet newArrival k.arr off a }

/-- A package's own sender (08 R203): a transfer's package number and context. -/
def localSender (s : State) (sender : Nat) : Bool := sender / 2 ^ 16 = s.ownPkg.toNat

/-- The counters that groups wait at, their trap frames' paths among them. DEDUCED (safe), log entry 37. -/
def waitedAt (s : State) (mine : Group → Bool) (die : Bool) : List Nat :=
  (s.groups.filter fun e => mine e.2).flatMap fun e =>
    (e.2.paths ++ (e.2.frame.map (·.paths)).getD []).filterMap fun p =>
      match p.await with
      | some (.arrival d off none) => if d = die then some off else none
      | _ => none

/-- The counters that hold a monitor entry: those with a posted target, an open credit or a waiter (08 R201).
DEDUCED (safe), log entry 37. -/
def entriesOf (arr : Tbl Arrival) (waited : List Nat) : List Nat :=
  (((arr.filter fun a => a.2.target.isSome || a.2.seen != []).map (·.1)) ++ waited).eraseDups

/-- The counters of a die slice, and of a block's scratchpad, that hold an entry. -/
def sliceEntries (s : State) (x : DieSlice) : List Nat :=
  entriesOf x.arr (waitedAt s (fun (g : Group) => g.grid = x.grid && dieOfQuad g.quad = x.die) true)
def blockEntries (s : State) (b : Nat) (k : Block) : List Nat := entriesOf k.arr (waitedAt s (fun g => g.block = b) false)

/-- The monitor has an entry for a counter: its own, or one of the 64 of the home core or 256 of the die (08 R201).
DEDUCED (safe), log entry 37. -/
def monitorRoom (s : State) (b : Nat) (die : Bool) (off : Nat) : Bool :=
  match tblFind s.blocks b with
  | none => true
  | some k =>
    if die then
      let used := (s.slices.filter fun x => x.die = k.die).map fun x => (x.grid, sliceEntries s x)
      used.any (fun e => e.1 = k.grid && e.2.contains off) || used.foldl (fun n e => n + e.2.length) 0 < 256
    else
      let used := (s.blocks.filter fun x => x.2.die = k.die && x.2.core = k.core && !x.2.saved).map fun x =>
        (x.1, blockEntries s x.1 x.2)
      used.any (fun e => e.1 = b && e.2.contains off) || used.foldl (fun n e => n + e.2.length) 0 < 64

/-- The credits that this package's packets in flight hold at a counter of a context's die slice (08 R203): sender and
sequence number. DEDUCED (unsafe), log entry 60. -/
def creditsSent (s : State) (pkg : BitVec 12) (ctx : BitVec 16) (die off : Nat) : List (Nat × Nat) :=
  (s.flights.filter fun f => f.p.dpkg = pkg && f.p.dctx = ctx && f.cnt = some (die, off)).map fun f =>
    (s.ownPkg.toNat * 2 ^ 16 + f.ctx % 2 ^ 16, f.p.seq.toNat)

/-- The open credits of a counter: those recorded with what it has counted, and those of packets on their way to it.
DEDUCED (unsafe), log entry 60. -/
def openCredits (s : State) (b : Nat) (die : Bool) (off : Nat) : Nat :=
  let seen := (arrival s b die off).seen
  let sent := match tblFind s.blocks b with
    | some k =>
      if die then
        creditsSent s s.ownPkg (BitVec.ofNat 16 (((tblFind s.grids k.grid).map fun (g : Grid) => g.ctx).getD 0)) k.die off
      else []
    | none => []
  seen.length + (sent.filter fun e => !seen.contains e).length

/-- A sender can take a credit of a counter, which lends 1,024, and have its add performed (08 R201, R203).
DEDUCED (safe), log entry 37. -/
def creditFree (s : State) (b : Nat) (die : Bool) (off : Nat) : Bool :=
  monitorRoom s b die off && openCredits s b die off < 1024

/-- A block through which a context's die slice with a counter is reached: the oldest (log entry 60).
DEDUCED (unsafe), log entry 60. -/
def remoteBlock (s : State) (ctx die off : Nat) : Option Nat :=
  (tblFirst s.blocks fun id b =>
    ((tblFind s.grids b.grid).any fun (g : Grid) => g.ctx = ctx) && b.die = die && off + 8 ≤ scratchSize s id true).map (·.1)

/-- A credit of a counter in a context of a package, this one or another, can be taken (08 R203): at most 1,024 are
lent, of which a package knows those that its own packets hold and those of its own counters. DEDUCED (unsafe), log
entry 60. -/
def remoteCredit (s : State) (pkg : BitVec 12) (ctx : BitVec 16) (die off : Nat) : Bool :=
  (creditsSent s pkg ctx die off).length < 1024 &&
    (pkg != s.ownPkg || (remoteBlock s ctx.toNat die off).all fun b => creditFree s b true off)

/-- The number that stands for the context of a sender: its own here, or one above every context's. -/
def senderCtx (s : State) (sender : Nat) : Nat := if localSender s sender then sender % 2 ^ 16 else 2 ^ 28 + sender

/-- Every path of a group, those of its trap frame too. -/
def mapPaths (g : Group) (f : Path → Path) : Group :=
  { g with paths := g.paths.map f, frame := g.frame.map fun r => { r with paths := r.paths.map f } }

/-- Every waiter at a counter is released with the count (08 R202). -/
def releaseWaiters (s : State) (b : Nat) (die : Bool) (off cnt : Nat) : State :=
  match tblFind s.blocks b with
  | none => s
  | some k =>
    let mine (g : Group) : Bool :=
      if die then g.grid = k.grid && ((tblFind s.blocks g.block).map (·.die)) = some k.die else g.block = b
    let f (p : Path) : Path :=
      if p.await = some (.arrival die off none) then { p with await := some (.arrival die off (some (BitVec.ofNat 64 cnt))) }
      else p
    { s with groups := tblMap s.groups fun _ g => if mine g then mapPaths g f else g }

/-- The monitor's rules after an ARRSET, or after the add of a transfer (08 R202): a count that reaches the target
releases the waiters, and an excess sets OVR once and sends an overrun record. DEDUCED (safe), log entry 37. -/
def monitor (s : State) (b : Nat) (die : Bool) (off : Nat) (transfer : Option (Nat × Nat)) : State :=
  let a := arrival s b die off
  let w := natOfBytes (scratchRead s b die off 8)
  let cnt := w % 2 ^ 63
  match a.target with
  | none => s
  | some t =>
    let s0 := if t.toNat ≤ cnt then releaseWaiters s b die off cnt else s
    if t.toNat < cnt && a.armed then
      let s1 := setArrival (scratchWrite s0 b die off (bytesOfNat 8 (cnt + 2 ^ 63))) b die off { a with armed := false }
      let ctx := (((tblFind s.blocks b).bind fun k => tblFind s.grids k.grid).map (·.ctx)).getD 0
      let r : FaultRec :=
        ⟨3, 0, ctx, (transfer.map (·.2)).getD 0, 0, 0, BitVec.ofNat 64 off, cnt, t.toNat % 2 ^ 32, 0, 0, 0⟩
      match transfer with
      | some (sender, _) => orderRecord s1 ctx (senderCtx s sender) r
      | none => sendRecord s1 ctx r
    else s0

/-- An add of a transfer would read a poisoned counter word (08 R187); a duplicate reads none.
DEDUCED (unsafe), log entry 94. -/
def addPoisoned (s : State) (b : Nat) (die : Bool) (off sender seq : Nat) : Bool :=
  !(arrival s b die off).seen.contains (sender, seq) && scratchPoison s b die off 8

/-- An add of a transfer's bytes, counted once by its sender and sequence number (08 R201, R203): a release at `.sys` of
those bytes (08 R194), by the agent and with the times given. -/
def arrivalAdd (s : State) (b : Nat) (die : Bool) (off n sender seq : Nat) (a : Agent) (t : Times) : State :=
  let x := arrival s b die off
  if x.seen.contains (sender, seq) then count s 34 0 1
  else
    let w := natOfBytes (scratchRead s b die off 8)
    let s1 := scratchWrite s b die off (bytesOfNat 8 (w / 2 ^ 63 * 2 ^ 63 + (w % 2 ^ 63 + n) % 2 ^ 63))
    let sp := scratchSpace s b die
    let s2 := putRels s1 sp off 8 true (carryAt sp off 8 [⟨0, 0, a, .sys, false, t⟩])
    monitor (setArrival s2 b die off { x with seen := (sender, seq) :: x.seen }) b die off (some (sender, seq))

/-- The sender closes its credit (08 R203). -/
def arrivalClose (s : State) (b : Nat) (die : Bool) (off sender seq : Nat) : State :=
  let a := arrival s b die off
  setArrival s b die off { a with seen := a.seen.filter fun e => e != (sender, seq) }

/-! ### Accesses by engines -/

/-- What stops an engine's access: a translation fault; poisoned or failed data; or bytes of the host or of a peer
device, at a machine address, that have not arrived. -/
inductive EngErr where
  | fault (f : TFault)
  | data (va : Long)
  | host (va : Long) (ma n : Nat)
  deriving DecidableEq, Repr

/-- The pieces of a range that lie in one line each. -/
def linePieces : Nat → Long → Nat → List (Long × Nat)
  | 0, _, _ => []
  | fuel + 1, va, n =>
    if n = 0 then []
    else
      let k := Nat.min n (128 - va.toNat % 128)
      (va, k) :: linePieces fuel (va + BitVec.ofNat 64 k) (n - k)

def piecesOf (va : Long) (n : Nat) : List (Long × Nat) := linePieces (n / 128 + 2) va n

/-- Free bytes: what the spec leaves undefined. DESIGN CHOICE (safe), log entry 3. -/
def freeBytes (s : State) (n : Nat) : State × List Byte :=
  let (x, s1) := freeNext s
  (s1, bytesOfNat n x)

/-- An engine's read of special memory (08 R185). Bytes of the host and of peer devices are asked for first and come
with the step that uses them (`State.arrived`), empty where their request failed. DEDUCED (unsafe), log entry 31. -/
def engSpecialRead (s : State) (w : Who) (va : Long) (ma n : Nat) (acc : Acc) : Except EngErr (State × List Byte) :=
  match regionOf s ma with
  | .stack | .tier =>
    if poisoned s ma || poisoned s (ma + n - 1) then .error (.data va) else .ok (s, memBytes s.mem ma n)
  | .host | .peer =>
    if (busAddr s ma).isNone then .error (.data va)
    else
      match s.arrived.find? fun e => e.1 = va && (e.2 = [] || n ≤ e.2.length) with
      | some e => if e.2 = [] then .error (.data va) else .ok (s, e.2.take n)
      | none => .error (.host va ma n)
  | .aliasMem | .regs | .reserved => .error (.fault (leafFault s w 0x04 va acc))

/-- An engine's read of virtual memory. -/
def vmReadPieces (w : Who) (acc : Acc) : List (Long × Nat) → State → Except EngErr (State × List Byte)
  | [], s => .ok (s, [])
  | (va, n) :: r, s =>
    let one : Except EngErr (State × List Byte) :=
      match l2ReadBytes s w va n acc with
      | .ok (s1, bs, poison) => if poison then .error (.data va) else .ok (s1, bs)
      | .error (.fault f) => .error (.fault f)
      | .error (.special ma _) => engSpecialRead (afterAccess s w va acc) w va ma n acc
    match one with
    | .error e => .error e
    | .ok (s1, bs) =>
      match vmReadPieces w acc r s1 with
      | .error e => .error e
      | .ok (s2, rest) => .ok (s2, bs ++ rest)

/-- The state after an engine's access that has failed: what its walk changed stays (04 R107). -/
def afterEng (s : State) (w : Who) : EngErr → State
  | .fault f => afterFault s w f
  | .data _ | .host .. => s

def vmRead (s : State) (w : Who) (va : Long) (n : Nat) (acc : Acc) : Except EngErr (State × List Byte) :=
  vmReadPieces w acc (piecesOf va n) s

/-- An engine's write of special memory; one to a peer window that is not bound is discarded with an orphan record (19
R441). DESIGN CHOICE (unsafe), log entry 93. -/
def engSpecialWrite (s : State) (w : Who) (va : Long) (ma : Nat) (bs : List Byte) (acc : Acc) : Except EngErr State :=
  match regionOf s ma with
  | .stack | .tier => .ok (memStore s ma bs)
  | .host | .peer =>
    match busAddr s ma with
    | some a => .ok { s with bus := s.bus ++ [.write a bs (requesterId s w.ctx)] }
    | none =>
      let p : StorePart := ⟨va, va, bs.length, 0, bs, 0, 0, w.handler, false, []⟩
      .ok (orphan s w.ctx p (orphanAccess w.ctx p 3))
  | .aliasMem | .regs | .reserved => .error (.fault (leafFault s w 0x04 va acc))

/-- An engine's write of virtual memory, piece by piece, each a plain write: what was released there before is over
(06 R146). -/
def vmWritePieces (w : Who) (acc : Acc) : List (Long × Nat) → List Byte → State → Except EngErr State
  | [], _, s => .ok s
  | (va, n) :: r, bs, s =>
    let one : Except EngErr State :=
      match l2Write s w va (bs.take n) acc false with
      | .ok s1 => .ok s1
      | .error (.fault f) => .error (.fault f)
      | .error (.special ma _) => engSpecialWrite (afterAccess s w va acc) w va ma (bs.take n) acc
    match one with
    | .error e => .error e
    | .ok s1 => vmWritePieces w acc r (bs.drop n) (putRels s1 (asidOf w.ctx va) va.toNat n false [])

def vmWrite (s : State) (w : Who) (va : Long) (bs : List Byte) (acc : Acc) : Except EngErr State :=
  vmWritePieces w acc (piecesOf va bs.length) bs s

/-- The slice offset of a loft endpoint: quadrant index in bits 24:20 (08 R186). -/
def loftEndpoint (s : State) (b : Nat) (e : Nat) : Option (Nat × Nat) :=
  match tblFind s.blocks b with
  | none => none
  | some k =>
    match k.quads[e / 2 ^ 20]? with
    | none => none
    | some q => (windowOf s b q).map fun w => (q, w.off + e % 2 ^ 20)

end Sys2Proof.Machine
end

