-- ==== Sys2Proof/Machine/Registers.lean ====
section
/-! DEFINITION. Opcodes 0x20-0x2D: moves, selection, special registers, format and scales, extended chunks, full/empty
(09 R219-R226). -/

namespace Sys2Proof.Machine

/-- An instruction whose only effect is one result in a destination of `n` registers. -/
def result (c : Ins) (s : State) (d : Dst) (n : Nat) (f : Nat → Long) : Act :=
  groupDone s c fun g => writeDst g d n c.act f

/-- A value of 32 bits in a register's low half. -/
def zx (x : Nat) : Long := BitVec.ofNat 64 (x % 2 ^ 32)

/-! ### Moves (09 R221) -/

def execMov (g : Guard) (ty : Fmt) (d : Dst) (a : Src) (s : State) : Host.Outcome State Fault Refusal :=
  issue (.mov g ty d a) (fun c s => result c s d ty.regs (srcVal c.g c.p a ty.regs)) s

def execMovi (g : Guard) (zxf : Bool) (d : Dst) (imm : BitVec 32) (s : State) : Host.Outcome State Fault Refusal :=
  issue (.movi g zxf d imm) (fun c s => result c s d 1 fun _ => if zxf then imm.setWidth 64 else imm.signExtend 64) s

def execMovhi (g : Guard) (d : Dst) (imm : BitVec 32) (s : State) : Host.Outcome State Fault Refusal :=
  issue (.movhi g d imm) (fun c s =>
    result c s d 1 fun _ => imm ++ (sGet c.g d.reg.toNat).extractLsb' 0 32) s

/-- DEDUCED (unsafe), log entry 17. -/
def execSel (g : Guard) (k : BitVec 3) (ty : Fmt) (d : Dst) (a : Src) (b : BOpd) (s : State) :
    Host.Outcome State Fault Refusal :=
  issue (.sel g k ty d a b) (fun c s =>
    result c s d ty.regs fun l =>
      if (pGet c.g k.toNat).getLsbD l then srcVal c.g c.p a ty.regs l else bVal c.g c.p b ty.regs (ty = .i64) l) s

/-! ### Predicates (09 R222) -/

def execPlop (g : Guard) (lut : BitVec 8) (pd pa pb pc : BitVec 3) (s : State) : Host.Outcome State Fault Refusal :=
  issue (.plop g lut pd pa pb pc) (fun c s =>
    let p (k : BitVec 3) (l : Nat) : Nat := one ((pGet c.g k.toNat).getLsbD l)
    groupDone s c fun g => pSet g pd.toNat c.act (laneMask fun l => lut.getLsbD (4 * p pa l + 2 * p pb l + p pc l))) s

/-- The predicates of a lane as S2P `.vr` reads them: bit 7 is p7. -/
def predByte (g : Group) (l : Nat) : Nat :=
  (List.range 8).foldl (fun n k => n + one ((pGet g k).getLsbD l) * 2 ^ k) 0

def execS2p (g : Guard) (f : S2PForm) (s : State) : Host.Outcome State Fault Refusal :=
  issue (.s2p g f) (fun c s =>
    match f with
    | .toPred pk a => groupDone s c fun g => pSet g pk.toNat c.act ((sGet c.g a.reg.toNat).setWidth 32)
    | .rev d pk => result c s d 1 fun _ => (c.act &&& pGet c.g pk.toNat).setWidth 64
    | .all a =>
      groupDone s c fun g =>
        (List.range 7).foldl (fun g k => pSet g k c.act (laneMask fun l => (vGet c.g a.reg.toNat l).getLsbD k)) g
    | .vr d => result c s d 1 fun l => BitVec.ofNat 64 (predByte c.g l)) s

/-! ### Special registers (09 R219) -/

/-- Factorisation operations that write a special register when they commit (13 R300-R302). -/
def factWrites (k : FactKind) (i : Nat) : Bool :=
  match k with
  | .lu => (0x20 ≤ i && i ≤ 0x29)
  | .chol | .qr => i = 0x28 || i = 0x29
  | .trs .. | .perm .. | .qapp _ | .norm .. => false

/-- The group's sequencer has an operation in flight that writes the register (09 R219).
DEDUCED (safe), log entry 22. -/
def factBusy (s : State) (gid q i : Nat) : Bool :=
  ((tblFind s.quads q).map fun x => x.facts.any fun o => o.gid = gid && factWrites o.kind i).getD false

/-- FEATCAP (02 R50). -/
def featcap (s : State) : Long := if s.secondTier = 0 then 0x17FF else 0x1FFF

/-- `orient` of a die: four fenced sites, its index, its rotation (01 R13). -/
def orientOf (die : Nat) : Nat := 4 * 2 ^ 12 + 4 * die + die

/-- `partmode` as a group on a die reads it (01 R18). -/
def partmodeOf (s : State) (die : Nat) : Nat :=
  s.gen % 256 * 2 ^ 8 + partitionOf s die * 2 ^ 4 + one s.busy * 8 + s.mode

/-- The position of a die among the dies of its partition (01 R21). -/
def dieIndex (s : State) (die : Nat) : Nat := if s.mode = 1 then die else if s.mode = 2 then die % 2 else 0

/-- A coordinate of the group's block; a coach has none (15 R370). -/
def blockCoord (s : State) (g : Group) (axis : Nat) : Nat :=
  match blockOf s g, gridOf s g with
  | some b, some gr =>
    if b.coach then 0xFFFFFFFF
    else
      match axis with
      | 0 => b.index % gr.desc.gx
      | 1 => b.index / gr.desc.gx % gr.desc.gy
      | _ => b.index / gr.desc.gx / gr.desc.gy
  | _, _ => 0

/-- The value of a special register for a lane of a path (09 R219). -/
def specialVal (s : State) (g : Group) (p : Path) (i l : Nat) : Long :=
  let die := dieOfQuad g.quad
  let ctx := ctxOf s g
  let gr := gridOf s g
  match i with
  | 0x00 => BitVec.ofNat 64 l
  | 0x01 => BitVec.ofNat 64 g.idx
  | 0x02 => BitVec.ofNat 64 p.split
  | 0x03 => zx (blockCoord s g 0)
  | 0x04 => zx (blockCoord s g 1)
  | 0x05 => zx (blockCoord s g 2)
  | 0x06 => BitVec.ofNat 64 (dieIndex s die)
  | 0x07 => zx ((gr.map (·.seq)).getD 0)
  | 0x08 => BitVec.ofNat 64 ((gr.map (·.depth)).getD 0)
  | 0x09 => BitVec.ofNat 64 (ctx % 2 ^ 16)
  | 0x10 => p.fmt.setWidth 64
  | 0x19 => BitVec.ofNat 64 g.nbv
  | 0x28 => g.grow.setWidth 64
  | 0x29 => g.tstate.setWidth 64
  | 0x30 => g.fltmask.setWidth 64
  | 0x31 => g.fltrec
  | 0x38 => BitVec.ofInt 64 (((tblFind s.ctxs ctx).map (·.purse)).getD 0)
  | 0x39 => BitVec.ofNat 64 s.clock
  | 0x3A => featcap s
  | 0x3B => 0
  | 0x3C => BitVec.ofNat 64 (orientOf die)
  | 0x3D => BitVec.ofNat 64 (partmodeOf s die)
  | i =>
    if 0x11 ≤ i && i ≤ 0x18 then (tblGet 0x3F800000 g.scl (i - 0x11)).setWidth 64
    else g.perm.getD (i - 0x20) 0

def execGetc (g : Guard) (hi : Bool) (d : Dst) (idx : BitVec 8) (s : State) : Host.Outcome State Fault Refusal :=
  issue (.getc g hi d idx) (fun c s =>
    if factBusy s c.gid c.g.quad idx.toNat then .wait
    else
      result c s d 1 fun l =>
        let x := specialVal s c.g c.p idx.toNat l
        if hi then x >>> 32 else x) s

/-- Writes a special register of a group, or of the path for `fmt`. -/
def specialSet (g : Group) (p : Path) (i : Nat) (x : Long) : Group :=
  if i = 0x10 then updPath g p.lanes fun p => { p with fmt := x.setWidth 32 }
  else if 0x11 ≤ i && i ≤ 0x18 then { g with scl := tblSet 0x3F800000 g.scl (i - 0x11) (x.setWidth 32) }
  else if i = 0x28 then { g with grow := x.setWidth 32 }
  else if i = 0x29 then { g with tstate := x.setWidth 32 }
  else if i = 0x30 then { g with fltmask := x.setWidth 32 }
  else { g with perm := g.perm.set (i - 0x20) x }

/-- What SETC writes: a 64-bit register takes a scalar whole, and a lane's 32 bits, or a latch's, into one half (09
R221). DEDUCED (unsafe), log entry 17. -/
def setcVal (old x : Long) (i : Nat) (hi scalar : Bool) : Long :=
  if !specialWide i || scalar then x
  else if hi then x.extractLsb' 0 32 ++ old.extractLsb' 0 32
  else old.extractLsb' 32 32 ++ x.extractLsb' 0 32

/-- DEDUCED (unsafe), log entry 17. -/
def execSetc (g : Guard) (hi : Bool) (idx : BitVec 8) (a : Src) (s : State) : Host.Outcome State Fault Refusal :=
  issue (.setc g hi idx a) (fun c s =>
    let i := idx.toNat
    if factBusy s c.gid c.g.quad i then .wait
    else
      let l := firstLane c.act
      let x := setcVal (specialVal s c.g c.p i l) (srcVal c.g c.p a 1 l) i hi (a.file = .scalar)
      if i = 0x10 && !fmtValid (x.setWidth 32) then .trap (c.trap 6 0) s
      else groupDone s c fun g => specialSet g c.p i x) s

/-! ### Format and scales (09 R223) -/

def execSetfmt (g : Guard) (mask : Option Src) (b : BOpd) (s : State) : Host.Outcome State Fault Refusal :=
  issue (.setfmt g mask b) (fun c s =>
    let y : Word := (bVal c.g c.p b 1 false 0).setWidth 32
    let x : Word :=
      match mask with
      | none => y
      | some a =>
        let m : Word := (srcVal c.g c.p a 1 0).setWidth 32
        (c.p.fmt &&& ~~~m) ||| (y &&& m)
    if !fmtValid x then .trap (c.trap 6 0) s else groupDone s c fun g => updPath g c.p.lanes fun p => { p with fmt := x }) s

def execSetscl (g : Guard) (k : BitVec 3) (b : BOpd) (s : State) : Host.Outcome State Fault Refusal :=
  issue (.setscl g k b) (fun c s =>
    groupDone s c fun g =>
      { g with scl := tblSet 0x3F800000 g.scl k.toNat ((bVal c.g c.p b 1 false 0).setWidth 32) }) s

/-! ### Extended chunks (09 R211, R224, R225) -/

/-- Chunks set in a mask. -/
def chunkCount (m : BitVec 6) : Nat := ((List.range 6).filter fun i => m.getLsbD i).length

/-- Free chunks of a quadrant's pool. -/
def poolFree (s : State) (q : Nat) : Nat :=
  let gs := s.groups.filter fun e => e.2.quad = q
  let base := gs.foldl (fun n e => n + e.2.regbase) 0
  let held := gs.foldl (fun n e => n + chunkCount e.2.chunks) 0
  (2048 - base) / 32 - held

/-- The lane registers of the chunks of a mask. -/
def inChunks (m : BitVec 6) (r : Nat) : Bool := 64 ≤ r && r < 256 && m.getLsbD ((r - 64) / 32)

/-- A group's registers of the chunks of a mask are as new: they read zero and full. -/
def clearChunks (g : Group) (m : BitVec 6) : Group :=
  { g with
    v := g.v.filter fun e => !inChunks m (e.1 / 32)
    empty := g.empty.filter fun e => !(e.1 < 256 && inChunks m e.1) }

/-- Chunks are granted to a group. -/
def grantChunks (s : State) (gid : Nat) (m : BitVec 6) : State :=
  updGroup s gid fun g => { clearChunks g m with chunks := m }

def execRacq (g : Guard) (try_ : Bool) (mask : BitVec 6) (pd : BitVec 3) (s : State) : Host.Outcome State Fault Refusal :=
  issue (.racq g try_ mask pd) (fun c s =>
    let q := c.g.quad
    let wr (s : State) (ok : Bool) : Act :=
      groupDone s c fun g => if try_ then pSet g pd.toNat c.act (if ok then allLanes else 0) else g
    let waiting := tblGet [] s.chunkQ q
    if c.p.await = some .racq then
      -- the head of the quadrant's requests was granted by a CHUNK_GRANT
      if waiting.any (fun e => e.1 = c.gid) then .wait else .done s
    else if mask = 0 then wr s true
    else if c.g.regext < chunkCount mask then .trap (c.trap 7 4) s
    else if c.g.chunks != 0 then .trap (c.trap 7 2) s
    else if c.g.splits.length != 1 then .trap (c.trap 7 3) s
    else if waiting = [] && chunkCount mask ≤ poolFree s q then wr (grantChunks s c.gid mask) true
    else if try_ then wr s false
    else
      .park { updGroup s c.gid fun g => updPath g c.p.lanes fun p => { p with await := some .racq } with
        chunkQ := tblSet [] s.chunkQ q (waiting ++ [(c.gid, mask)]) }) s

def execRrel (g : Guard) (mask : BitVec 6) (s : State) : Host.Outcome State Fault Refusal :=
  issue (.rrel g mask) (fun c s =>
    let m := mask &&& c.g.chunks
    if c.g.splits.length != 1 then .trap (c.trap 7 3) s
    else if c.g.empty.any fun e => e.1 < 256 && inChunks m e.1 then .wait
    else groupDone s c fun g => { clearChunks g m with chunks := g.chunks &&& ~~~m }) s

/-! ### Full and empty (09 R226) -/

/-- Every register that reads empty among n from one, or of the whole group. -/
def anyEmpty (g : Group) (r : Option (Src × BitVec 5)) : Bool :=
  match r with
  | none => !g.empty.isEmpty
  | some (a, n) => (List.range (n.toNat + 1)).any fun k => isEmpty g (regKey a.file (a.reg.toNat + k))

def execFewait (g : Guard) (r : Option (Src × BitVec 5)) (s : State) : Host.Outcome State Fault Refusal :=
  issue (.fewait g r) (fun c s => if anyEmpty c.g r then .wait else .done s) s

def execFechk (g : Guard) (pd : BitVec 3) (a : Src) (n : BitVec 5) (s : State) : Host.Outcome State Fault Refusal :=
  issue (.fechk g pd a n) (fun c s =>
    groupDone s c fun g => pSet g pd.toNat c.act (if anyEmpty c.g (some (a, n)) then 0 else allLanes)) s

end Sys2Proof.Machine
end

