-- ==== Sys2Proof/Machine/Integer.lean ====
section
/-! DEFINITION. Opcodes 0x30-0x4C: the integer and address instructions (10 R227-R237). -/

namespace Sys2Proof.Machine

/-! ### Operands and results (10 R227, 03 R61) -/

/-- The width of an integer TYPE, and whether it is signed. -/
def intN (t : Fmt) : Nat := if t.wide then 64 else 32
def intSigned (t : Fmt) : Bool := t = .i32 || t = .i64

/-- An operand read as an integer of the TYPE. -/
def readInt (t : Fmt) (x : Long) : Int := intOf (intN t) (intSigned t) x.toNat

/-- An operand's n bits. -/
def readNat (t : Fmt) (x : Long) : Nat := x.toNat % 2 ^ intN t

/-- A number written as an n-bit format and extended (03 R61). -/
def extInt (n : Nat) (signed : Bool) (x : Int) : Long := BitVec.ofInt 64 (intOf n signed (truncInt n x))

/-- The three operands of an integer instruction in a lane; B may be an immediate. -/
def intA (c : Ins) (t : Fmt) (a : Src) (l : Nat) : Long := srcVal c.g c.p a t.regs l
def intB (c : Ins) (t : Fmt) (b : BOpd) (l : Nat) : Long := bVal c.g c.p b t.regs (intSigned t) l

/-- The result of an integer instruction (10 R228), written in the low bits of its destination. -/
def intResult (c : Ins) (s : State) (t : Fmt) (d : Dst) (f : Nat → Int) : Act :=
  result c s d t.regs fun l => extInt (intN t) (intSigned t) (f l)

/-- `sat` to the range of the TYPE's format. -/
def satInt (t : Fmt) (x : Int) : Int := clampInt x (intMin (intN t) (intSigned t)) (intMax (intN t) (intSigned t))

/-! ### The operations (10 R231-R234) -/

/-- Quotient and remainder of IDIV (10 R233). -/
def divInt (t : Fmt) (a b : Int) : Int := if b = 0 then (if intSigned t then -1 else intMax (intN t) false) else a.tdiv b
def remInt (a b : Int) : Int := if b = 0 then a else a.tmod b

/-- The range of ISAT's target. -/
def isatFmt (tgt : Fin 6) : Nat × Bool :=
  match tgt with
  | 0 => (8, true) | 1 => (8, false) | 2 => (16, true) | 3 => (16, false) | 4 => (32, true) | _ => (32, false)

/-- LOP3 (10 R234). -/
def lop3 (lut : BitVec 8) (a b c : Long) : Long :=
  (List.range 8).foldl (fun x k =>
    if lut.getLsbD k then
      x ||| ((if k % 2 = 1 then a else ~~~a) &&& (if k / 2 % 2 = 1 then b else ~~~b) &&& (if k / 4 = 1 then c else ~~~c))
    else x) 0

/-- A shift count. -/
def shiftCount (wrap : Bool) (n : Nat) (b : Long) : Nat := if wrap then b.toNat % n else b.toNat % 2 ^ 32

def shlNat (n a k : Nat) : Nat := if n ≤ k then 0 else a * 2 ^ k
def shrNat (n a k : Nat) : Nat := if n ≤ k then 0 else a / 2 ^ k

/-- FSHF (10 R234). -/
def fshf (right : Bool) (n a b k : Nat) : Nat :=
  let x := a * 2 ^ n + b
  if right then x / 2 ^ k else x * 2 ^ k / 2 ^ n

/-- Position and length of a field operand. -/
def fieldPos (n : Nat) (b : Long) : Nat := Nat.min (bits b.toNat 7 0) n
def fieldLen (n : Nat) (b : Long) : Nat := Nat.min (bits b.toNat 15 8) n

/-- BFE (10 R234). -/
def bfe (t : Fmt) (a : Long) (b : Long) : Int :=
  let n := intN t
  let len := fieldLen n b
  let f := truncInt len (readInt t a / 2 ^ fieldPos n b)
  if len = 0 then 0 else intOf len (intSigned t) f

/-- BFI (10 R234). -/
def bfi (n a c pos len : Nat) : Nat :=
  let hole := c / 2 ^ (pos + len) * 2 ^ (pos + len) + c % 2 ^ pos
  (hole + a % 2 ^ len * 2 ^ pos) % 2 ^ n

/-- Ones of an n-bit value, and zeros above its highest one. -/
def popCount (n x : Nat) : Nat := ((List.range n).filter fun i => bit x i).length
def leadZeros (n x : Nat) : Nat := if x = 0 then n else n - 1 - Nat.log2 x

/-- An n-bit value with its bits reversed. -/
def bitRev (n x : Nat) : Nat := (List.range n).foldl (fun r i => r + one (bit x i) * 2 ^ (n - 1 - i)) 0

/-- PRMT (10 R234). -/
def prmt (a sel c : Nat) : Nat :=
  (List.range 4).foldl (fun r j =>
    let s := bits sel (4 * j + 3) (4 * j)
    let x := (c % 2 ^ 32 * 2 ^ 32 + a % 2 ^ 32) / 2 ^ (8 * (s % 8)) % 256
    r + (if 8 ≤ s then (if 128 ≤ x then 255 else 0) else x) * 2 ^ (8 * j)) 0

/-- Byte i of a word, signed or not. -/
def byteInt (signed : Bool) (x i : Nat) : Int := intOf 8 signed (x / 2 ^ (8 * i))

/-- IDOT4's sum (10 R231). -/
def dot4 (ua ub : Bool) (a b : Nat) (c : Int) : Int :=
  (List.range 4).foldl (fun x i => x + byteInt (!ua) a i * byteInt (!ub) b i) c

/-- A comparison of two integers. -/
def cmpInt (cc : Cmp) (a b : Int) : Bool :=
  match cc with
  | .eq => a = b | .ne => a != b | .lt => a < b | .le => a ≤ b | .gt => b < a | .ge => b ≤ a

/-- The write of ICMP, FCMP and FCLASS (10 R236): the test combined with the other predicate. -/
def predWrite (c : Ins) (s : State) (w : PredWrite) (t : Nat → Bool) : Act :=
  let q := predLanes c.g w.q
  groupDone s c fun g => pSet g w.pd.toNat c.act (laneMask fun l =>
    match w.comb.toNat with
    | 0 => t l
    | 1 => t l && q.getLsbD l
    | 2 => t l || q.getLsbD l
    | _ => t l != q.getLsbD l)

/-! ### The instructions -/

def execIadd (g : Guard) (sat : Bool) (ty : Fmt) (d : Dst) (a : Src) (b : BOpd) (s : State) :
    Host.Outcome State Fault Refusal :=
  issue (.iadd g sat ty d a b) (fun c s => intResult c s ty d fun l =>
    let x := readInt ty (intA c ty a l) + readInt ty (intB c ty b l)
    if sat then satInt ty x else x) s

def execIadd3 (g : Guard) (ty : Fmt) (d : Dst) (a : Src) (b : BOpd) (cc : Src) (s : State) :
    Host.Outcome State Fault Refusal :=
  issue (.iadd3 g ty d a b cc) (fun c s => intResult c s ty d fun l =>
    readInt ty (intA c ty a l) + readInt ty (intB c ty b l) + readInt ty (intA c ty cc l)) s

def execIaddc (g : Guard) (ty : Fmt) (d : Dst) (a : Src) (b : BOpd) (cin : Pred) (cout : BitVec 3) (s : State) :
    Host.Outcome State Fault Refusal :=
  issue (.iaddc g ty d a b cin cout) (fun c s =>
    let n := intN ty
    let sum (l : Nat) : Nat :=
      readNat ty (intA c ty a l) + readNat ty (intB c ty b l) + one ((predLanes c.g cin).getLsbD l)
    let carry : Lanes :=
      if d.file = .scalar then (if 2 ^ n ≤ sum (firstLane c.act) then allLanes else 0)
      else laneMask fun l => 2 ^ n ≤ sum l
    groupDone s c fun g =>
      pSet (writeDst g d ty.regs c.act fun l => extInt n (intSigned ty) (sum l)) cout.toNat c.act carry) s

def execIsub (g : Guard) (sat : Bool) (ty : Fmt) (d : Dst) (a : Src) (b : BOpd) (s : State) :
    Host.Outcome State Fault Refusal :=
  issue (.isub g sat ty d a b) (fun c s => intResult c s ty d fun l =>
    let x := readInt ty (intA c ty a l) - readInt ty (intB c ty b l)
    if sat then satInt ty x else x) s

def execImul (g : Guard) (ty : Fmt) (d : Dst) (a : Src) (b : BOpd) (s : State) : Host.Outcome State Fault Refusal :=
  issue (.imul g ty d a b) (fun c s => intResult c s ty d fun l =>
    readInt ty (intA c ty a l) * readInt ty (intB c ty b l)) s

def execImulhi (g : Guard) (ty : Fmt) (d : Dst) (a : Src) (b : BOpd) (s : State) : Host.Outcome State Fault Refusal :=
  issue (.imulhi g ty d a b) (fun c s => intResult c s ty d fun l =>
    (readInt ty (intA c ty a l) * readInt ty (intB c ty b l)) / 2 ^ intN ty) s

def execImad (g : Guard) (ty : Fmt) (d : Dst) (a : Src) (b : BOpd) (cc : Src) (s : State) :
    Host.Outcome State Fault Refusal :=
  issue (.imad g ty d a b cc) (fun c s => intResult c s ty d fun l =>
    readInt ty (intA c ty a l) * readInt ty (intB c ty b l) + readInt ty (intA c ty cc l)) s

def execImadw (g : Guard) (ty : Fmt) (d : Dst) (a : Src) (b : BOpd) (cc : Src) (s : State) :
    Host.Outcome State Fault Refusal :=
  issue (.imadw g ty d a b cc) (fun c s => result c s d 2 fun l =>
    extInt 64 true (readInt ty (intA c ty a l) * readInt ty (intB c ty b l) + (srcVal c.g c.p cc 2 l).toInt)) s

def execIdiv (g : Guard) (rem : Bool) (ty : Fmt) (d : Dst) (a : Src) (b : BOpd) (s : State) :
    Host.Outcome State Fault Refusal :=
  issue (.idiv g rem ty d a b) (fun c s => intResult c s ty d fun l =>
    let x := readInt ty (intA c ty a l)
    let y := readInt ty (intB c ty b l)
    if rem then remInt x y else divInt ty x y) s

def execImin (g : Guard) (ty : Fmt) (d : Dst) (a : Src) (b : BOpd) (s : State) : Host.Outcome State Fault Refusal :=
  issue (.imin g ty d a b) (fun c s => intResult c s ty d fun l =>
    min (readInt ty (intA c ty a l)) (readInt ty (intB c ty b l))) s

def execImax (g : Guard) (ty : Fmt) (d : Dst) (a : Src) (b : BOpd) (s : State) : Host.Outcome State Fault Refusal :=
  issue (.imax g ty d a b) (fun c s => intResult c s ty d fun l =>
    max (readInt ty (intA c ty a l)) (readInt ty (intB c ty b l))) s

def execIabs (g : Guard) (sat : Bool) (ty : Fmt) (d : Dst) (a : Src) (s : State) : Host.Outcome State Fault Refusal :=
  issue (.iabs g sat ty d a) (fun c s => intResult c s ty d fun l =>
    let x : Int := (readInt ty (intA c ty a l)).natAbs
    if sat then satInt ty x else x) s

def execIsad (g : Guard) (ty : Fmt) (d : Dst) (a : Src) (b : BOpd) (cc : Src) (s : State) :
    Host.Outcome State Fault Refusal :=
  issue (.isad g ty d a b cc) (fun c s => intResult c s ty d fun l =>
    ((readInt ty (intA c ty a l) - readInt ty (intB c ty b l)).natAbs : Int) + readInt ty (intA c ty cc l)) s

def execIsat (g : Guard) (tgt : Fin 6) (ty : Fmt) (d : Dst) (a : Src) (s : State) : Host.Outcome State Fault Refusal :=
  issue (.isat g tgt ty d a) (fun c s =>
    let (n, sg) := isatFmt tgt
    result c s d 1 fun l => extInt n sg (clampInt (readInt ty (intA c ty a l)) (intMin n sg) (intMax n sg))) s

def execLop3 (g : Guard) (ty : Fmt) (d : Dst) (a b cc : Src) (lut : BitVec 8) (s : State) :
    Host.Outcome State Fault Refusal :=
  issue (.lop3 g ty d a b cc lut) (fun c s => intResult c s ty d fun l =>
    ((lop3 lut (intA c ty a l) (intA c ty b l) (intA c ty cc l)).toNat : Int)) s

def execShl (g : Guard) (wrap : Bool) (ty : Fmt) (d : Dst) (a : Src) (b : BOpd) (s : State) :
    Host.Outcome State Fault Refusal :=
  issue (.shl g wrap ty d a b) (fun c s => intResult c s ty d fun l =>
    (shlNat (intN ty) (readNat ty (intA c ty a l)) (shiftCount wrap (intN ty) (intB c ty b l)) : Int)) s

def execShr (g : Guard) (wrap : Bool) (ty : Fmt) (d : Dst) (a : Src) (b : BOpd) (s : State) :
    Host.Outcome State Fault Refusal :=
  issue (.shr g wrap ty d a b) (fun c s => intResult c s ty d fun l =>
    (shrNat (intN ty) (readNat ty (intA c ty a l)) (shiftCount wrap (intN ty) (intB c ty b l)) : Int)) s

def execSar (g : Guard) (wrap : Bool) (ty : Fmt) (d : Dst) (a : Src) (b : BOpd) (s : State) :
    Host.Outcome State Fault Refusal :=
  issue (.sar g wrap ty d a b) (fun c s => intResult c s ty d fun l =>
    let n := intN ty
    intOf n true (intA c ty a l).toNat / 2 ^ Nat.min n (shiftCount wrap n (intB c ty b l))) s

def execFshf (g : Guard) (right wrap : Bool) (ty : Fmt) (d : Dst) (a : Src) (b : BOpd) (cc : Src) (s : State) :
    Host.Outcome State Fault Refusal :=
  issue (.fshf g right wrap ty d a b cc) (fun c s => intResult c s ty d fun l =>
    let n := intN ty
    (fshf right n (readNat ty (intA c ty a l)) (readNat ty (intB c ty b l))
      (Nat.min n (shiftCount wrap n (intA c ty cc l))) : Int)) s

def execBfe (g : Guard) (ty : Fmt) (d : Dst) (a : Src) (b : BOpd) (s : State) : Host.Outcome State Fault Refusal :=
  issue (.bfe g ty d a b) (fun c s => intResult c s ty d fun l => bfe ty (intA c ty a l) (intB c ty b l)) s

def execBfi (g : Guard) (ty : Fmt) (d : Dst) (a : Src) (b : BOpd) (cc : Src) (s : State) :
    Host.Outcome State Fault Refusal :=
  issue (.bfi g ty d a b cc) (fun c s => intResult c s ty d fun l =>
    let n := intN ty
    let y := intB c ty b l
    (bfi n (readNat ty (intA c ty a l)) (readNat ty (intA c ty cc l)) (fieldPos n y) (fieldLen n y) : Int)) s

def execBmsk (g : Guard) (ty : Fmt) (d : Dst) (a : Src) (b : BOpd) (s : State) : Host.Outcome State Fault Refusal :=
  issue (.bmsk g ty d a b) (fun c s => intResult c s ty d fun l =>
    let n := intN ty
    let pos := Nat.min ((intA c ty a l).toNat % 2 ^ 32) n
    let len := Nat.min ((intB c ty b l).toNat % 2 ^ 32) n
    ((2 ^ len - 1) * 2 ^ pos : Nat)) s

def execPopc (g : Guard) (ty : Fmt) (d : Dst) (a : Src) (s : State) : Host.Outcome State Fault Refusal :=
  issue (.popc g ty d a) (fun c s => result c s d 1 fun l =>
    BitVec.ofNat 64 (popCount (intN ty) (readNat ty (intA c ty a l)))) s

def execClz (g : Guard) (ty : Fmt) (d : Dst) (a : Src) (s : State) : Host.Outcome State Fault Refusal :=
  issue (.clz g ty d a) (fun c s => result c s d 1 fun l =>
    BitVec.ofNat 64 (leadZeros (intN ty) (readNat ty (intA c ty a l)))) s

def execBrev (g : Guard) (ty : Fmt) (d : Dst) (a : Src) (s : State) : Host.Outcome State Fault Refusal :=
  issue (.brev g ty d a) (fun c s => intResult c s ty d fun l =>
    (bitRev (intN ty) (readNat ty (intA c ty a l)) : Int)) s

def execPrmt (g : Guard) (d : Dst) (a : Src) (b : BOpd) (cc : Src) (s : State) : Host.Outcome State Fault Refusal :=
  issue (.prmt g d a b cc) (fun c s => result c s d 1 fun l =>
    BitVec.ofNat 64 (prmt (intA c .bits a l).toNat (intB c .bits b l).toNat (intA c .bits cc l).toNat)) s

def execIcmp (g : Guard) (cc : Cmp) (ty : Fmt) (a : Src) (b : BOpd) (w : PredWrite) (s : State) :
    Host.Outcome State Fault Refusal :=
  issue (.icmp g cc ty a b w) (fun c s => predWrite c s w fun l =>
    cmpInt cc (readInt ty (intA c ty a l)) (readInt ty (intB c ty b l))) s

def execIdot4 (g : Guard) (ub sat : Bool) (ty : Fmt) (d : Dst) (a : Src) (b : BOpd) (cc : Src) (s : State) :
    Host.Outcome State Fault Refusal :=
  issue (.idot4 g ub sat ty d a b cc) (fun c s => intResult c s .i32 d fun l =>
    let x := dot4 (ty = .u8x4) ub (intA c ty a l).toNat (intB c ty b l).toNat (readInt .i32 (intA c ty cc l))
    if sat then satInt .i32 x else x) s

/-- The address of a memory operand for a lane (02 R42). -/
def memAddr (g : Group) (p : Path) (m : MemOpd) (l : Nat) : Long :=
  let base := srcVal g p m.base 2 l
  match m.idx with
  | .off o => base + o.signExtend 64
  | .reg i scale isx off =>
    let x := srcVal g p i 1 l
    let idx := if i.file = .scalar then x else if isx then (x.setWidth 32).signExtend 64 else x
    base + idx * BitVec.ofNat 64 (2 ^ scale.val) + off.signExtend 64

def execLea (g : Guard) (d : Dst) (m : MemOpd) (s : State) : Host.Outcome State Fault Refusal :=
  issue (.lea g d m) (fun c s => result c s d 2 (memAddr c.g c.p m)) s

end Sys2Proof.Machine
end

