-- ==== Sys2Proof/Machine/Control.lean ====
section
/-! DEFINITION. Opcodes 0x00-0x0E: transfers of control, merges, barriers and EXIT (15 R352-R364). -/

namespace Sys2Proof.Machine

/-! ### Transfers (15 R359) -/

/-- A B-format target (02 R43). -/
def targetPc (pc : Long) (t : Target) : Long :=
  BitVec.ofNat 64 (pc.toNat / 64 * 64) + (t.disp.signExtend 64) * 64 + BitVec.ofNat 64 t.slot.val

/-- The lanes in `act` go to their destinations and the others to the next PC; a malformed destination traps before
anything is written (15 R359). `f` is the other effect. -/
def go (c : Ins) (s : State) (dest : Nat → Long) (f : Group → Group) : Act :=
  let next := nextPc c.p.pc c.p.tail
  let d (l : Nat) : Long := if c.act.getLsbD l then dest l else next
  let bad := laneMask fun l => c.act.getLsbD l && badPc (dest l)
  if bad != 0 then .trap (trapAt c.p 2 0 bad) s
  else .moved (updGroup s c.gid fun g => transfer (f g) (agePath c.p) d)

/-- The link of CALL and CALLI, in the lanes that act. -/
def setLink (c : Ins) (d : Dst) (g : Group) : Group := writeDst g d 2 c.act fun _ => nextPc c.p.pc c.p.tail

def execNop (g : Guard) (s : State) : Host.Outcome State Fault Refusal :=
  issue (.nop g) (fun _ s => .done s) s

def execBra (g : Guard) (t : Target) (s : State) : Host.Outcome State Fault Refusal :=
  issue (.bra g t) (fun c s => go c s (fun _ => targetPc c.p.pc t) id) s

def execBri (g : Guard) (a : Src) (s : State) : Host.Outcome State Fault Refusal :=
  issue (.bri g a) (fun c s => go c s (srcVal c.g c.p a 2) id) s

def execRet (g : Guard) (a : Src) (s : State) : Host.Outcome State Fault Refusal :=
  issue (.ret g a) (fun c s => go c s (srcVal c.g c.p a 2) id) s

def execBrx (g : Guard) (t : Target) (b cc : Src) (s : State) : Host.Outcome State Fault Refusal :=
  issue (.brx g t b cc) (fun c s =>
    go c s (fun l =>
      let i := (srcVal c.g c.p b 1 l).toNat % 2 ^ 32
      if i < (srcVal c.g c.p cc 1 l).toNat % 2 ^ 32 then targetPc c.p.pc t + BitVec.ofNat 64 (64 * i)
      else nextPc c.p.pc c.p.tail) id) s

def execCall (g : Guard) (d : Dst) (t : Target) (s : State) : Host.Outcome State Fault Refusal :=
  issue (.call g d t) (fun c s => go c s (fun _ => targetPc c.p.pc t) (setLink c d)) s

def execCalli (g : Guard) (d : Dst) (a : Src) (s : State) : Host.Outcome State Fault Refusal :=
  issue (.calli g d a) (fun c s => go c s (srcVal c.g c.p a 2) (setLink c d)) s

def execLoop (g : Guard) (d : Dst) (t : Target) (s : State) : Host.Outcome State Fault Refusal :=
  issue (.loop g d t) (fun c s =>
    let old (l : Nat) : Long := if d.file = .scalar then sGet c.g d.reg.toNat else (vGet c.g d.reg.toNat l).setWidth 64
    let n (l : Nat) : Nat := ((old l).toNat + 2 ^ 32 - 1) % 2 ^ 32
    go c s (fun l => if n l = 0 then nextPc c.p.pc c.p.tail else targetPc c.p.pc t)
      (fun g => writeDst g d 1 c.act fun l => BitVec.ofNat 64 (n l))) s

/-- YIELD: the current path goes to the tail of its split's list, if another waits in it, and the split is ranked last
for a cycle (15 R359). -/
def execYield (g : Guard) (s : State) : Host.Outcome State Fault Refusal :=
  issue (.yield g) (fun c s =>
    let next := nextPc c.p.pc c.p.tail
    let rotate (g : Group) : Group :=
      let p1 : Path := { agePath c.p with pc := next, enter := true, checked := false }
      let rest := g.paths.filter fun q => q.lanes != c.p.lanes
      if rest.any fun q => q.split = c.p.split && q.status = .queued then
        { g with paths := rest ++ [{ p1 with status := .queued }] }
      else updPath g c.p.lanes fun _ => p1
    .moved (updGroup s c.gid fun g =>
      { rotate g with
        splits := g.splits.map fun x => if x.num = c.p.split then { x with yielded := true } else x })) s

/-! ### Merges (15 R354, R355, R360) -/

/-- JOIN by some of a path's lanes: a divergence whose first part parks at T. -/
def joinSome (g : Group) (p : Path) (act : Lanes) (t next : Long) : Group :=
  let a : Path := { p with lanes := act, pc := t, enter := true, checked := true, replay := none, await := none }
  let b : Path := { a with lanes := p.lanes &&& ~~~act, pc := next, checked := false }
  let (x, y) := if firstLane act < firstLane b.lanes then (a, b) else (b, a)
  let g1 := updPath g p.lanes fun _ => x
  let g2 := placePaths { g1 with families := g1.families ++ [⟨p.lanes, p.fmt⟩] } [y]
  park g2 act t (.join t)

def execJoin (g : Guard) (t : Target) (s : State) : Host.Outcome State Fault Refusal :=
  issue (.join g t) (fun c s =>
    let pc := targetPc c.p.pc t
    .moved (updGroup s c.gid fun g =>
      if c.act = c.p.lanes then park g c.p.lanes pc (.join pc)
      else joinSome g (agePath c.p) c.act pc (nextPc c.p.pc c.p.tail))) s

/-- WSYNC acts for the whole path unless its predicate is !p7 (15 R360). -/
def execWsync (g : Guard) (s : State) : Host.Outcome State Fault Refusal :=
  issueAlways (.wsync g) (fun c s =>
    if g.pred.neg && g.pred.idx == 7 then .done s
    else if c.g.paths.length = 1 && c.g.families.all fun f => f.lanes &&& c.g.live == 0 then
      groupDone s c fun g => updPath g c.p.lanes fun p => { p with latches := [] }
    else .moved (updGroup s c.gid fun g => park g c.p.lanes (nextPc c.p.pc c.p.tail) .wsync)) s

/-! ### Barriers (15 R362-R364) -/

/-- The lanes of a group arrive. -/
def arriveAt (x : Barrier) (gid : Nat) (act : Lanes) (n : Nat) : Barrier :=
  { x with
    count := some (x.count.getD n)
    arrived := tblSet 0 x.arrived gid (tblGet 0 x.arrived gid ||| act)
    last := (laneList act).foldl (fun t l => tblPut t (32 * gid + l) x.phase) x.last }

/-- The lanes that have arrived in the phase that is still open: they arrive again only in the next. -/
def arrivedNow (x : Barrier) (gid : Nat) (act : Lanes) : Lanes := tblGet 0 x.arrived gid &&& act

def barScope (die : Bool) : Scope := if die then .die else .blk

/-- The causes of the barrier-class trap (15 R364). DEDUCED (unsafe), log entry 39. -/
def barrierCause (s : State) (c : Ins) (die : Bool) (n : Nat) (x : Barrier) (counts : Bool) : Option Nat :=
  let concurrent := ((gridOf s c.g).map (·.cls)).getD 0 = 0
  let b := blockOf s c.g
  if die && (!concurrent || (b.map (·.coach)).getD false) then some 1
  else if counts && (b.map (·.groups)).getD 0 < n then some 2
  else if counts && x.count.any fun m => m != n then some 3
  else none

/-- Lanes arrive, with the release of 06 R157; none do at no lanes. DEDUCED (unsafe), log entry 39. -/
def barrierArrive (c : Ins) (s : State) (die : Bool) (id n : Nat) (m : Lanes) : State :=
  if m = 0 then s
  else
    let s1 := release s c.g (barScope die)
    let x := getBarrier s1 c.g die id
    let y := arriveAt { x with times := x.times.join (knowOf s1 c.gid) } c.gid m n
    setBarrier s1 c.g die id (turnBarrier y (barrierGroups s1 c.g die))

/-- The acquire of 06 R157 at the end of a wait: what the arrivals have released. DEDUCED (unsafe), log entry 39. -/
def barrierAcquire (s : State) (c : Ins) (die : Bool) (id : Nat) : State :=
  let t := (getBarrier s c.g die id).times
  if wideScope s c.g (barScope die) then learnAll s c.gid t else learn s c.gid t 0

/-- The end of BAR and BARA. -/
def barrierEnd (wait : Bool) (c : Ins) (s : State) (die : Bool) (id : Nat) : Act :=
  .done (if wait then barrierAcquire s c die id else s)

/-- Lanes `m` arrive, and those of `again` after this phase; the path goes on when what it waits for is over (15 R362,
R363): BAR (`wait`) the phases of all its lanes, BARA the phase before that of the lanes that arrive again.
DEDUCED (unsafe), log entry 39. -/
def barrierGo (wait : Bool) (c : Ins) (s : State) (die : Bool) (id n : Nat) (m again : Lanes) : Act :=
  if releaseHeld s c.g (barScope die) then .wait
  else
    let k := (getBarrier s c.g die id).phase
    let s1 := barrierArrive c s die id n m
    let ended := k < (getBarrier s1 c.g die id).phase
    if ended && again != 0 then
      let k2 := (getBarrier s1 c.g die id).phase
      let s2 := barrierArrive c s1 die id n again
      if !wait || k2 < (getBarrier s2 c.g die id).phase then barrierEnd wait c s2 die id
      else .park (updGroup s2 c.gid fun g => updPath g c.p.lanes fun p => { p with await := some (.bar k2 again 0) })
    else if ended || (!wait && again = 0) then barrierEnd wait c s1 die id
    else .park (updGroup s1 c.gid fun g => updPath g c.p.lanes fun p => { p with await := some (.bar k m again) })

/-- BAR and BARA. DEDUCED (unsafe), log entry 39. -/
def barrierBody (wait die : Bool) (id n : Nat) (c : Ins) (s : State) : Act :=
  let x := getBarrier s c.g die id
  match c.p.await with
  | some (.bar phase _ again) =>
    if x.phase ≤ phase then .wait
    else if again = 0 then barrierEnd wait c s die id
    else
      match barrierCause s c die n x true with
      | some e => .trap (trapAt c.p 0x0E e again) s
      | none => barrierGo wait c s die id n again 0
  | _ =>
    match barrierCause s c die n x true with
    | some e => .trap (c.trap 0x0E e) s
    | none =>
      let again := arrivedNow x c.gid c.act
      barrierGo wait c s die id n (c.act &&& ~~~again) again

def execBar (g : Guard) (die : Bool) (id : BitVec 4) (n : BitVec 10) (s : State) : Host.Outcome State Fault Refusal :=
  issue (.bar g die id n) (barrierBody true die id.toNat n.toNat) s

def execBara (g : Guard) (die : Bool) (id : BitVec 4) (n : BitVec 10) (s : State) : Host.Outcome State Fault Refusal :=
  issue (.bara g die id n) (barrierBody false die id.toNat n.toNat) s

def execBarw (g : Guard) (die : Bool) (id : BitVec 4) (s : State) : Host.Outcome State Fault Refusal :=
  issue (.barw g die id) (fun c s =>
    let x := getBarrier s c.g die id.toNat
    match barrierCause s c die 0 x false with
    | some e => .trap (c.trap 0x0E e) s
    | none =>
      if (laneList c.act).any fun l => tblFind x.last (32 * c.gid + l) = some x.phase then .wait
      else .done (barrierAcquire s c die id.toNat)) s

/-! ### EXIT (15 R361) -/

def execExit (g : Guard) (s : State) : Host.Outcome State Fault Refusal :=
  issue (.exit g) (fun c s =>
    let left := c.p.lanes &&& ~~~c.act
    let s1 := updGroup s c.gid fun g =>
      updPath (exitLanes g c.act) left fun p => { p with pc := nextPc c.p.pc c.p.tail, enter := true, checked := false }
    .moved (settleBarriers s1 c.gid c.g)) s

end Sys2Proof.Machine
end

