-- ==== Sys2Proof/Machine/DeviceRegs.lean ====
section
/-! DEFINITION. The device-register region (01 R25): the launch queues' registers (16 R372, R373), the status of the
directory slices (05 R136), the peer windows (19 R441) and MGMTSTAT (19 R445), as a context or the physical function
reaches them (18 R418). -/

namespace Sys2Proof.Machine

/-- A launch queue as it is at reset. DESIGN CHOICE (unsafe), log entry 10. -/
def newQueue : Queue := ⟨0, 4, false, false, false, 0, 0, Times.zero, []⟩

def queueOf (s : State) (q : Nat) : Queue := tblGet newQueue s.queues q

def updQueue (s : State) (q : Nat) (f : Queue → Queue) : State :=
  { s with queues := tblSet newQueue s.queues q (f (queueOf s q)) }

/-- A ring fault (16 R373): FAULT is set and the holder's parent is told (17 R397 KIND 9). -/
def ringFault (s : State) (q : Nat) (pc gser : Long) (f : Option TFault) : State :=
  let s1 := updQueue s q fun x => { x with fault := true }
  let h := queueHolder s q
  let r : FaultRec :=
    match f with
    | some f => faultRec 9 h pc gser f
    | none => ⟨9, 0, h, 0, pc, gser, 0, 0, 0, 0, 0, 0⟩
  sendRecord s1 (parentOf s h) { r with queue := q }

/-- The word of QCTL (16 R372). -/
def qctlWord (x : Queue) : Nat := x.log2 % 16 * 2 ^ 12 + one x.fault * 4 + one x.dev * 2 + one x.en

/-- A write of QCTL: reserved bits are ignored, LOG2SZ and DEV only while EN is 0, FAULT clears by one. -/
def setQctl (x : Queue) (v : Nat) : Queue :=
  let lg := bits v 15 12
  { x with
    log2 := if x.en || lg < 4 then x.log2 else lg
    dev := if x.en then x.dev else bit v 1
    fault := x.fault && !bit v 2
    en := bit v 0 }

/-- A store to QTAIL: a ring fault for a device queue. -/
def setQtail (s : State) (q : Nat) (pc gser : Long) (v : BitVec 32) : State :=
  if (queueOf s q).dev then ringFault s q pc gser none else updQueue s q fun x => { x with tail := v }

/-- STAGE of MGMTSTAT. -/
def stageCode : BootStage → Nat
  | .rom => 0 | .firmware => 1 | .engines => 2 | .ready => 3 | .recovery => 4

/-- The active image of a TYPE, and its bank. -/
def activeBank (f : Firmware) (ty : Nat) : Nat := tblGet 0 f.active ty
def activeImage (f : Firmware) (ty : Nat) : Option FwImage := tblFind f.banks (2 * ty + activeBank f ty)

/-- The field of n bytes at an offset of an image's header (19 R443). DEDUCED (unsafe), log entry 67. -/
def imageField (x : FwImage) (off n : Nat) : Nat := natOfBytes ((List.range n).map fun i => tblGet 0 x.header (off + i))

/-- SVN of an image. -/
def imageSvn (x : FwImage) : Nat := imageField x 8 4

/-- MGMTSTAT (19 R445). -/
def mgmtStat (s : State) : Nat :=
  stageCode s.stage * 2 ^ 12 + one (s.firmware.pend != []) * 2 ^ 11 + one s.firmware.update.isSome * 2 ^ 10 +
    activeBank s.firmware 1 % 2 * 2 ^ 9 + one s.firmware.fallback * 2 ^ 8 +
    ((activeImage s.firmware 1).map imageSvn).getD 0 % 256

/-- Entries of a directory slice in use, of 65,536 sets of 16 (05 R128), in units of 1/256, as OCC shows them: its 8
bits hold 0 for a slice that is full, whose 256 units they cannot hold. DESIGN CHOICE (unsafe), log entry 85. -/
def dirOcc (s : State) (j : Nat) : Nat := (s.dir.filter fun e => dirSlice e.asid e.va = j).length * 256 / 1048576 % 256

/-- DIRSTATUS (05 R136). -/
def dirStatusWord (s : State) (j : Nat) : Nat :=
  let d := tblGet (⟨0, false, false⟩ : DirStatus) s.dirStatus j
  dirOcc s j * 2 ^ 8 + d.cause * 4 + one d.recov * 2 + one d.lost

/-- PEERWIN (19 R441). -/
def peerWord (s : State) (n : Nat) : Nat :=
  match tblFind s.peerWin n with
  | some p => one p.valid * 2 ^ 63 + p.rid.toNat * 2 ^ 44 + p.base.toNat
  | none => 0

def setPeer (s : State) (n : Nat) (v : Nat) : State :=
  let p : PeerWin := ⟨bit v 63, BitVec.ofNat 16 (bits v 59 44), BitVec.ofNat 44 v⟩
  { s with peerWin := tblSet ⟨false, 0, 0⟩ s.peerWin n p }

/-- Where an offset of the region lies. -/
inductive RegAt where
  | mgmt
  | dir (j : Nat)
  | peer (n : Nat)
  | queue (q r : Nat)
  | nothing
  deriving DecidableEq, Repr

/-- The register at an 8-byte aligned offset. -/
def regAt (off : Nat) : RegAt :=
  if off = 0 then .mgmt
  else if 0x200000 ≤ off && off < 0x200800 then (if off % 0x100 = 0 then .dir ((off - 0x200000) / 0x100) else .nothing)
  else if 0x300000 ≤ off && off < 0x300000 + 8 * 64 then .peer ((off - 0x300000) / 8)
  else if 0x1000000 ≤ off && off < 0x1000000 + 64 * 4096 then
    (if off % 64 < 32 then .queue ((off - 0x1000000) / 64) (off % 64) else .nothing)
  else .nothing

/-- A register that an agent reaches: all of them for the physical function; for a context its queues', MGMTSTAT, and
for the root the peer windows' and the directory's. -/
def regReach (s : State) (ctx : Option Nat) (r : RegAt) : Bool :=
  match ctx with
  | none => true
  | some c =>
    match r with
    | .mgmt => true
    | .dir _ | .peer _ => c = 1
    | .queue q _ => queueHolder s q = c
    | .nothing => false

/-- The 8 bytes of a register. -/
def regWord (s : State) (r : RegAt) : Nat :=
  match r with
  | .mgmt => mgmtStat s
  | .dir j => dirStatusWord s j
  | .peer n => peerWord s n
  | .queue q 0x00 => (queueOf s q).base.toNat
  | .queue q 0x08 => qctlWord (queueOf s q)
  | .queue q 0x10 => (queueOf s q).head.toNat
  | .queue q 0x18 => (queueOf s q).tail.toNat
  | .queue .. | .nothing => 0

/-- An aligned read of 4 or 8 bytes of the region. -/
def regRead (s : State) (ctx : Option Nat) (off n : Nat) : Nat :=
  let r := regAt (off / 8 * 8)
  if regReach s ctx r then regWord s r / 2 ^ (8 * (off % 8)) % 2 ^ (8 * n) else 0

/-- A 64-bit register with its half or the whole of it replaced. -/
def regMerge (old off n v : Nat) : Nat :=
  if n = 8 then v % 2 ^ 64
  else if off % 8 = 0 then old / 2 ^ 32 * 2 ^ 32 + v % 2 ^ 32
  else v % 2 ^ 32 * 2 ^ 32 + old % 2 ^ 32

/-- An aligned write of 4 or 8 bytes of the region. -/
def regWrite (s : State) (ctx : Option Nat) (off n v : Nat) (pc gser : Long) : State :=
  let r := regAt (off / 8 * 8)
  if !regReach s ctx r then s
  else
    match r with
    | .peer k => setPeer s k (regMerge (peerWord s k) off n v)
    | .queue q 0x00 =>
      if (queueOf s q).en then s
      else updQueue s q fun x => { x with base := BitVec.ofNat 64 (regMerge x.base.toNat off n v / 64 * 64) }
    | .queue q 0x08 => if off % 8 = 0 then updQueue s q fun x => setQctl x v else s
    | .queue q 0x18 => if off % 8 = 0 then setQtail s q pc gser (BitVec.ofNat 32 v) else s
    | .mgmt | .dir _ | .queue .. | .nothing => s

end Sys2Proof.Machine
end

