-- ==== Sys2Proof/Machine/Relay.lean ====
section
/-! DEFINITION. Alias windows, relay buffer slots, staging, arrivals at the engines, barrier objects and relay faults
(14 R318-R322, R326, R329, R331, R336-R340). -/

namespace Sys2Proof.Machine

/-! ### Slots (14 R340) -/

/-- Slots of the relay buffer outside the host complex's. -/
def relaySlots : Nat := 48128

def updBinding (s : State) (mfn : Nat) (f : Binding → Binding) : State := { s with bindings := tblUpd s.bindings mfn f }
def updInstance (s : State) (i : Nat) (f : Instance → Instance) : State := { s with instances := tblUpd s.instances i f }

/-- The slots a context holds: stages that no engine has taken, and packets. -/
def slotsHeld (s : State) (ctx : Nat) : Nat :=
  (s.slots.filter fun e => e.2.ctx = ctx).length +
  s.bindings.foldl (fun n e => if e.2.ctx = ctx then n + (e.2.stages.filter fun g => !g.taken).length else n) 0

/-- The sum of the guarantees that a context has lent to its children (18 R420). -/
def lentSlots (s : State) (ctx : Nat) : Nat := s.ctxs.foldl (fun n e => if e.2.parent = ctx then n + e.2.relayG else n) 0

/-- A context's usable guarantee. The root has none: its slots are the shared pool. -/
def guarantee (s : State) (ctx : Nat) : Nat :=
  if ctx = 1 then 0
  else
    match tblFind s.ctxs ctx with
    | some c => if c.rights.getLsbD 1 then c.relayG - lentSlots s ctx else 0
    | none => 0

/-- Pool slots in use. What a stopped context holds is saved with it, and counts again when it resumes (14 R349, 18
R477). DEDUCED (unsafe), log entry 62. -/
def poolUsed (s : State) : Nat :=
  s.ctxs.foldl (fun n e => n + if e.2.state = .stopped then 0 else slotsHeld s e.1 - guarantee s e.1) 0

/-- A context's need can take a slot: of its guarantee, or else of the pool below its cap. -/
def slotFree (s : State) (ctx : Nat) : Bool :=
  let h := slotsHeld s ctx
  let g := guarantee s ctx
  let cap := if ctx = 1 then relaySlots else ((tblFind s.ctxs ctx).map (·.relayCap)).getD 0
  h < g || (poolUsed s + lentSlots s 1 < relaySlots && h - g < cap)

/-- The lowest free number among those that `n` slots in use can take. -/
def freshSlot (s : State) : Nat :=
  ((List.range (s.slots.length + 1)).find? fun i => (tblFind s.slots (1024 + i)).isNone).map (1024 + ·) |>.getD 1024

/-! ### Windows and staging (14 R318-R321) -/

/-- The window of an alias address. -/
def windowFrame (ma : Nat) : Nat := ma / 0x200000

/-- Chunk size, and chunks of a window. -/
def chunkSize (b : Binding) : Nat := if b.kind = 1 && b.ity = 0x11 then 1024 else 2048
def chunksOf (b : Binding) : Nat := Nat.max 1 ((b.len + chunkSize b - 1) / chunkSize b)
def chunkLen (b : Binding) (x : Nat) : Nat := Nat.min (chunkSize b) (b.len - x * chunkSize b)

/-- The chunks that an epoch emits to a member. -/
def epochChunks (b : Binding) : Nat := chunksOf b * (if b.kind = 2 || b.kind = 3 then b.nmem else 1)

/-- The local bindings of a collective. -/
def members (s : State) (cid : Nat) : Tbl Binding := s.bindings.filter fun e => e.2.cid = cid

/-- The oldest epoch that a local member has not completed. -/
def oldestEpoch (s : State) (cid : Nat) : Nat :=
  ((members s cid).foldl (fun m e => some (match m with | none => e.2.epoch | some x => Nat.min x e.2.epoch)) none).getD 0

/-- Takes the next transfer sequence number of a context (08 R184). -/
def takeSeq (s : State) (ctx : Nat) : BitVec 32 × State :=
  (((tblFind s.ctxs ctx).map (·.xferSeq)).getD 0, updCtx s ctx fun c => { c with xferSeq := c.xferSeq + 1 })

/-- Stores bytes into a stage and sends it when every unit is there (14 R321). -/
def fillStage (s : State) (mfn : Nat) (b : Binding) (g : Stage) (off : Nat) (bs : List Byte) : State :=
  let o := off % chunkSize b
  let us := (List.range (bs.length / 4)).map fun i => o / 4 + i
  let units := us.foldl (fun l u => if l.contains u then l else u :: l) g.units
  let bytes := g.bytes.take o ++ bs ++ g.bytes.drop (o + bs.length)
  let full := chunkLen b g.chunk = 0 || chunkLen b g.chunk / 4 ≤ units.length
  let (q, s1) := if full then takeSeq s b.ctx else (g.seq, s)
  let g1 : Stage := { g with bytes := if chunkLen b g.chunk = 0 then [] else bytes, units := units, sent := full, seq := q }
  updBinding s1 mfn fun b =>
    { b with stages := b.stages.filter (fun x => !(x.epoch = g.epoch && x.chunk = g.chunk)) ++ [g1] }

/-- One store at the stager: staged, or nothing while it must wait (14 R321, R340). -/
def stageStore (s : State) (mfn off : Nat) (bs : List Byte) : Option State :=
  match tblFind s.bindings mfn with
  | none => some s
  | some b =>
    let x := off / chunkSize b
    let at_ (e : Nat) : Option Stage := b.stages.find? fun g => g.epoch = e && g.chunk = x
    let e := if ((at_ b.epoch).map (·.sent)).getD false then b.epoch + 1 else b.epoch
    match at_ e with
    | some g => if g.sent then none else some (fillStage s mfn b g off bs)
    | none =>
      if slotFree s b.ctx then
        some (fillStage s mfn b ⟨e, x, List.replicate (chunkLen b x) 0, [], false, false, 0⟩ off bs)
      else none

/-- The held stores in order; a store to a chunk that one before it waits for waits too. -/
def pumpHeld (mfn C : Nat) : List Nat → List (Nat × List Byte) → State → State × List (Nat × List Byte)
  | _, [], s => (s, [])
  | stuck, (off, bs) :: r, s =>
    match (if stuck.contains (off / C) then none else stageStore s mfn off bs) with
    | some s1 => pumpHeld mfn C stuck r s1
    | none =>
      let (s1, l) := pumpHeld mfn C (off / C :: stuck) r s
      (s1, (off, bs) :: l)

/-- Applies the stores that wait at a window's stager. -/
def pump (s : State) (mfn : Nat) : State :=
  match tblFind s.bindings mfn with
  | none => s
  | some b =>
    let (s1, l) := pumpHeld mfn (chunkSize b) [] b.held s
    updBinding s1 mfn fun b => { b with held := l }

/-- A slot or an epoch became free: stagers and waiting instances go on. -/
def pumpAll (s : State) : State :=
  let s1 := s.bindings.foldl (fun s e => if e.2.held = [] then s else pump s e.1) s
  { s1 with instances := tblMap s1.instances fun _ i => { i with blocked := false } }

/-- What a contribution releases joins what its collective's engines know as they act for each member, which their
barrier updates release (06 R154). DEDUCED (unsafe), log entry 82. -/
def tellRelay (s : State) (b : Binding) (t : Times) : State :=
  (members s b.cid).foldl (fun s e =>
    let p := partView s (relayCore e.2.engine) e.2.ctx
    setPartView s { p with known := p.known.join t }) s

/-- A store of a group to an alias window (14 R320-R322): staged, or an orphan's access-trap cause. `t`: what the
contribution releases. -/
def aliasStore (s : State) (ma : Nat) (bs : List Byte) (t : Times) : Except Nat State :=
  let mfn := windowFrame ma
  let off := ma % 0x200000
  match tblFind s.bindings mfn with
  | none => .error 3
  | some b =>
    if b.failed || (b.kind = 0 && b.rank != 0) then .error 3
    else if b.len < off + bs.length && !(b.len = 0 && off = 0) then .error 2
    else
      .ok (pump (updBinding (tellRelay s b t) mfn fun b =>
        { b with held := b.held ++ [(off, if b.len = 0 then [] else bs)] }) mfn)

/-- What a load from a window reads (14 R322). -/
def aliasLoadVa (s : State) (ma : Nat) : Option Long :=
  match tblFind s.bindings (windowFrame ma) with
  | none => none
  | some b => if b.recv then some (b.resva + BitVec.ofNat 64 (ma % 0x200000)) else none

/-! ### Barrier objects (14 R326, R329) -/

structure BarObj where
  count : Nat
  target : Nat
  epoch : Nat
  failed : Bool
  cause : Nat
  deriving DecidableEq, Repr

def barObj (bs : List Byte) : BarObj :=
  let x := natOfBytes bs
  ⟨bits x 63 0, bits x 127 64, bits x 159 128, bit x 160, bits x 175 168⟩

/-- The first 24 bytes of an object with its fields set; other bits are kept. -/
def barObjBytes (old : List Byte) (o : BarObj) : List Byte :=
  let x := natOfBytes old
  bytesOfNat 24 (o.count % 2 ^ 64 + o.target * 2 ^ 64 + o.epoch % 2 ^ 32 * 2 ^ 128 + one o.failed * 2 ^ 160 +
    bits x 167 161 * 2 ^ 161 + o.cause % 256 * 2 ^ 168 + bits x 191 176 * 2 ^ 176)

def boComplete (o : BarObj) : Bool := !o.failed && o.target != 0 && o.target ≤ o.count

/-- The status word. -/
def boStatus (o : BarObj) : Long :=
  BitVec.ofNat 64 (o.epoch * 2 ^ 32 + (if o.failed then 2 else if boComplete o then 1 else 0) * 2 ^ 8 + o.cause)

/-- One atomic step of an agent of the Paorid die on a barrier object at the L2 (14 R328, R329), as a release at a
scope. DEDUCED (unsafe), log entry 92. -/
def boUpdate (s : State) (w : Who) (va : Long) (sc : Scope) (f : BarObj → BarObj) : Except TFault State :=
  match l2ReadBytes s w va 24 .atomic with
  | .error (.fault t) => .error t
  | .error (.special _ _) => .error (leafFault s w 0x04 va .atomic)
  | .ok (s1, bs, poison) =>
    if poison then .error (leafFault s w 0xF0 va .atomic)
    else match l2Write s1 w va (barObjBytes bs (f (barObj bs))) .atomic true with
    | .ok s2 =>
      let r : Rel := ⟨0, 0, paoridAgent w.ctx, sc, false, viewTimes s2 (w.core.getD deviceCore) w.ctx w.die⟩
      let asid := asidOf w.ctx va
      .ok (putRels s2 asid va.toNat 24 true (carryAt asid va.toNat 24 [r]))
    | .error (.fault t) => .error t
    | .error (.special _ _) => .error (leafFault s w 0x04 va .atomic)

/-- Who the relay is when it acts for a binding (04 R476). -/
def relayWho (b : Binding) : Who := ⟨b.ctx, b.die, some (relayCore b.engine), b.handler⟩

/-! ### Faults and the end of instances (14 R331, R336) -/

/-- The current breakout provides a sub-port (14 R343). -/
def subPortThere (s : State) (p : Nat) : Bool := p < 96 && p % 4 < tblGet 1 s.breakout (p / 4)

/-- An engine serves the die ports, or a sub-port that the current breakout provides (14 R330). -/
def engineServes (s : State) (eng : Nat) : Bool := eng < 4 || subPortThere s (eng - 4)

/-- A packet that came by a port has been taken: its sender hears of it, and it is missing no more (14 R346). -/
def ackPort (s : State) (port pkg sctx : Nat) (seq : BitVec 32) : State :=
  { s with wire := s.wire ++ [.ack port sctx seq], missing := s.missing.filter fun m => m != (pkg, sctx, seq) }

/-- A packet cannot be taken: its engine discards it and names to its sender the first of the packets that it has
discarded and not yet taken (14 R342, R346). DEDUCED (unsafe), log entry 59. -/
def nackPort (s : State) (eng port pkg sctx : Nat) (seq : BitVec 32) : State :=
  let l := s.missing.filter (· != (pkg, sctx, seq)) ++ [(pkg, sctx, seq)]
  let first := l.foldl (fun x m => if m.1 = pkg && m.2.1 = sctx && (m.2.2 - x).toNat ≥ 2 ^ 31 then m.2.2 else x) seq
  { count s 28 eng 1 with missing := l, wire := s.wire ++ [.nack port sctx first] }

/-- Frees a slot. -/
def freeSlot (s : State) (n : Nat) : State := { s with slots := tblDel s.slots n }

/-- The sender of a packet that came by a port hears of it once SEQCHK has looked at its key, or its instance has ended:
until then a NACK makes it resend the packet (14 R334). DEDUCED (unsafe), log entry 59. -/
def ackSlot (s : State) (n : Nat) : State :=
  match tblFind s.slots n with
  | some x => if x.checked || 96 ≤ x.port then s else ackPort s x.port x.pkg x.sctx x.seq
  | none => s

/-- A packet of a triple joins its instance, or starts one unless the engine runs 4,096 (14 R331).
DEDUCED (unsafe), log entry 11. -/
def joinInstance (s : State) (n : Nat) : State :=
  match tblFind s.slots n with
  | none => s
  | some x =>
    match tblFirst s.instances fun _ i => i.engine = x.engine && i.cid = x.cid && i.epoch = x.epoch && i.chunk = x.chunk with
    | some (k, _) => updInstance s k fun i => { i with arrived := i.arrived ++ [n], blocked := false }
    | none =>
      if 4096 ≤ (s.instances.filter fun e => e.2.engine = x.engine).length then s
      else
        match (members s x.cid).find? fun e => e.2.engine = x.engine with
        | none => s
        | some (_, b) =>
          let k : Tbl Word := [(0, BitVec.ofNat 32 x.epoch), (1, BitVec.ofNat 32 x.chunk), (2, BitVec.ofNat 32 b.nmem), (3, BitVec.ofNat 32 b.len)]
          let i : Instance := ⟨x.engine, x.cid, x.epoch, x.chunk, b.prog, b.ctx, k.filter fun e => e.2 != 0, 0, [], [n], 0, false, false⟩
          { s with fresh := s.fresh + 1, instances := tblPut s.instances s.fresh i }

/-- An instance ends: its slots are freed, and packets that waited for a place start their instances. -/
def endInstance (s : State) (k : Nat) : State :=
  match tblFind s.instances k with
  | none => s
  | some i =>
    let mine (f : Flight) : Bool := match f.owner with
      | .slot j _ => j = k
      | .xfer .. | .fatom .. => false
    let s1 := (i.held ++ i.arrived).foldl (fun s n => freeSlot (ackSlot s n) n)
      { s with instances := tblDel s.instances k, flights := s.flights.filter fun f => !mine f }
    let waiting := s1.slots.filter fun e =>
      e.2.engine = i.engine && !(s1.instances.any fun j => j.2.held.contains e.1 || j.2.arrived.contains e.1)
    pumpAll (waiting.foldl (fun s e => joinInstance s e.1) s1)

/-- A relay fault (14 R336, R329): the instance ends, the epoch fails at every local member, and each binding context
has one record. `bad` is the window whose barrier object faulted. -/
def relayFault (s : State) (k : Nat) (cause : Nat) (bad : Option Nat) : State :=
  match tblFind s.instances k with
  | none => s
  | some i =>
    let s1 := count (endInstance s k) 31 i.engine 1
    let badVa := bad.bind fun m => (tblFind s.bindings m).map (·.bova)
    let ms := members s1 i.cid
    ms.foldl (fun s e =>
      let s2 := updBinding s e.1 fun b => { b with failed := true }
      let s3 :=
        if bad = some e.1 then s2
        else
          match boUpdate s2 (relayWho e.2) e.2.bova .pkg fun o => { o with failed := true, cause := cause } with
          | .ok t => t
          | .error f => afterFault s2 (relayWho e.2) f
      if (ms.find? fun m => m.2.ctx = e.2.ctx).any fun m => m.1 = e.1 then
        sendRecord s3 e.2.ctx
          ⟨4, cause, e.2.ctx, 0, 0, 0, badVa.getD (BitVec.ofNat 64 i.cid), i.epoch, 0, 0, 0, i.engine⟩
      else s3) s1

/-! ### Arrivals (14 R338, R346) -/

/-- How an engine answers a packet. -/
inductive Arrived where
  | taken | duplicate | refused
  deriving DecidableEq, Repr

def keyOf (x : Slot) : RelayKey := ⟨x.engine, x.cid, x.epoch, x.rlo, x.rhi, x.chunk⟩

/-- Bytes of BF16 elements widened to FP32 (14 R339). -/
def widen : List Byte → List Byte
  | a :: b :: r => 0 :: 0 :: a :: b :: widen r
  | _ => []

/-- A packet reaches its engine. `room`: a slot can be taken for it. -/
def engineArrive (s : State) (x : Slot) (room : Bool) : State × Arrived :=
  let old := oldestEpoch s x.cid
  if s.keys.contains (keyOf x) || x.epoch < old then (count s 26 x.engine 1, .duplicate)
  else if old + 2 ≤ x.epoch || !room || (members s x.cid) = [] then (s, .refused)
  else
    let n := freshSlot s
    (joinInstance { s with slots := tblPut s.slots n x } n, .taken)

/-- A member completes its epochs whose chunks have all been emitted (14 R321, R329). The result names a member whose
barrier object faulted. -/
def completeEpochs : Nat → State → Nat → State × Bool
  | 0, s, _ => (s, true)
  | n + 1, s, mfn =>
    match tblFind s.bindings mfn with
    | none => (s, true)
    | some b =>
      if tblGet 0 b.emits b.epoch < epochChunks b then (s, true)
      else
        let s1 := updBinding s mfn fun b => { b with
          epoch := b.epoch + 1
          emits := b.emits.filter fun e => b.epoch < e.1
          order := b.order.filter fun e => b.epoch < e.1
          stages := b.stages.filter fun g => b.epoch < g.epoch }
        match boUpdate s1 (relayWho b) b.bova .pkg fun o => { o with count := o.count + 1, epoch := o.epoch + 1 } with
        | .error f => (afterFault s1 (relayWho b) f, false)
        | .ok s2 =>
          let old := oldestEpoch s2 b.cid
          completeEpochs n { s2 with keys := s2.keys.filter fun k => k.cid != b.cid || old < k.epoch + 2 } mfn

end Sys2Proof.Machine
end

