-- ==== Sys2Proof/Machine/Distributor.lean ====
section
/-! DEFINITION. The distributor (02 R48-R51, 15 R350, R361, R367-R371, 16 R375-R384): header and descriptor checks, the
placing of blocks and coaches, the start of groups, their ends and the retirement of grids. -/

namespace Sys2Proof.Machine

/-! ### Headers and descriptors -/

/-- A little-endian field of a byte list. -/
def field (bs : List Byte) (off n : Nat) : Nat := natOfBytes ((bs.drop off).take n)

/-- CRC-32C (Castagnoli) (02 R48). -/
def crcBit (c : Nat) : Nat := if c % 2 = 1 then Nat.xor (c / 2) 0x82F63B78 else c / 2
def crcByte (c : Nat) (b : Byte) : Nat := (List.range 8).foldl (fun c _ => crcBit c) (Nat.xor c b.toNat)
def crc32c (bs : List Byte) : Nat := Nat.xor (bs.foldl crcByte 0xFFFFFFFF) 0xFFFFFFFF

/-- The fields of a kernel header. -/
def parseHeader (bs : List Byte) : Header where
  nbv := field bs 0x06 1
  progress := bits (field bs 0x07 1) 2 1
  det := bit (field bs 0x07 1) 0
  regbase := field bs 0x08 1
  regext := field bs 0x09 1
  rcount := field bs 0x0A 2
  spad := field bs 0x0C 4
  dspad := field bs 0x10 4
  loft := field bs 0x14 4
  rtab := field bs 0x18 8
  codesize := field bs 0x30 8
  imagesize := field bs 0x38 8
  entries := (List.range 16).map fun i => field bs (0x40 + 8 * i) 8

/-- A header before its check. -/
def noHeader : Header := ⟨0, 0, false, 0, 0, 0, 0, 0, 0, 0, 0, 0, []⟩

/-- The offset of the first byte of a range that is not zero. -/
def firstNonZero (bs : List Byte) (lo hi : Nat) : Option Nat :=
  ((List.range (hi - lo)).map (lo + ·)).find? fun i => field bs i 1 != 0

/-- An entry PC is consistent with the code (02 R51 check 11). -/
def entryOk (h : Header) (e : Nat) : Bool :=
  bits e 5 3 == 0 && e % 8 ≤ 4 && 0x100 ≤ e && e < 0x100 + h.codesize

/-- The first field that check 11 finds bad. -/
def layoutBad (h : Header) : Option Nat :=
  if 4096 < h.rcount then some 0x0A
  else if (h.rcount = 0 && h.rtab != 0) || (h.rcount != 0 && (h.rtab < 0x100 || h.imagesize < h.rtab + 16 * h.rcount)) then some 0x18
  else if h.codesize = 0 || h.codesize % 64 != 0 then some 0x30
  else if h.imagesize < 0x100 + h.codesize then some 0x38
  else
    ((List.range 16).find? fun i =>
      let e := h.entries.getD i 0
      if e = 0 then i = 0 else !entryOk h e).map (0x40 + 8 * ·)

/-- Checks 2-11 of 02 R51: the cause and detail of the first that fails. -/
def headerBad (feat : Long) (cls : Nat) (bs : List Byte) : Option (Nat × Nat) :=
  let h := parseHeader bs
  let missing := (List.range 128).find? fun i => bit (field bs 0x20 16) i && !bit feat.toNat i
  if field bs 0 4 != 0x4B4E5A39 then some (2, 0)
  else if field bs 4 2 != 1 then some (3, field bs 4 2)
  else if field bs 0xFC 4 != crc32c (bs.take 0xFC) then some (4, 0)
  else if field bs 7 1 / 8 != 0 then some (5, 7)
  else if (firstNonZero bs 0xC0 0xFC).isSome then some (5, (firstNonZero bs 0xC0 0xFC).getD 0)
  else if h.nbv != 8 && h.nbv != 9 then some (6, h.nbv)
  else if missing.isSome then some (7, missing.getD 0)
  else if cls = 3 then some (8, 0)
  else if h.regbase < 8 || 64 < h.regbase || h.regbase % 8 != 0 || 6 < h.regext then some (9, 0)
  else if 0x100000 < h.spad then some (0x0A, 0x0C)
  else if 0x2000000 < h.dspad then some (0x0A, 0x10)
  else if 0x100000 < h.loft then some (0x0A, 0x14)
  else (layoutBad h).map fun o => (0x0B, o)

/-- A launch descriptor (16 R375). -/
def parseDesc (bs : List Byte) : Desc where
  image := BitVec.ofNat 64 (field bs 0x00 8)
  param := BitVec.ofNat 64 (field bs 0x08 8)
  gx := field bs 0x10 4
  gy := field bs 0x14 2
  gz := field bs 0x16 2
  bthreads := field bs 0x18 2
  prio := field bs 0x1A 1 % 8
  dflags := field bs 0x1B 1
  ksize := field bs 0x1C 4
  kbase := BitVec.ofNat 64 (field bs 0x20 8)
  depbo := BitVec.ofNat 64 (field bs 0x28 8)
  dimva := BitVec.ofNat 64 (field bs 0x30 8)
  pmin := field bs 0x38 4

/-- Checks 12-15 of 16 R376. -/
def descBad (bs : List Byte) : Option (Nat × Nat) :=
  let d := parseDesc bs
  if field bs 0x1A 1 / 8 != 0 then some (0x10, 0x1A)
  else if d.dflags / 32 != 0 then some (0x10, 0x1B)
  else if (firstNonZero bs 0x3C 0x40).isSome then some (0x10, (firstNonZero bs 0x3C 0x40).getD 0)
  else if d.bthreads = 0 || 16384 < d.bthreads then some (0x11, 0)
  else if bit d.dflags 0 && !bit d.dflags 1 then some (0x12, 0)
  else if d.ksize % 4 != 0 || 65536 < d.ksize then some (0x13, 0x1C)
  else if d.kbase.toNat % 128 != 0 then some (0x13, 0x20)
  else none

/-- Blocks of a grid, and groups of a block (15 R350). -/
def gridBlocks (d : Desc) : Nat := d.gx * d.gy * d.gz
def blockGroups (d : Desc) : Nat := (d.bthreads + 31) / 32

/-! ### Resources (16 R381) -/

def roundUp (x n : Nat) : Nat := (x + n - 1) / n * n

/-- A slice of loft that a window takes (12 R266). -/
def windowSize (h : Header) : Nat := roundUp h.loft 0x10000

/-- The lowest offset at which a window of the size fits on a quadrant. -/
def windowPlace (s : State) (q size : Nat) : Option Nat :=
  let used := s.windows.filter fun w => w.quad = q
  ((List.range 16).map (0x10000 * ·)).find? fun o =>
    o + size ≤ 0x100000 && used.all fun w => o + size ≤ w.off || w.off + w.size ≤ o

/-- Free scratchpad of a context on a core (08 R187, R188). -/
def scratchFree (s : State) (ctx core : Nat) : Nat :=
  let pool := 0x40000 * ((List.range 4).filter fun i => quadHolder s (4 * core + i) = ctx).length
  s.blocks.foldl (fun n e =>
    match tblFind s.grids e.2.grid with
    | some g => if e.2.core = core && !e.2.saved && g.ctx = ctx then n - roundUp g.hdr.spad 0x1000 else n
    | none => n) pool

/-- Group slots and lane registers that a quadrant has free. -/
def quadRoom (s : State) (q : Nat) : Nat × Nat :=
  let gs := s.groups.filter fun e => e.2.quad = q
  (16 - gs.length, 2048 - gs.foldl (fun n e => n + e.2.regbase + 32 * ((List.range 6).filter fun i => e.2.chunks.getLsbD i).length) 0)

/-- Die scratchpad that can still be carved on a die (01 R22). -/
def carveFree (s : State) (die : Nat) : Nat :=
  s.slices.foldl (fun n x => if x.die = die then n - x.size else n) 0x2000000

/-- Quadrants of a context on a die, in ascending number. DEDUCED (unsafe), log entry 44. -/
def quadsOn (s : State) (ctx die : Nat) : List Nat :=
  ((List.range 160).map (160 * die + ·)).filter fun q => quadHolder s q = ctx

/-- A quadrant with its free group slots and registers. -/
structure Room where
  quad : Nat
  slots : Nat
  regs : Nat

/-- Takes a place for one group: the first quadrant with room among those that hold. -/
def takeRoom (here : Nat → Bool) (need : Nat) : List Room → Option (Nat × List Room)
  | [] => none
  | r :: rest =>
    if here r.quad && r.slots != 0 && need ≤ r.regs then
      some (r.quad, { r with slots := r.slots - 1, regs := r.regs - need } :: rest)
    else
      match takeRoom here need rest with
      | some (q, l) => some (q, r :: l)
      | none => none

/-- What quadrants can take of groups of a need. -/
def roomFor (need : Nat) (l : List Room) : Nat := l.foldl (fun n r => n + Nat.min r.slots (r.regs / Nat.max 1 need)) 0

/-- The n cores with the most room, best first; of equals the first. DEDUCED (unsafe), log entry 44. -/
def roomiest : Nat → List (Nat × Nat) → List Nat
  | 0, _ => []
  | n + 1, l =>
    match l.foldl (fun b e => match b with | none => some e | some x => if x.2 < e.2 then some e else some x) none with
    | none => []
    | some x => x.1 :: roomiest n (l.filter fun e => e.1 != x.1)

/-- Places for the groups of a block, in order: the first on a quadrant that `here` admits, each on the lowest-numbered
with room (25 R469). -/
def takeRooms (here : Nat → Bool) : List Nat → List Room → Option (List Nat)
  | [], _ => some []
  | n :: r, rooms =>
    match takeRoom here n rooms with
    | none => none
    | some (q, rooms) => (takeRooms (fun _ => true) r rooms).map (q :: ·)

/-- The quadrants of a block's groups with a given home core, on at most 8 cores (15 R350): the lowest (25 R469), or,
where that passes 8 cores, on the home core and the seven with the most room, which take the groups, all of one need,
if any eight cores do. DEDUCED (unsafe), log entry 44. -/
def placeAt (s : State) (ctx die home : Nat) (needs : List Nat) (loft : Nat) : Option (List Nat) :=
  let atHome (q : Nat) : Bool := coreOfQuad q = home
  let qs := (quadsOn s ctx die).filter fun q => loft = 0 || (windowPlace s q loft).isSome
  let rooms := qs.map fun q => let r := quadRoom s q; (⟨q, r.1, r.2⟩ : Room)
  let onCores (l : List Nat) : Bool := ((l.map coreOfQuad).eraseDups).length ≤ 8
  match (takeRooms atHome needs rooms).filter onCores with
  | some l => some l
  | none =>
    let size (c : Nat) : Nat × Nat := (c, roomFor (needs.headD 0) (rooms.filter fun r => coreOfQuad r.quad = c))
    let others := roomiest 7 (((rooms.map fun r => coreOfQuad r.quad).eraseDups.filter fun c => c != home).map size)
    (takeRooms atHome needs (rooms.filter fun r => coreOfQuad r.quad = home || others.contains (coreOfQuad r.quad))).filter onCores

/-- Where a block goes on a die: its home core and the quadrants of its groups. -/
def placeOnDie (s : State) (ctx die : Nat) (needs : List Nat) (spad loft : Nat) : Option (Nat × List Nat) :=
  ((List.range 40).map (40 * die + ·)).findSome? fun home =>
    if roundUp spad 0x1000 ≤ scratchFree s ctx home then (placeAt s ctx die home needs loft).map fun l => (home, l) else none

/-! ### Starting blocks (16 R384) -/

/-- A path that enters the code (02 R31). -/
def entryPath (lanes : Lanes) (pc : Long) : Path := ⟨0, lanes, pc, 0, [], .current, none, true, true, 0, none, 0, false, none⟩

/-- The scalar registers of the start state; a coach has no s0 of its own in the spec's list, and takes the image
base. -/
def startScalars (g : Grid) : Tbl Long :=
  let put (t : Tbl Long) (r : Nat) (x : Long) : Tbl Long := tblSet 0 t r x
  put (put (put (put [] 0 g.image) 1 g.desc.param) 2
    (BitVec.ofNat 64 (g.desc.gx + g.desc.gy * 2 ^ 32 + g.desc.gz * 2 ^ 48))) 3 (BitVec.ofNat 64 g.desc.bthreads)

/-- A group in its start state. DEDUCED (unsafe), log entry 11. -/
def startGroup (g : Grid) (grid block quad idx : Nat) (serial : Long) (live : Lanes) (v : Tbl Word) (kbase : Long)
    (pc : Long) : Group where
  grid := grid
  block := block
  quad := quad
  idx := idx
  serial := serial
  regbase := g.hdr.regbase
  regext := g.hdr.regext
  chunks := 0
  live := live
  v := v
  s := startScalars g
  empty := []
  preds := []
  paths := [entryPath live pc]
  splits := [⟨0, 0, false, false, 0⟩]
  families := []
  scl := []
  nbv := g.hdr.nbv
  perm := (List.range 8).map fun k => BitVec.ofNat 64 (0x0706050403020100 + k * 0x0808080808080808)
  grow := 0
  tstate := 0
  fltmask := 0
  fltrec := 0
  kbase := kbase
  ksize := g.desc.ksize
  handler := false
  frame := none
  recs := []
  held := none
  ckpt := none
  idem := false
  ranCkpt := false
  reports := []
  splitAge := 1
  seen := g.start
  fenced := Times.zero
  relayed := Times.zero
  fence := []
  pend := []

/-- Thread indices in v0, and the live lanes, of group i of a block. -/
def threadLanes (g : Grid) (i : Nat) : Lanes := laneMask fun l => 32 * i + l < g.desc.bthreads
def threadRegs (i : Nat) : Tbl Word :=
  (List.range 32).foldl (fun t l => tblSet 0 t l (BitVec.ofNat 32 (32 * i + l))) []

/-- Serial numbers (17 R396). -/
def groupSerial (g : Grid) (low : Nat) : Long := BitVec.ofNat 64 (g.seq % 2 ^ 32 * 2 ^ 32 + low)

/-- A die holds a line no more: its directory entry names the dies that still do. -/
def dirLeave (s : State) (die asid va : Nat) : State :=
  match dirFind s asid va with
  | none => s
  | some e =>
    let owner := e.owner.filter fun o => o.1 != die
    let sharers := e.sharers &&& ~~~dieBit die
    if owner = none && sharers = 0 then dirFree s asid va
    else { s with dir := s.dir.map fun x => if x.asid = asid && x.va = va then { x with owner := owner, sharers := sharers } else x }

/-- Writes back and drops the lines in the ways of a die's L2 that are carved, with their L1 copies and directory
entries (05 R126). -/
def trimL2 (s : State) (die : Nat) : State :=
  (s.l2.filter fun l => l.die = die && (carvedWays s die (l2Set l.va)).contains l.way).foldl
    (fun s l => dirLeave (l2Flush s l) die l.asid l.va) s

/-- The n lowest granules of a die that no die slice has taken (05 R126). DEDUCED (unsafe), log entry 44. -/
def freeGranules (s : State) (die n : Nat) : List Nat :=
  ((List.range 512).filter fun g => !s.slices.any fun x => x.die = die && x.granules.contains g).take n

/-- The grid's die slice on a die is there, carved and zero when it is new (01 R22). -/
def openSlice (s : State) (grid die dspad : Nat) : State :=
  if (sliceOf s grid die).isSome then s
  else
    let size := roundUp dspad 0x10000
    trimL2 { s with slices := s.slices ++ [⟨grid, die, size, freeGranules s die (size / 0x10000), [], newBarrier, []⟩] } die

/-- Gives a block its windows on the quadrants it uses, zeroed (12 R266). -/
def openWindows (s : State) (block size : Nat) (qs : List Nat) : State :=
  if size = 0 then s
  else
    qs.foldl (fun s q =>
      let o := (windowPlace s q size).getD 0
      { s with
        windows := s.windows ++ [⟨block, q, o, size⟩]
        loft := s.loft.filter fun e => !(loftKey q o ≤ e.1 && e.1 < loftKey q (o + size))
        loftPoison := s.loftPoison.filter fun e => !(loftKey q o ≤ 4 * e.1 && 4 * e.1 < loftKey q (o + size)) }) s

/-- The groups of a block begin, or go on, where they have been placed: each knows what it knew (06 R157, 15 R370, 17
R404), and its core's view passes that. -/
def takeCores (s : State) (block : Nat) : State :=
  (s.groups.filter fun e => e.2.block = block).foldl (fun s e => learnAll s e.1 e.2.seen) s

/-- Starts a block's groups on their quadrants (15 R350, 16 R384). -/
def startBlock (s : State) (grid : Nat) (g : Grid) (die core : Nat) (places : List Nat) : State :=
  let id := s.fresh
  let idx := g.nextBlock
  let n := places.length
  let qs := ((List.range 160).map (160 * die + ·)).filter places.contains
  let s1 := openSlice { s with fresh := id + 1 + n } grid die g.hdr.dspad
  let b : Block := ⟨grid, none, false, idx, die, core, qs, n, false, [], [], [], [], s.clock, none⟩
  let s2 := openWindows { s1 with blocks := tblPut s1.blocks id b } id (windowSize g.hdr) qs
  let pc := g.image + BitVec.ofNat 64 (g.hdr.entries.getD 0 0)
  let s3 := (List.range n).foldl (fun s i =>
    let lin := idx * blockGroups g.desc + i
    let x := startGroup g grid id (places.getD i 0) i (groupSerial g (lin % 2 ^ 31)) (threadLanes g i) (threadRegs i)
      (g.desc.kbase + BitVec.ofNat 64 (32 * g.desc.ksize * lin)) pc
    { s with groups := tblPut s.groups (id + 1 + i) x }) s2
  let s4 := updGrid (takeCores s3 id) grid fun g => { g with nextBlock := g.nextBlock + 1 }
  if g.state = .accepted then setGridState s4 grid .started 0 0 else s4

/-- Dies on which a context holds a quadrant. -/
def ctxDies (s : State) (ctx : Nat) : List Nat :=
  (List.range 4).filter fun d => (List.range 160).any fun i => quadHolder s (160 * d + i) = ctx

/-- Places the next block of a grid, on the first die where its resources are free (16 R381).
DEDUCED (unsafe), log entry 44. -/
def placeNext (s : State) (grid : Nat) : Option State :=
  match tblFind s.grids grid with
  | none => none
  | some g =>
    let needs := List.replicate (blockGroups g.desc) g.hdr.regbase
    (ctxDies s g.ctx).findSome? fun die =>
      if (sliceOf s grid die).isSome || roundUp g.hdr.dspad 0x10000 ≤ carveFree s die then
        (placeOnDie s g.ctx die needs g.hdr.spad (windowSize g.hdr)).map fun p => startBlock s grid g die p.1 p.2
      else none

/-- Places n blocks, all or none (16 R383). DEDUCED (unsafe), log entry 44. -/
def placeGang (grid : Nat) : Nat → State → Option State
  | 0, s => some s
  | n + 1, s =>
    match placeNext s grid with
    | none => none
    | some s1 => placeGang grid n s1

/-- A concurrent grid fits the resources of its context (16 R376 check 16): it would be placed if nothing else were.
DEDUCED (unsafe), log entry 44. -/
def gridFits (s : State) (grid : Nat) : Bool :=
  match tblFind s.grids grid with
  | none => true
  | some g =>
    g.cls != 0 ||
      (placeGang grid (gridBlocks g.desc)
        { s with groups := [], blocks := [], windows := [], slices := [], l1 := [], l2 := [], dir := [],
                 grids := [(grid, { g with state := .started })] }).isSome

/-! ### Saved blocks (17 R404): blocks that wait to be placed -/

/-- The place of quadrant i of a block that is not placed: a number no quadrant has. Its loft windows keep their
content there. DESIGN CHOICE (safe), log entry 48. -/
def awayQuad (block i : Nat) : Nat := 1024 + 64 * block + i

/-- Moves a window, with its content, to another quadrant. -/
def moveWindow (s : State) (block q q2 off2 : Nat) : State :=
  match windowOf s block q with
  | none => s
  | some w =>
    let here (a : Nat) : Bool := loftKey q w.off ≤ a && a < loftKey q (w.off + w.size)
    let dataHere := s.loft.filter fun e => here e.1
    let poisonHere := s.loftPoison.filter fun e => here (4 * e.1)
    let shift (a : Nat) : Nat := a - loftKey q w.off + loftKey q2 off2
    { s with
      windows := s.windows.map fun x => if x.block = block && x.quad = q then { x with quad := q2, off := off2 } else x
      loft := dataHere.foldl (fun t e => tblPut t (shift e.1) e.2) (s.loft.filter fun e => !here e.1)
      loftPoison := poisonHere.foldl (fun t e => tblPut t (shift (4 * e.1) / 4) e.2) (s.loftPoison.filter fun e => !here (4 * e.1)) }

/-- A quadrant's array and loft as they are at reset. -/
def newQuad : Quad := ⟨none, false, 0, 0, [], [], [], [], [], 0, 0, 0, 0, 0⟩

def quadOf (s : State) (q : Nat) : Quad := tblGet newQuad s.quads q
def updQuad (s : State) (q : Nat) (f : Quad → Quad) : State := { s with quads := tblSet newQuad s.quads q (f (quadOf s q)) }

/-- The operations of a block's groups move from a quadrant to another with them (17 R405). -/
def moveOps (s : State) (block q q2 : Nat) : State :=
  let mine (gid : Nat) : Bool := (tblFind s.groups gid).any fun g => g.block = block
  let x := quadOf s q
  let s1 := updQuad s q fun x => { x with
    queue := x.queue.filter fun o => !mine o.gid
    facts := x.facts.filter fun o => !mine o.gid
    tests := x.tests.filter fun o => !mine o.gid
    holder := if x.holder = some block then none else x.holder
    releasing := x.releasing && x.holder != some block }
  updQuad s1 q2 fun y => { y with
    queue := y.queue ++ x.queue.filter fun o => mine o.gid
    facts := y.facts ++ x.facts.filter fun o => mine o.gid
    tests := y.tests ++ x.tests.filter fun o => mine o.gid
    holder := if x.holder = some block then x.holder else y.holder
    releasing := if x.holder = some block then x.releasing else y.releasing }

/-- What the scratchpad of a die slice carries moves with it to another die. -/
def moveSpace (s : State) (grid die die2 : Nat) : State :=
  { s with rels := s.rels.map fun r =>
      if r.space = sliceSpace grid die then { r with space := sliceSpace grid die2 } else r }

/-- A quadrant of a saved block has a group: one whose groups have all ended needs no place and no window (12 R266), and
keeps the number it has away. DEDUCED (unsafe), log entry 44. -/
def awayUsed (s : State) (id i : Nat) : Bool := s.groups.any fun e => e.2.block = id && e.2.quad = awayQuad id i

/-- A saved block is placed on quadrants of a die, its groups where they were together (17 R404); `qs` gives each of
its old quadrants a new one. A coach that is placed for the first time takes its window and starts. A block that is
restarted finds its die scratchpad zero when no other block of its die slice is live or saved. -/
def resumeAt (s : State) (id : Nat) (b : Block) (size core die : Nat) (qs : List Nat) : State :=
  let s1 := (List.range qs.length).foldl (fun s i =>
    let q := qs.getD i 0
    let away := awayQuad id i
    let s1 :=
      if (windowOf s id away).isSome then moveWindow s id away q ((windowPlace s q size).getD 0)
      else if awayUsed s id i then openWindows s id size [q]
      else s
    let s2 := if q = away then s1 else moveOps s1 id away q
    { s2 with groups := tblMap s2.groups fun _ g => if g.block = id && g.quad = away then { g with quad := q } else g }) s
  let alone := b.method = some .restart && !(s.blocks.any fun e => e.1 != id && e.2.grid = b.grid && e.2.die = b.die)
  let s1 := if alone then updDieSlice s1 b.grid b.die fun d => { d with bytes := [], bar := newBarrier, arr := [] } else s1
  let s2 := updBlock s1 id fun x => { x with
    saved := false, method := none, quads := qs, core := core, die := die
    start := if b.method.isNone then s.clock else x.start }
  let shift (x : DieSlice) : DieSlice :=
    if x.grid = b.grid && x.die = b.die && x.die != die then
      { x with die := die, granules := freeGranules s die (x.size / 0x10000) }
    else x
  let shiftB (x : Binding) : Binding := if x.grid = b.grid && x.die = b.die then { x with die := die } else x
  let s3 : State := { moveSpace s2 b.grid b.die die with slices := s2.slices.map shift, bindings := tblMap s2.bindings fun _ x => shiftB x }
  let move (_ : Nat) (x : Block) : Block := if x.grid = b.grid && x.die = b.die && x.saved then { x with die := die } else x
  let shiftI (_ : Nat) (x : Inn) : Inn := if x.grid = b.grid && x.die = b.die then { x with die := die } else x
  let ops (_ : Nat) (o : PorterOp) : PorterOp := if o.block = id then { o with die := die } else o
  trimL2 { s3 with blocks := tblMap s3.blocks move, inns := tblMap s3.inns shiftI, porterOps := tblMap s3.porterOps ops } die

/-- The needs of each of a saved block's quadrants: group slots and registers. -/
def awayNeeds (s : State) (id i : Nat) : Nat × Nat :=
  let gs := s.groups.filter fun e => e.2.quad = awayQuad id i
  (gs.length, gs.foldl (fun n e => n + e.2.regbase + 32 * ((List.range 6).filter fun k => e.2.chunks.getLsbD k).length) 0)

/-- Quadrants for a saved block's quadrants, in ascending order; `here` admits one for each. One that needs none keeps
its number. -/
def findQuads (s : State) (here : Nat → Nat → Bool) (id size : Nat) : List Nat → List Nat → Option (List Nat)
  | [], _ => some []
  | i :: r, cand =>
    let need := awayNeeds s id i
    if !awayUsed s id i then (findQuads s here id size r cand).map (awayQuad id i :: ·)
    else
    match cand.find? fun q =>
        let room := quadRoom s q
        here i q && need.1 ≤ room.1 && need.2 ≤ room.2 && (size = 0 || (windowPlace s q size).isSome) &&
        ((quadOf s (awayQuad id i)).holder = none || (quadOf s q).holder = none) with
    | none => none
    | some q => (findQuads s here id size r (cand.filter fun x => q < x)).map (q :: ·)

/-- Where a die slice stands while its context is stopped: a number no die has. DESIGN CHOICE (safe), log entry 48. -/
def awayDie (die : Nat) : Nat := die + 4

/-- Places for a saved block among quadrants, on at most 8 cores (15 R350): the first that fit, or, where those pass 8
cores, on the 8 cores with the most group slots free. DEDUCED (unsafe), log entry 44. -/
def findPlaces (s : State) (here : Nat → Nat → Bool) (id size n : Nat) (cand : List Nat) : Option (List Nat) :=
  let few (l : List Nat) : Bool := (((l.filter fun q => q < 640).map coreOfQuad).eraseDups).length ≤ 8
  match (findQuads s here id size (List.range n) cand).filter few with
  | some l => some l
  | none =>
    let slots (c : Nat) : Nat × Nat := (c, (cand.filter fun q => coreOfQuad q = c).foldl (fun n q => n + (quadRoom s q).1) 0)
    let best := roomiest 8 (((cand.map coreOfQuad).eraseDups).map slots)
    findQuads s here id size (List.range n) (cand.filter fun q => best.contains (coreOfQuad q))

/-- Places a saved block: with the other blocks of its die slice, or where the slice can be placed again; its home core
has room for its scratchpad (08 R188). DEDUCED (unsafe), log entry 44; DESIGN CHOICE (safe), log entry 48. -/
def resumeBlock (s : State) (id : Nat) : Option State :=
  match tblFind s.blocks id with
  | none => none
  | some b =>
    match tblFind s.grids b.grid with
    | none => none
    | some g =>
      let size := windowSize g.hdr
      let carved := ((sliceOf s b.grid b.die).map (·.size)).getD 0
      let dies :=
        if b.die < 4 then [b.die]
        else (b.die % 4 :: ctxDies s g.ctx).filter fun d => (sliceOf s b.grid d).isNone && carved ≤ carveFree s d
      dies.findSome? fun die =>
        let home := ((tblFirst s.groups fun _ x => x.block = id && x.idx = 0).map fun e => e.2.quad - awayQuad id 0).getD 0
        let here (i q : Nat) : Bool := i != home || roundUp g.hdr.spad 0x1000 ≤ scratchFree s g.ctx (coreOfQuad q)
        (findPlaces s here id size b.quads.length (quadsOn s g.ctx die)).map fun qs =>
          takeCores (resumeAt s id b size (coreOfQuad (qs.getD home 0)) die qs) id

/-- Blocks of a context that a stop put away and that are not placed again. -/
def unplaced (s : State) (k : Nat) : Bool :=
  s.blocks.any fun e => e.2.saved && e.2.method.isSome && (tblFind s.grids e.2.grid).any fun g => g.ctx = k

/-- The sources of a context are open (17 R406): it runs, and every block that a stop put away has been placed again. -/
def sourcesOpen (s : State) (k : Nat) : Bool := (tblFind s.ctxs k).any (fun c => c.state = .running) && !unplaced s k

/-! ### Inns and coaches (15 R368-R370) -/

/-- The key's inn. -/
def findInn (s : State) (grid die : Nat) (entry : Long) : Option (Nat × Inn) :=
  tblFirst s.inns fun _ x => x.grid = grid && x.die = die && x.entry = entry

/-- An inn can be taken for a context on a die. -/
def innFree (s : State) (ctx die : Nat) : Bool :=
  let here := s.inns.filter fun e => e.2.die = die
  let mine := here.filter fun e => ((tblFind s.grids e.2.grid).map (·.ctx)).getD 0 = ctx
  let q := ((List.range 160).filter fun i => quadHolder s (160 * die + i) = ctx).length
  here.length < 256 && mine.length < Nat.max 1 (256 * q / 160)

/-- Takes an inn for a key, with the default curfew. -/
def takeInn (s : State) (grid die : Nat) (entry : Long) : State :=
  { s with fresh := s.fresh + 1, inns := tblPut s.inns s.fresh ⟨grid, die, entry, [], 2048, none⟩ }

/-- The lane registers of a coach: lane i has the i-th parcel in v0 onwards. DESIGN CHOICE (unsafe), log entry 40. -/
def coachRegs (ls : List (List Word)) : Tbl Word :=
  (List.range ls.length).foldl (fun t l =>
    let p := ls.getD l []
    (List.range 8).foldl (fun t r => tblSet 0 t (32 * r + l) (p.getD r 0)) t) []

/-- The list of the releases that deposits at an inn make (15 R369): no location carries them.
DEDUCED (unsafe), log entry 82. -/
def innSpace : Nat := 2 ^ 16 + 3

/-- A deposit acts as a release at `.die` by its group (15 R369). DEDUCED (unsafe), log entry 41. -/
def depositRelease (s : State) (gid inn : Nat) : State :=
  { s with rels := (relOf s gid .die false).foldl (fun l r => joinRel l { r with space := innSpace, unit := inn }) s.rels }

/-- What the start of a coach, an acquire at `.die`, learns of the deposits at its inn (15 R370).
DEDUCED (unsafe), log entry 41. -/
def innTimes (s : State) (inn die : Nat) : Times :=
  relTimes ⟨.split, 0, 0, die, 0, 0⟩ .die false (s.rels.filter fun r => r.space = innSpace && r.unit = inn)

/-- A coach of the inn's first lodgers departs: a block of one group that waits to be placed on the inn's die. The
spec gives a coach no linear index: the base of its spill stack is a free value (log entry 40). While a stop has
closed the sources of its context (17 R406), none departs. DESIGN CHOICE (unsafe), log entry 40. -/
def departCoach (s : State) (k : Nat) : State :=
  match tblFind s.inns k with
  | none => s
  | some x =>
    match tblFind s.grids x.grid with
    | none => s
    | some g =>
      if !sourcesOpen s g.ctx then s
      else
      let ls := x.lodgers.take 32
      let id := s.fresh
      let (kb, s1) := freeNext { s with fresh := id + 2 }
      let live := laneMask fun l => l < ls.length
      let grp := startGroup g x.grid id (awayQuad id 0) 0 (groupSerial g (2 ^ 31 + g.coaches % 2 ^ 31)) live (coachRegs ls)
        (BitVec.ofNat 64 (128 * kb)) x.entry
      let b : Block := ⟨x.grid, none, true, g.coaches, x.die, 0, [awayQuad id 0], 1, true, [], [], [], [], s.clock,
        some (x.entry, live, coachRegs ls)⟩
      updGrid { s1 with
          blocks := tblPut s1.blocks id b
          groups := tblPut s1.groups (id + 1) { grp with seen := grp.seen.join (innTimes s k x.die) }
          inns := tblPut s1.inns k { x with
            lodgers := x.lodgers.drop 32, timer := if x.lodgers.length ≤ 32 then none else x.timer } }
        x.grid fun g => { g with coaches := g.coaches + 1 }

/-- The coaches of an inn's lodgers depart, at most n. DESIGN CHOICE (unsafe), log entry 40. -/
def departAll : Nat → State → Nat → State
  | 0, s, _ => s
  | n + 1, s, k =>
    if (tblFind s.inns k).any fun x => x.lodgers != [] then departAll n (departCoach s k) k else s

/-- The partial coach of an inn departs (15 R370), and every full one before it. While the sources of its context are
closed, it is due when they open. DESIGN CHOICE (unsafe), log entry 40. -/
def departPartial (s : State) (k : Nat) : State :=
  match tblFind s.inns k with
  | none => s
  | some x =>
    if x.lodgers = [] then s
    else if sourcesOpen s (((tblFind s.grids x.grid).map (·.ctx)).getD 0) then departAll 33 s k
    else { s with inns := tblPut s.inns k { x with timer := some 0 } }

/-- A coach of the inn is due: a full one, or the partial one whose curfew has expired (15 R370).
DESIGN CHOICE (unsafe), log entry 40. -/
def coachDue (s : State) (x : Inn) : Bool := 32 ≤ x.lodgers.length || x.timer.any fun t => t ≤ s.clock

/-- A PC that lies in a grid's code. -/
def inCode (g : Grid) (pc : Long) : Bool :=
  let o := (pc - g.image).toNat
  0x100 ≤ o && o < 0x100 + g.hdr.codesize

/-- Deposits one lodger (15 R369): its status. A full coach departs. DEDUCED (unsafe), log entry 41. -/
def deposit (s : State) (gid grid die : Nat) (entry : Long) (parcel : List Word) : State × Nat :=
  match tblFind s.grids grid with
  | none => (s, 1)
  | some g =>
    if !inCode g entry then (s, 3)
    else
      let s1 := if (findInn s grid die entry).isNone && innFree s g.ctx die then takeInn s grid die entry else s
      match findInn s1 grid die entry with
      | none => (s, 1)
      | some (k, x) =>
        if 1024 ≤ x.lodgers.length then (s1, 2)
        else
          let x1 : Inn := { x with
            lodgers := x.lodgers ++ [parcel]
            timer := if x.lodgers.length % 32 = 0 then some (s.clock + x.curfew) else x.timer }
          let s2 := depositRelease { s1 with inns := tblPut s1.inns k x1 } gid k
          (if x1.curfew = 0 then departPartial s2 k else if 32 ≤ x1.lodgers.length then departCoach s2 k else s2, 0)

/-- The grid's die slice holds no live group and no coach that waits for a place. -/
def sliceQuiet (s : State) (grid die : Nat) : Bool :=
  !(s.groups.any fun e => e.2.grid = grid && e.2.live != 0 &&
    ((tblFind s.blocks e.2.block).map (·.die)) = some die)

/-- Every partial coach of a quiet die slice departs (15 R370). DEDUCED (unsafe), log entry 41. -/
def departQuiet (s : State) (grid die : Nat) : State :=
  if sliceQuiet s grid die then
    (s.inns.filter fun e => e.2.grid = grid && e.2.die = die && e.2.lodgers != []).foldl (fun s e => departPartial s e.1) s
  else s

/-! ### The end of groups and grids (15 R361, R367) -/

/-- Operations of a group that have not ended. -/
def groupBusy (s : State) (gid : Nat) : Bool :=
  (s.porterOps.any fun e => e.2.gid = gid && (e.2.state = .queued || e.2.state = .running || e.2.unacked != [])) ||
  (s.quads.any fun e =>
    e.2.queue.any (fun o => o.gid = gid) || e.2.pass.any (fun o => o.gid = gid) ||
    e.2.tests.any (fun o => o.gid = gid) || e.2.fills.any (fun o => o.gid = gid) || e.2.facts.any (fun o => o.gid = gid)) ||
  s.flights.any fun f => match f.owner with | .fatom g _ _ => g = gid | .slot .. | .xfer .. => false

/-- What a block gives back when its last group has exited. Its die slice ends with the last block that is resident on
the die and the last lodger of its inns, also where the grid has more blocks to place there, and is zero again when one
is. DESIGN CHOICE (unsafe), log entry 85. -/
def endBlock (s : State) (id : Nat) (b : Block) : State :=
  let s1 := { s with
    blocks := tblDel s.blocks id, windows := s.windows.filter fun w => w.block != id
    rels := s.rels.filter fun r => r.space != scratchSpace s id false }
  let s2 := updGrid s1 b.grid fun g => { g with runs := g.runs + 1, runClocks := g.runClocks + (s.clock - b.start) }
  let s3 := departQuiet s2 b.grid b.die
  let lodged (e : Nat × Inn) : Bool := e.2.grid = b.grid && e.2.die = b.die && e.2.lodgers != []
  if (s3.blocks.any fun e => e.2.grid = b.grid && e.2.die = b.die) || s3.inns.any lodged then s3
  else
    { s3 with
      slices := s3.slices.filter fun x => !(x.grid = b.grid && x.die = b.die)
      rels := s3.rels.filter fun r => r.space != scratchSpace s id true &&
        !(r.space = innSpace && (tblFind s3.inns r.unit).any fun x => x.grid = b.grid && x.die = b.die)
      inns := s3.inns.filter fun e => !(e.2.grid = b.grid && e.2.die = b.die) }

/-- A group whose lanes have all exited ends (15 R361): its EXIT releases at `.pkg` (06 R157). -/
def endGroup (s : State) (gid : Nat) : State :=
  match tblFind s.groups gid with
  | none => s
  | some g =>
    let ctx := ctxOf s g
    let left (s : State) (r : Report) : State :=
      failGrid (sendRecord s ctx (recordRec 8 r.cls ctx r.pc g.serial (if r.cls = 0x0B then r.va.setWidth 256 else 0))) g.grid 0x24
    if releaseHeld s g .pkg then s
    else
    let s0 := release (g.reports.foldl left s) g .pkg
    let s1 := updGrid s0 g.grid fun x => { x with ends := x.ends.join (knowOf s0 gid) }
    let s2 := { s1 with
      groups := tblDel s1.groups gid
      rels := s1.rels.filter fun r => !(r.space = doneSpace && r.unit = gid)
      producers := s1.producers.filter fun e => e.2.gid != gid
      porterOps := s1.porterOps.filter fun e => e.2.gid != gid }
    match tblFind s2.blocks g.block with
    | none => s2
    | some b =>
      let s3 :=
        if s2.groups.any fun e => e.2.block = g.block && e.2.quad = g.quad then s2
        else
          { s2 with
            windows := s2.windows.filter fun w => !(w.block = g.block && w.quad = g.quad)
            quads := if (quadOf s2 g.quad).holder = some g.block then
                tblSet newQuad s2.quads g.quad { quadOf s2 g.quad with holder := none, releasing := false }
              else s2.quads }
      wake (if s3.groups.any fun e => e.2.block = g.block then departQuiet s3 b.grid b.die else endBlock s3 g.block b)

/-- A queue holds an entry that a grid has pushed, or one block of it, and that is not accepted. -/
def pushedBy (s : State) (grid : Nat) (block : Option Nat) : Bool :=
  s.queues.any fun q => q.2.pushed.any fun p => p.2.1 = grid && block.all fun b => p.2.2 = b

/-- A grid retires when it may (15 R367): all its blocks and coaches have exited, no inn of it holds a lodger, and its
children have retired, those that are yet to be accepted too. -/
def mayRetire (s : State) (grid : Nat) (g : Grid) : Bool :=
  g.state = .started && gridBlocks g.desc ≤ g.nextBlock && !(s.blocks.any fun e => e.2.grid = grid) &&
  !(s.inns.any fun e => e.2.grid = grid && e.2.lodgers != []) && !pushedBy s grid none &&
  s.grids.all fun e => e.2.parent != grid || gridFinal e.2.state

/-- The records of a grid in a final state that nothing asks for are dropped: a host command's, and those of the
children of a grid that has ended. One that has pushed a command which is not accepted stays (16 R378 PARENT). -/
def dropGrids (s : State) (grid : Nat) : State :=
  { s with grids := s.grids.filter fun e =>
      pushedBy s e.1 none ||
      !(e.2.parent = grid && gridFinal e.2.state) && !(e.1 = grid && e.2.parent = 0 && gridFinal e.2.state) }

/-- The retirement of a grid acquires what the EXITs of its groups and of its children's have released, and its
guestbook entry carries that (06 R157). -/
def hearEnds (s : State) (grid : Nat) (g : Grid) : State :=
  let t := (s.grids.filter fun e => e.2.parent = grid).foldl (fun t e => t.join e.2.ends) g.ends
  let p := partView s deviceCore g.ctx
  setPartView (updGrid s grid fun g => { g with ends := t }) { p with known := p.known.join t }

/-- A grid retires, if it may. -/
def retire (s : State) (grid : Nat) : State :=
  match tblFind s.grids grid with
  | none => s
  | some g =>
    if !mayRetire s grid g then s
    else
      let s1 :=
        match g.failure with
        | some (cause, detail) => setGridState (hearEnds s grid g) grid .failed cause detail
        | none => setGridState (hearEnds s grid g) grid .complete 0 0
      wake (dropGrids s1 grid)

end Sys2Proof.Machine
end

