-- ==== Sys2Proof/Machine/MemoryIns.lean ====
section
/-! DEFINITION. Opcodes 0x84-0x98: loads, stores, atomics, fences, prefetch and cache maintenance (07). -/

namespace Sys2Proof.Machine

/-! ### What an instruction's lanes do -/

/-- The four address spaces (07 R160). -/
inductive Space where
  | vm | bs | ds | k
  deriving DecidableEq, Repr

/-- A memory instruction at its issue: who accesses, the space, kind of access, width, ordering and scope. -/
structure Access where
  c : Ins
  w : Who
  sp : Space
  acc : Acc
  size : Nat
  ord : MOrd
  sc : Scope
  wide : Bool

def accessOf (c : Ins) (s : State) (sp : Space) (acc : Acc) (at_ : MAttr) : Access :=
  ⟨c, whoOf s c.g, sp, acc, at_.size.bytes, at_.ord, at_.scope, wideScope s c.g at_.scope⟩

/-- Progress over the lanes: what they have read, how they failed, device answers that are due, whether an access
was to device or alias memory, and the lanes of an atomic that write once their reads have come (07 R163). -/
structure Prog where
  s : State
  vals : Tbl Nat
  errs : List (Nat × LaneErr)
  io : Nat
  wants : Nat
  dev : Bool
  outs : List (Nat × Nat)

def Prog.fail (m : Prog) (l : Nat) (e : LaneErr) : Prog := { m with errs := m.errs ++ [(l, e)] }
def Prog.read (m : Prog) (l : Nat) (bs : List Byte) : Prog := { m with vals := tblPut m.vals l (natOfBytes bs) }

/-- A fault of a lane's access, and what its walk has changed (04 R107). -/
def Prog.fault (m : Prog) (w : Who) (f : TFault) (va : Long) : Prog := { m with s := afterWalk m.s w va f.acc }

def errClass : LaneErr → Nat
  | .fault f => if f.cls = 0x13 then 0x13 else 0x0A
  | .access .. => 9
  | .data _ => 0x0B

def errCause : LaneErr → Nat
  | .fault f => f.cls
  | .access e _ _ => e
  | .data _ => 0

/-- The record of a lane (04 R114, 17 R395). DEDUCED (unsafe), log entry 32. -/
def errRecord : LaneErr → BitVec 256
  | .fault f => faultRecord f
  | .access _ va acc => BitVec.ofNat 256 (va.toNat + acc * 2 ^ 165)
  | .data va => va.setWidth 256

/-- A fault that goes to the parent (04 R112). DEDUCED (unsafe), log entry 32. -/
def parentErr : LaneErr → Bool
  | .fault f => decide (0x10 ≤ f.cls)
  | .access .. | .data _ => false

/-- The trap of the lanes that failed (17 R388): the first class that a lane raised, and its cause in the lowest lane of
that class. If a lane's fault goes to the parent, the trap does, with the records of such lanes alone: the others are
performed again when the instruction resumes (04 R113). DEDUCED (unsafe), log entry 32. -/
def memTrap (c : Ins) (es : List (Nat × LaneErr)) : Trap :=
  let up := es.filter fun e => parentErr e.2
  let told := if up = [] then es else up
  let cls := told.foldl (fun m e => Nat.min m (errClass e.2)) 0x13
  let first := ((told.find? fun e => errClass e.2 = cls)).map (·.2)
  { trapAt c.p cls ((first.map errCause).getD 0) (es.foldl (fun m e => m ||| laneBit e.1) 0) with
    recs := told.foldl (fun t e => tblPut t e.1 (errRecord e.2)) [] }

/-- The trap of an error of an instruction that acts once for its split: the record is its lowest active lane's. -/
def onceTrap (c : Ins) (e : LaneErr) : Trap := { memTrap c [(firstLane c.act, e)] with mask := c.act }

/-- The trap of a read that an instruction makes once for its split: a plain load at `.pkg` (04 R113, 15 R366). -/
def readTrap (c : Ins) (e : EngErr) : Trap :=
  onceTrap c (match e with
    | .fault f => .fault { f with acc := .load }
    | .data va | .host va _ _ => .data va)

/-- The lanes that make an access: one for a scalar register (07 R165). -/
def memLanes (d : Dst) (act : Lanes) : List Nat := if d.file = .scalar then [firstLane act] else laneList act

/-- The pieces of a lane's access: a line each, or for the spill stack a word each (07 R167). -/
def spillPieces (g : Group) (l a n : Nat) : List (Long × Nat) :=
  let va (o : Nat) : Long := g.kbase + BitVec.ofNat 64 (o / 4 * 128 + 4 * l + o % 4)
  (List.range ((a + n + 3) / 4 - a / 4)).map fun k =>
    let lo := Nat.max a (4 * (a / 4 + k))
    (va lo, Nat.min (a + n) (4 * (a / 4 + k) + 4) - lo)

/-- DEDUCED (unsafe), log entry 32. -/
def piecesAt (x : Access) (l : Nat) (a : Long) : List (Long × Nat) :=
  if x.sp = .k then spillPieces x.c.g l a.toNat x.size else piecesOf a x.size

/-- The checks of a lane's address before any access (07 R160, R161): of one that is both misaligned where that is
refused and not canonical, the misalignment is reported. DESIGN CHOICE (unsafe), log entry 85. -/
def addrErr (s : State) (x : Access) (a : Long) (ordered : Bool) : Option LaneErr :=
  let bound : Option Nat :=
    match x.sp with
    | .vm => none
    | .bs => some (scratchSize s x.c.g.block false)
    | .ds => some (scratchSize s x.c.g.block true)
    | .k => some x.c.g.ksize
  if bound.any fun b => b < a.toNat + x.size then some (.access 2 a (accCode x.acc))
  else if ordered && a.toNat % x.size != 0 then some (.access 1 a (accCode x.acc))
  else if x.sp = .vm && !canonical a then some (.fault ⟨0x05, a, 0, 0, false, x.acc, asidOf x.w.ctx a⟩)
  else none

/-- A memory-type fault at a leaf that the walk has passed (07 R163, 04 R112). -/
def typeFault (s : State) (w : Who) (va : Long) (acc : Acc) : TFault := leafFault s w 0x04 va acc

/-- What a store of a group releases where it is performed: its release fences, and itself if it is a release (06
R146). -/
def storeRels (s : State) (x : Access) : List Rel :=
  fenceOf s x.c.gid ++ if releases x.ord then relOf s x.c.gid x.sc false else []

/-- A release at `.die` or wider (05 R123). -/
def wideRelease (x : Access) : Bool := releases x.ord && (x.sc = .die || x.sc = .pkg || x.sc = .sys)

/-- A group has read n bytes of a space that no cache holds. -/
def readBare (s : State) (x : Access) (space a n : Nat) : State :=
  noteRead s x.c.gid (acquires x.ord) x.sc false x.wide (relsAt s space a n)

/-- A group has written n bytes of a space that no cache holds; `rmw` is an RMW. -/
def wroteBare (s : State) (x : Access) (space a n : Nat) (rmw : Bool) : State :=
  putRels s space a n rmw (carryAt space a n (storeRels s x))

/-- A store would push an entry out of a full queue to a line that the Paorid die holds requests to (05 R132).
DEDUCED (safe), log entry 69. -/
def queueHeld (s : State) (x : Access) : Bool :=
  let mine := s.sq.filter fun e => e.core = coreOfQuad x.c.g.quad
  s.dirStatus.any (·.2.recov) && 32 < mine.length + 2 * (laneList x.c.act).length && drainHeld s fun e => e.core = coreOfQuad x.c.g.quad

/-- A lane's access meets a line that the Paorid die holds requests to (05 R132): the instruction waits. -/
def linesHeld (s : State) (x : Access) (write : Bool) (lanes : List Nat) (addr : Nat → Long) : Bool :=
  (x.sp = .vm || x.sp = .k) && s.dirStatus.any (·.2.recov) &&
    lanes.any fun l => (piecesAt x l (addr l)).any fun p =>
      heldRequest s x.w.die (asidOf x.w.ctx p.1) (lineOf p.1.toNat) write

/-- Performs the queued stores of the core to the line before an access that passes the queue by (05 R118). -/
def drainLine (s : State) (x : Access) (va : Long) : State :=
  let core := coreOfQuad x.c.g.quad
  let mine (e : StoreEntry) : Bool := e.core = core && e.ctx = x.w.ctx
  if s.sq.any fun e => mine e && e.asid = asidOf x.w.ctx va && e.va = lineOf va.toNat then drain s mine else s

/-! ### Special memory (07 R163, R168) -/

/-- Sends a non-posted request to the host edge for the bytes of a lane (07 R168). DEDUCED (unsafe), log entry 31. -/
def request (m : Prog) (x : Access) (l off : Nat) (va : Long) (peer : Option (BitVec 16)) (bytes : Nat)
    (out : Nat → BitVec 16 → BusOut) : Prog :=
  let io := if m.io = 0 then m.s.fresh else m.io
  let tag := m.s.fresh + 1
  { m with
    io := io, wants := m.wants + 1, dev := true
    s := { m.s with
      fresh := m.s.fresh + 2
      requests := m.s.requests ++ [⟨tag, io, l, off, bytes, peer, va⟩]
      bus := m.s.bus ++ [out tag (requesterId m.s x.w.ctx)] } }

/-- The requester ID that must answer for a peer window's address (19 R441). -/
def peerRid (s : State) (ma : Nat) : Option (BitVec 16) :=
  if regionOf s ma = .peer then (tblFind s.peerWin ((ma - 0x110000000000) / 2 ^ 34)).map (·.rid) else none

/-- A load from memory that is not normal: its bytes, or the error. A read of the host or a peer gives zeros here and
its bytes later. `a` is the lane's address. Of a misaligned access that its memory does not support either, the
misalignment is reported (log entry 90). DEDUCED (unsafe), log entry 31; DESIGN CHOICE (unsafe), log entry 90. -/
def loadSpecial (m : Prog) (x : Access) (l off : Nat) (va : Long) (n : Nat) (a : Long) (ma : Nat) (p : Perm) :
    Prog × Except LaneErr (List Byte) :=
  let s := m.s
  let bad (cause : Nat) : Prog × Except LaneErr (List Byte) := (m, .error (.access cause a (accCode x.acc)))
  if x.sp = .k then (m, .error (.fault (typeFault s x.w va x.acc)))
  else if p.mt != .uncached && a.toNat % x.size != 0 then bad 1
  else
    match regionOf s ma with
    | .stack | .tier =>
      if poisoned s ma || poisoned s (ma + n - 1) then (m, .error (.data a))
      else ({ m with s := readBare s x (asidOf x.w.ctx va) va.toNat n }, .ok (memBytes s.mem ma n))
    | .regs =>
      if x.size = 4 || x.size = 8 then
        ({ m with dev := true }, .ok (bytesOfNat n (regRead s (some x.w.ctx) (ma - 0x130000000000) n)))
      else bad 3
    | .aliasMem =>
      if x.size < 4 then bad 3
      else
        match aliasLoadVa s ma with
        | none => bad 3
        | some rva =>
          match vmRead (drainLine s x rva) x.w rva n .load with
          | .ok (s1, bs) =>
            ({ m with s := readBare s1 x (asidOf x.w.ctx rva) rva.toNat n, dev := true }, .ok bs)
          | .error (.fault f) => (m.fault x.w { f with acc := .load } rva, .error (.fault { f with acc := .load }))
          | .error (.data _) => (m, .error (.data a))
          | .error (.host _ hma k) =>
            (request m x l off a (peerRid s hma) k fun t rid => .read t ((busAddr s hma).getD 0) k rid,
              .ok (List.replicate n 0))
    | .host | .peer =>
      match busAddr s ma with
      | none => ({ m with dev := true }.fail l (.data a), .ok (List.replicate n 0xFF))
      | some b =>
        let one (m : Prog) (o k : Nat) : Prog :=
          request m x l (off + o) a (peerRid s ma) k fun t rid => .read t (b + o) k rid
        let m1 := if n = 16 then one (one m 0 8) 8 8 else one m 0 n
        (m1, .ok (List.replicate n 0))
    | .reserved => (m, .error (.fault (typeFault s x.w va x.acc)))

/-- A piece of a lane's store, numbered `id`. -/
def storePart (x : Access) (id : Nat) (lane va : Long) (bs : List Byte) : StorePart :=
  ⟨va, lane, x.size, id, bs, x.c.p.pc, x.c.g.serial, x.w.handler, wideRelease x, []⟩

/-- The launch queue whose QTAIL a device register is, if the host writes it (16 R372, R374). -/
def tailQueue (s : State) (off : Nat) : Option Nat :=
  let q := (off - 0x1000000) / 64
  if 0x1000000 ≤ off && q < 4096 && off % 64 = 0x18 && !(queueOf s q).dev then some q else none

/-- A store to QTAIL is a release at `.sys`, which the acceptance acquires (16 R374, 06 R157).
DEDUCED (unsafe), log entry 43. -/
def tailRelease (s : State) (c : Ins) (off : Nat) : State :=
  match tailQueue s off with
  | none => s
  | some q =>
    let s1 := release s c.g .sys
    updQueue s1 q fun k => { k with times := k.times.join (knowOf s1 c.gid) }

/-- A store to a virtual address is one to such a QTAIL. -/
def tailStore (s : State) (x : Access) (va : Long) : Bool :=
  x.sp = .vm &&
  match translate s x.w va .store with
  | .ok (s1, t) => regionOf s1 t.ma = .regs && (tailQueue s1 (t.ma - 0x130000000000)).isSome
  | .error _ => false

/-- A store to memory that is not normal: an access-trap cause, or the class of a fault. One that its alias window
does not take, or to a peer window that is not bound, is discarded with an orphan record, a release too (14 R320-R322,
19 R441). Of the orders of device stores that 06 R156 allows, the model has that of issue (24 R466). DEDUCED (unsafe),
log entry 31; DESIGN CHOICE (unsafe), log entry 90. -/
def storeSpecial (s : State) (x : Access) (va : Long) (bs : List Byte) (a : Long) (ma : Nat) (p : Perm) :
    Except LaneErr State :=
  let bad (cause : Nat) : Except LaneErr State := .error (.access cause a (accCode x.acc))
  let part := storePart x 0 a a []
  if x.sp = .k then .error (.fault (typeFault s x.w va x.acc))
  else if p.mt != .uncached && a.toNat % x.size != 0 then bad 1
  else
    let clear (s : State) : State := updGroup s x.c.gid fun g => { g with idem := false }
    match regionOf s ma with
    | .stack | .tier => .ok (wroteBare (memStore s ma bs) x (asidOf x.w.ctx va) va.toNat bs.length false)
    | .regs =>
      if x.size = 4 || x.size = 8 then
        let off := ma - 0x130000000000
        .ok (clear (regWrite (tailRelease s x.c off) (some x.w.ctx) off bs.length (natOfBytes bs) x.c.p.pc x.c.g.serial))
      else bad 3
    | .aliasMem =>
      if x.size < 4 then bad 3
      else
        let far := releases x.ord && (x.sc = .pkg || x.sc = .sys)
        match aliasStore s ma bs (if far then knowOf s x.c.gid else x.c.g.relayed) with
        | .ok s1 => .ok (clear s1)
        | .error e =>
          .ok (orphan s x.w.ctx part (orphanAccess x.w.ctx part e))
    | .host | .peer =>
      match busAddr s ma with
      | none => .ok (orphan s x.w.ctx part (orphanAccess x.w.ctx part 3))
      | some b =>
        .ok (clear (postWrites (putDevRels s (storeRels s x)) x.w.ctx b bs))
    | .reserved => .error (.fault (typeFault s x.w va x.acc))

/-! ### Loads (07 R164, R165) -/

/-- The check of one piece of an access before it is made, with the state that its walk leaves: the permission held with
its line, or a translation (05 R118, 04 R99, R107). -/
def probe (s : State) (x : Access) (va : Long) : State × Except Miss Unit :=
  let asid := asidOf x.w.ctx va
  let lva := lineOf va.toNat
  match addressFault s x.w va x.acc with
  | some f => (s, .error (.fault f))
  | none =>
    let l1 := ((l1Find s (coreOfQuad x.c.g.quad) x.w.ctx asid lva).filter (l1Valid s)).map (·.perm)
    let held := l1.or ((s.l2.find? fun l => l.asid = asid && l.va = lva && (l.die = x.w.die || tracked s asid lva)).map (·.perm))
    match held with
    | some p => (s, if permOk p x.acc x.w.handler then .ok () else .error (.fault (heldFault s x.w va x.acc)))
    | none =>
      match translate s x.w va x.acc with
      | .error f => (afterWalk s x.w va x.acc, .error (.fault f))
      | .ok (s1, t) => (s1, if t.perm.mt = .normal then .ok () else .error (.special t.ma t.perm))

/-- What each piece of a lane's access meets, before any is made (07 R161). -/
def probePieces (x : Access) : List (Long × Nat) → State → State × Except LaneErr (List (Long × Nat × Option (Nat × Perm)))
  | [], s => (s, .ok [])
  | (va, n) :: r, s =>
    let onward (s1 : State) (sp : Option (Nat × Perm)) : State × Except LaneErr (List (Long × Nat × Option (Nat × Perm))) :=
      match probePieces x r s1 with
      | (s2, .error e) => (s2, .error e)
      | (s2, .ok t) => (s2, .ok ((va, n, sp) :: t))
    match probe s x va with
    | (s1, .error (.fault f)) => (s1, .error (.fault f))
    | (s1, .error (.special ma p)) => onward s1 (some (ma, p))
    | (s1, .ok ()) => onward s1 none

/-- The pieces of a lane's load from virtual memory, lowest first. -/
def loadPieces (x : Access) (l : Nat) (a : Long) : List (Long × Nat) → Nat → Prog → Prog × Except LaneErr (List Byte)
  | [], _, m => (m, .ok [])
  | (va, n) :: r, off, m =>
    let core := coreOfQuad x.c.g.quad
    let one : Prog × Except LaneErr (List Byte) :=
      match coreRead m.s x.w core va x.acc ((x.wide && acquires x.ord) || x.c.p.full) (acquires x.ord) true with
      | .ok (s1, t) =>
        let rs := relsSeen s1 core x.w.ctx (asidOf x.w.ctx va) va.toNat n
        let s2 := noteRead (noteSeen s1 x.c.gid (asidOf x.w.ctx va) (lineOf va.toNat) t.die t.wts) x.c.gid (acquires x.ord)
          x.sc false x.wide rs
        if touchesPoison t.poison (va.toNat % 128) n then ({ m with s := s2 }, .error (.data a))
        else ({ m with s := s2 }, .ok (lineBytes t.data (va.toNat % 128) n))
      | .error (.fault f) => (m.fault x.w f va, .error (.fault f))
      | .error (.special ma p) => loadSpecial { m with s := afterAccess m.s x.w va x.acc } x l off va n a ma p
    match one with
    | (m1, .error e) => (m1, .error e)
    | (m1, .ok bs) =>
      match loadPieces x l a r (off + n) m1 with
      | (m2, .error e) => (m2, .error e)
      | (m2, .ok rest) => (m2, .ok (bs ++ rest))

/-- The VA of a lane's record is the lane's own address (04 R114). -/
def laneErr (x : Access) (a : Long) : LaneErr → LaneErr
  | .fault f => .fault (if x.sp = .k then f else { f with va := a })
  | e => e

/-- One lane of a load. All the bytes of an access in several lines are translated before it is made (07 R161). -/
def loadLane (x : Access) (addr : Nat → Long) (m : Prog) (l : Nat) : Prog :=
  let a := addr l
  match addrErr m.s x a (x.ord != .plain) with
  | some e => m.fail l e
  | none =>
    let scratch (die : Bool) : Prog :=
      let b := x.c.g.block
      if scratchPoison m.s b die a.toNat x.size then m.fail l (.data a)
      else
        { m with s := readBare m.s x (scratchSpace m.s b die) a.toNat x.size }.read l
          (scratchRead m.s b die a.toNat x.size)
    match x.sp with
    | .bs => scratch false
    | .ds => scratch true
    | .vm | .k =>
      let ps := piecesAt x l a
      match (if ps.length ≤ 1 then (m.s, .ok []) else probePieces x ps m.s) with
      | (s1, .error e) => { m with s := s1 }.fail l (laneErr x a e)
      | (s1, .ok _) =>
        match loadPieces x l a ps 0 { m with s := s1 } with
        | (m1, .ok bs) => m1.read l bs
        | (m1, .error e) => m1.fail l (laneErr x a e)

def newProg (s : State) : Prog := ⟨s, [], [], 0, 0, false, []⟩

/-- What a load fills its register with: the sign of a signed format that the register is wider than (07 R164, 03
R61). -/
def extendLoad (ty : Fmt) (size x : Nat) : Nat :=
  match ty with
  | .i8 => truncInt 64 (intOf 8 true x)
  | .i16 => truncInt 64 (intOf 16 true x)
  | .i32 => truncInt 64 (intOf 32 true x)
  | _ => x % 2 ^ (8 * size)

/-- The words a lane's value writes into n lane registers, or into a scalar. -/
def wordWrites (d : Dst) (n : Nat) (lanes : Lanes) (f : Nat → Nat) : List RegWrite :=
  match d.file with
  | .lane => (List.range n).map fun k =>
      ⟨.lane, d.reg.toNat + k, lanes, (List.range 32).map fun l => BitVec.ofNat 64 (f l / 2 ^ (32 * k) % 2 ^ 32)⟩
  | .scalar => [⟨.scalar, d.reg.toNat, lanes, [BitVec.ofNat 64 (f (firstLane lanes))]⟩]
  | .special | .latch => []

/-- The registers of a destination of n lane registers, or m scalars. -/
def dstKeys (d : Dst) (n m : Nat) : List Nat :=
  (List.range (if d.file = .scalar then m else n)).map fun k => regKey d.file (d.reg.toNat + k)

/-- What a read writes: the values of its lanes. A lane that failed keeps what it had (07 R169). -/
def readWrites (d : Dst) (n : Nat) (m : Prog) (f : Nat → Nat) : List RegWrite :=
  let vals := m.vals.filter fun e => !m.errs.any fun r => r.1 = e.1
  let lanes := vals.foldl (fun t e => t ||| laneBit e.1) 0
  if lanes = 0 then [] else wordWrites d n lanes fun l => f (tblGet 0 vals l)

/-- The state at the end of a read of device memory: the IDEM flag is clear (17 R401), and an acquire takes up what
stores to host and peer memory have released (06 R156). DEDUCED (unsafe), log entry 31. -/
def readDev (x : Access) (m : Prog) : State :=
  if m.dev then
    let s1 := updGroup m.s x.c.gid fun g => { g with idem := false }
    noteRead s1 x.c.gid (acquires x.ord) x.sc false x.wide (s1.rels.filter fun r => r.space = devSpace)
  else m.s

/-- A read ends (07 R165, R169): the lanes performed write what they read, at the completion of a producer, or at once
before the trap of the lanes that failed. `n` registers are written of those marked. -/
def readEnd (x : Access) (d : Dst) (marks : List Nat) (n : Nat) (m : Prog) (f : Nat → Nat) : Act :=
  let s2 := readDev x m
  let ws := readWrites d n m f
  match m.errs with
  | [] => .done (produce s2 x.c.gid marks ws [])
  | es => .trap (memTrap x.c es) (updGroup s2 x.c.gid fun g => setEmpty (ws.foldl writeReg g) marks false)

/-- A read whose answers are due waits for them, with its registers empty. -/
def readWait (x : Access) (marks : List Nat) (m : Prog) : Act :=
  .park { updGroup m.s x.c.gid fun g =>
      setEmpty (updPath g x.c.p.lanes fun p => { p with await := some (.io m.io) }) marks true with
    ios := tblPut m.s.ios m.io ⟨x.c.gid, m.wants, m.vals, m.errs, [], m.outs⟩ }

/-- A read by lanes: it goes on from its answers, or starts; `late` is what it does with its answers. -/
def readBy (x : Access) (d : Dst) (marks : List Nat) (n : Nat) (s : State) (f : Nat → Nat) (start late : Prog → Prog) : Act :=
  match x.c.p.await with
  | some (.io id) =>
    match tblFind s.ios id with
    | none => .wait
    | some io =>
      if io.wants != 0 then .wait
      else
        readEnd x d marks n (late ⟨{ s with ios := tblDel s.ios id }, io.vals, io.errs, 0, 0, true, io.outs⟩) f
  | _ =>
    let m := start (newProg s)
    if m.wants = 0 then readEnd x d marks n m f else readWait x marks m

/-- DEDUCED (unsafe), log entry 29. -/
def loadBody (sp : Space) (ty : Fmt) (at_ : MAttr) (d : Dst) (mo : MemOpd) (c : Ins) (s : State) : Act :=
  let x := accessOf c s sp .load at_
  if c.p.await.isNone && linesHeld s x false (memLanes d c.act) (memAddr c.g c.p mo) then .wait
  else
    readBy x d (dstKeys d at_.size.regs 1) at_.size.regs s (extendLoad ty at_.size.bytes)
      (fun m => (memLanes d c.act).foldl (loadLane x (memAddr c.g c.p mo)) m) id

/-! ### Stores (07 R165, R169, R170) -/

/-- The bytes a lane stores. -/
def storeData (g : Group) (d : Dst) (size l : Nat) : List Byte :=
  match d.file with
  | .scalar => bytesOfNat size (sGet g d.reg.toNat).toNat
  | _ => ((List.range 4).flatMap fun k => bytesOfNat 4 (vGet g (d.reg.toNat + k) l).toNat).take size

/-- A store enters the core's store queue with the releases that it carries (05 R118): it is merged with a queued
store to its line; the oldest entry leaves a full queue. DEDUCED (unsafe), log entry 28. -/
def pushStore (s : State) (x : Access) (id : Nat) (lane va : Long) (bs : List Byte) (carry : List Rel) : State :=
  let core := coreOfQuad x.c.g.quad
  let asid := asidOf x.w.ctx va
  let lva := lineOf va.toNat
  let p : StorePart := { storePart x id (if x.sp = .k then va else lane) va bs with carry := carry }
  let s1 := l1Patch s core x.w.ctx asid lva (va.toNat % 128) 0 bs
  let same (e : StoreEntry) : Bool := e.core = core && e.ctx = x.w.ctx && e.asid = asid && e.va = lva
  if s1.sq.any same then { s1 with sq := s1.sq.map fun e => if same e then { e with parts := e.parts ++ [p] } else e }
  else
    let mine := s1.sq.filter fun e => e.core = core
    let s2 := if mine.length < 32 then s1 else
      match mine.head? with
      | some e => performEntry s1 e
      | none => s1
    { s2 with sq := s2.sq ++ [⟨core, x.w.ctx, asid, lva, [p]⟩] }

/-- Makes the pieces of a lane's store, numbered `id`. A release of wide scope is performed at the L2 at once. -/
def makePieces (x : Access) (id : Nat) (a : Long) : List (Long × Nat × Option (Nat × Perm)) → List Byte → State → Except LaneErr State
  | [], _, s => .ok s
  | (va, n, some (ma, p)) :: r, bs, s =>
    match storeSpecial s x va (bs.take n) a ma p with
    | .error e => .error e
    | .ok s1 => makePieces x id a r (bs.drop n) s1
  | (va, n, none) :: r, bs, s =>
    let asid := asidOf x.w.ctx va
    let carry := carryAt asid va.toNat n (storeRels s x)
    if x.wide && releases x.ord then
      match l2Write s x.w va (bs.take n) x.acc (wideRelease x) with
      | .ok s1 => makePieces x id a r (bs.drop n) (putRels s1 asid va.toNat n false carry)
      | .error (.fault f) => .error (.fault f)
      | .error (.special ma p) =>
        match storeSpecial s x va (bs.take n) a ma p with
        | .error e => .error e
        | .ok s1 => makePieces x id a r (bs.drop n) s1
    else makePieces x id a r (bs.drop n) (pushStore s x id a va (bs.take n) carry)

/-- One lane of a store. A plain store that fails after its issue leaves an orphan record (07 R170).
DEDUCED (unsafe), log entry 28. -/
def storeLane (x : Access) (d : Dst) (addr : Nat → Long) (m : Prog) (l : Nat) : Prog :=
  let a := addr l
  let bs := storeData x.c.g d x.size l
  match addrErr m.s x a (x.ord != .plain) with
  | some e => m.fail l e
  | none =>
    match x.sp with
    | .bs | .ds =>
      let die := x.sp = .ds
      let b := x.c.g.block
      { m with s := wroteBare (scratchWrite m.s b die a.toNat bs) x (scratchSpace m.s b die) a.toNat x.size false }
    | .vm | .k =>
      let id := m.s.fresh
      let made : State × Except LaneErr State :=
        match probePieces x (piecesAt x l a) { m.s with fresh := id + 1 } with
        | (s1, .error e) => (s1, .error e)
        | (s1, .ok ps) => (s1, makePieces x id a ps bs s1)
      match made with
      | (_, .ok s1) => { m with s := s1 }
      | (s1, .error e) =>
        let m := { m with s := s1 }
        let e := laneErr x a e
        if releases x.ord then m.fail l e
        else
          match e with
          | .fault f =>
            if f.cls = 0x05 then m.fail l e
            else
              let p := storePart x id a a []
              { m with s := orphan m.s x.w.ctx p (faultRec 1 x.w.ctx x.c.p.pc x.c.g.serial f) }
          | .access cause va _ =>
            let p := storePart x id va va []
            { m with s := orphan m.s x.w.ctx p (orphanAccess x.w.ctx p cause) }
          | .data _ => m

/-- A store must wait for a slice that is being recovered (05 R132): for its line or its queue, or for what its release
waits for. DEDUCED (unsafe), log entry 28. -/
def storeWaits (s : State) (x : Access) (lanes : List Nat) (addr : Nat → Long) : Bool :=
  queueHeld s x ||
  (releases x.ord && (releaseHeld s x.c.g x.sc || (x.wide && linesHeld s x true lanes addr))) ||
  (lanes.any (fun l => tailStore s x (addr l)) && releaseHeld s x.c.g .sys)

def storeBody (sp : Space) (at_ : MAttr) (d : Dst) (mo : MemOpd) (c : Ins) (s : State) : Act :=
  let x := accessOf c s sp .store at_
  let addr := memAddr c.g c.p mo
  if storeWaits s x (memLanes d c.act) addr then .wait
  else
    let s1 := if releases x.ord then release s c.g at_.scope else s
    let m := (memLanes d c.act).foldl (storeLane x d addr) (newProg s1)
    match m.errs with
    | [] => .done m.s
    | es => .trap (memTrap c es) m.s

/-! ### Atomics (07 R171-R176) -/

/-- ATOM's new value (07 R171). -/
def atomNew (op : AtomOp) (ty : Fmt) (n old v : Nat) : Nat :=
  let sg := ty = .i32 || ty = .i64
  match op with
  | .add => (old + v) % 2 ^ n
  | .and => Nat.land old v
  | .or => Nat.lor old v
  | .xor => Nat.xor old v
  | .min => if intOf n sg v < intOf n sg old then v else old
  | .max => if intOf n sg old < intOf n sg v then v else old
  | .exch => v
  | .inc => if v ≤ old then 0 else (old + 1) % 2 ^ n

/-- ATOMF's new element (07 R174). -/
def atomFElem (op : AtomFOp) (f : FloatFmt) (old v : Nat) : Nat :=
  let a := valOf f old
  let b := valOf f v
  match op with
  | .add => roundTo f .rne (vAdd false a b)
  | .min => if vIsNan a || vIsNan b then f.nanb else if vBelow b a then v else old
  | .max => if vIsNan a || vIsNan b then f.nanb else if vBelow a b then v else old

def atomFNew (op : AtomFOp) (ty : Fmt) (old v : Nat) : Nat :=
  let f := (floatFmt ty).getD fp32
  packElems (elemBits ty) ((List.range ty.elems).map fun i => atomFElem op f (elemOf ty old i) (elemOf ty v i))

/-- How an atomic reaches memory: as ATOM and CAS do, or as PROM or AMAXR does, over every store queue and L1 (07 R176,
06 R150). -/
inductive Reach where
  | own | prom | reset
  deriving DecidableEq, Repr

/-- A PCI Express AtomicOp: FetchAdd, Swap or CAS, as 0, 1 or 2, with its operands (07 R163). -/
structure BusOp where
  code : Nat
  a : Nat
  b : Nat

/-- An atomic as its lanes perform it: the new value, or nothing written, and the AtomicOp of device memory. -/
structure Rmw where
  reach : Reach
  new : Nat → Nat → Option Nat
  busOp : Nat → Option BusOp

/-- The queued stores that PROM and AMAXR have performed first: those to the line, and those of each way partition
whose release the location carries, which a release at PROM's scope would have waited for (06 R150, R147).
DEDUCED (unsafe), log entry 86. -/
def promStore (s : State) (asid : Nat) (va : Long) (e : StoreEntry) : Bool :=
  let here (r : Rel) : Bool := r.space = asid && r.unit / 32 = va.toNat / 128 && r.agent.kind = .split
  let at_ (c k : Nat) (r : Rel) : Bool := here r && r.agent.core = c && r.agent.ctx = k
  (e.asid = asid && e.va = lineOf va.toNat) || s.rels.any (at_ e.core e.ctx) ||
    s.sq.any fun q => q.parts.any fun p => p.carry.any (at_ e.core e.ctx)

/-- What PROM and AMAXR do first: every core performs its queue up to its last store to the line, and no L1 keeps a
copy of the line (06 R150, 07 R176). DEDUCED (unsafe), log entry 86. -/
def reachAll (s : State) (asid : Nat) (va : Long) : State :=
  l1DropWhere (drain s (promStore s asid va)) asid (lineOf va.toNat) fun _ => true

/-- The releases that PROM reads: one of a narrow scope is as good as one at PROM's, so that it brings what its agent's
way partition has stored, which the drain has performed (06 R150). -/
def promRels (s : State) (rs : List Rel) : List Rel :=
  rs.map fun r => if r.agent.kind = .split then
    { r with times := r.times.join (viewTimes s r.agent.core r.agent.ctx r.agent.die) } else r

/-- What an RMW releases: its fences, and itself if it is a release; PROM's reaches narrower acquires (06 R150). -/
def rmwRels (s : State) (x : Access) (r : Rmw) : List Rel :=
  fenceOf s x.c.gid ++ if releases x.ord then relOf s x.c.gid x.sc (r.reach != .own) else []

/-- An atomic where a stack base or the second-tier controller performs it (07 R173). -/
def rmwBare (m : Prog) (x : Access) (r : Rmw) (l : Nat) (a : Long) (ma : Nat) : Prog :=
  let s := m.s
  if poisoned s ma then m.fail l (.data a)
  else
    let asid := asidOf x.w.ctx a
    let old := natOfBytes (memBytes s.mem ma x.size)
    let s1 := readBare s x asid a.toNat x.size
    let s2 := match r.new l old with
      | some y =>
        putRels (memStore s1 ma (bytesOfNat x.size y)) asid a.toNat x.size true (carryAt asid a.toNat x.size (rmwRels s1 x r))
      | none => s1
    { m with s := s2 }.read l (bytesOfNat x.size old)

/-- An atomic on memory that is not normal (07 R163, R173). On host and peer memory that is uncached, whose column
admits every atomic, one that is no AtomicOp reads, and writes when its read has come. DEDUCED (unsafe), log entry 31. -/
def rmwSpecial (m : Prog) (x : Access) (r : Rmw) (l : Nat) (a : Long) (ma : Nat) (p : Perm) : Prog :=
  let m := { m with s := afterAccess m.s x.w a x.acc }
  match regionOf m.s ma with
  | .stack | .tier => rmwBare m x r l a ma
  | .host | .peer =>
    let ask (b : Nat) (out : Nat → BitVec 16 → BusOut) : Prog :=
      (request { m with s := putDevRels m.s (rmwRels m.s x r) } x l 0 a (peerRid m.s ma) x.size out).read l (List.replicate x.size 0)
    if (r.busOp l).isNone && p.mt != .uncached then m.fail l (.access 3 a (accCode x.acc))
    else
      match busAddr m.s ma, r.busOp l with
      | none, _ => { m with dev := true }.fail l (.data a)
      | some b, some o => ask b fun t rid => .atomic t b x.size o.code o.a o.b rid
      | some b, none =>
        let m1 := ask b fun t rid => .read t b x.size rid
        { m1 with outs := m1.outs ++ [(l, b)] }
  | .aliasMem | .regs => m.fail l (.access 3 a (accCode x.acc))
  | .reserved => m.fail l (.fault (typeFault m.s x.w a x.acc))

/-- The writes of an atomic on uncached host or peer memory whose reads have come, in lane order, each lane reading what
one before it has written there (07 R163, R172). DEDUCED (unsafe), log entry 31. -/
def rmwLate (x : Access) (r : Rmw) (m : Prog) : Prog :=
  (m.outs.foldl (fun (t : Prog × Tbl Nat) e =>
    let (m, done) := t
    if m.errs.any fun k => k.1 = e.1 then t
    else
      let old := (tblFind done e.2).getD (tblGet 0 m.vals e.1)
      let m1 := m.read e.1 (bytesOfNat x.size old)
      match r.new e.1 old with
      | some y => ({ m1 with s := postWrites m1.s x.w.ctx e.2 (bytesOfNat x.size y) }, tblPut done e.2 y)
      | none => (m1, tblPut done e.2 old)) (m, [])).1

/-- An RMW has read a unit at a die's L2, at a logical time: what its group knows then, and, for an acquire of wide
scope, its partition's view (05 R124). A copy in its own L1 shows what it has read (06 R143). -/
def rmwSaw (s : State) (x : Access) (r : Rmw) (ln : L2Line) (a : Long) : State :=
  let core := coreOfQuad x.c.g.quad
  let asid := asidOf x.w.ctx a
  let off := a.toNat % 128
  let rs := relsAt s asid a.toNat x.size
  let s1 := l1Patch s core x.w.ctx asid (lineOf a.toNat) off ln.wts (lineBytes ln.data off x.size)
  let s2 := noteRead (noteSeen s1 x.c.gid ln.asid ln.va ln.die ln.wts) x.c.gid (acquires x.ord) x.sc (r.reach != .own)
    x.wide (if r.reach = .own then rs else promRels s1 rs)
  if acquires x.ord && x.wide then raiseVts s2 core x.w.ctx ln.wts else s2

/-- An atomic at the L2 (07 R173). -/
def rmwL2 (m : Prog) (x : Access) (r : Rmw) (l : Nat) (a : Long) : Prog :=
  let asid := asidOf x.w.ctx a
  let m := { m with s := if r.reach = .own then drainLine m.s x a else reachAll m.s asid a }
  match l2Own m.s x.w a x.acc with
  | .error (.fault f) => (m.fault x.w f a).fail l (.fault f)
  | .error (.special ma p) => rmwSpecial m x r l a ma p
  | .ok (s1, ln) =>
    if !permOk ln.perm x.acc x.w.handler then m.fail l (.fault (heldFault s1 x.w a x.acc))
    else
      let off := a.toNat % 128
      if touchesPoison ln.poison off x.size then { m with s := s1 }.fail l (.data a)
      else
        let old := natOfBytes (lineBytes ln.data off x.size)
        let s2 := rmwSaw s1 x r ln a
        let s3 := match r.new l old with
          | some y =>
            putRels (l2Put s2 x.w (nowHeld s2 ln) a (bytesOfNat x.size y) (wideRelease x)) asid a.toNat x.size true
              (carryAt asid a.toNat x.size (rmwRels s2 x r))
          | none => s2
        { m with s := s3 }.read l (bytesOfNat x.size old)

/-- A core's own copy of a line shows, of a unit, what its die's L2 holds with the core's queued stores.
DEDUCED (unsafe), log entry 86. -/
def copyFresh (s : State) (core ctx asid : Nat) (a n die : Nat) : Bool :=
  let lva := lineOf a
  match l1Find s core ctx asid lva, l2Find s die asid lva with
  | some c, some ln => lineBytes c.data (a % 128) n == lineBytes (overlay s core ctx asid lva ln.data) (a % 128) n
  | _, _ => true

/-- An atomic at `.grp`: at the core's L1 copy, written through (07 R173). The core's queue is performed first, the copy
must show the unit's latest value, and the write is performed at once, so that no other write falls between the two (06
R144). A line that another die's L2 serves is performed there (05 R133). An acquire's grant is one for an acquire load
(05 R121; log entry 91). DEDUCED (unsafe), log entry 86; DESIGN CHOICE (unsafe), log entry 91. -/
def rmwL1 (m : Prog) (x : Access) (r : Rmw) (l : Nat) (a : Long) : Prog :=
  let core := coreOfQuad x.c.g.quad
  let asid := asidOf x.w.ctx a
  let lva := lineOf a.toNat
  let m := { m with s := drain m.s fun e => e.core = core }
  if serveDie m.s x.w a != x.w.die then rmwL2 m x r l a
  else
    let m := if copyFresh m.s core x.w.ctx asid a.toNat x.size x.w.die then m else
      { m with s := { m.s with l1 := m.s.l1.filter fun c => !(c.core = core && c.ctx = x.w.ctx && c.asid = asid && c.va = lva) } }
    match coreRead m.s x.w core a x.acc false (acquires x.ord) false with
    | .error (.fault f) => (m.fault x.w f a).fail l (.fault f)
    | .error (.special _ _) => rmwL2 m x r l a
    | .ok (s1, t) =>
      let off := a.toNat % 128
      if touchesPoison t.poison off x.size then { m with s := s1 }.fail l (.data a)
      else
        let old := natOfBytes (lineBytes t.data off x.size)
        let rs := relsSeen s1 core x.w.ctx asid a.toNat x.size
        let s2 := noteRead (noteSeen s1 x.c.gid asid lva t.die t.wts) x.c.gid (acquires x.ord) x.sc false x.wide rs
        let s3 := match r.new l old with
          | some y => drainLine (pushStore s2 x 0 a a (bytesOfNat x.size y) (rs ++ carryAt asid a.toNat x.size (rmwRels s2 x r))) x a
          | none => s2
        { m with s := s3 }.read l (bytesOfNat x.size old)

/-- An atomic on block scratchpad: its bank performs it (07 R173). -/
def rmwScratch (m : Prog) (x : Access) (r : Rmw) (l : Nat) (a : Long) : Prog :=
  let b := x.c.g.block
  let sp := scratchSpace m.s b false
  if scratchPoison m.s b false a.toNat x.size then m.fail l (.data a)
  else
    let old := natOfBytes (scratchRead m.s b false a.toNat x.size)
    let s1 := readBare m.s x sp a.toNat x.size
    let s2 := match r.new l old with
      | some y => wroteBare (scratchWrite s1 b false a.toNat (bytesOfNat x.size y)) x sp a.toNat x.size true
      | none => s1
    { m with s := s2 }.read l (bytesOfNat x.size old)

/-- One lane of an atomic. -/
def rmwLane (x : Access) (r : Rmw) (addr : Nat → Long) (m : Prog) (l : Nat) : Prog :=
  let a := addr l
  match addrErr m.s x a true with
  | some e => m.fail l e
  | none =>
    match x.sp with
    | .bs | .ds | .k => rmwScratch m x r l a
    | .vm => if r.reach = .own && x.sc = .grp then rmwL1 m x r l a else rmwL2 m x r l a

/-- The old value as its TYPE fills a scalar register (03 R61): CAS's TYPE, which selects only the width, is none of
them (07 R175). -/
def extendOld (ty : Fmt) (x : Nat) : Nat := if ty = .i32 then truncInt 64 (intOf 32 true x) else x

/-- An atomic must wait for a slice that is being recovered (05 R132): for its lines, for what its release waits for, or
for the queued stores that are performed before it. -/
def rmwHeld (s : State) (x : Access) (r : Rmw) (lanes : List Nat) (addr : Nat → Long) : Bool :=
  let first (e : StoreEntry) : Bool :=
    x.sp = .vm && if r.reach = .own then x.sc = .grp && e.core = coreOfQuad x.c.g.quad
      else lanes.any fun l => promStore s (asidOf x.w.ctx (addr l)) (addr l) e
  (releases x.ord && releaseHeld s x.c.g x.sc) || linesHeld s x true lanes addr || drainHeld s first

/-- Performs an atomic (07 R172): `n` destination registers of those that are marked.
DEDUCED (unsafe), log entry 29. -/
def rmwBody (sp : Space) (ty : Fmt) (at_ : MAttr) (d : Dst) (mo : MemOpd) (marks : List Nat) (r : Rmw) (c : Ins) (s : State) :
    Act :=
  let x := accessOf c s sp .atomic at_
  let addr := memAddr c.g c.p mo
  if c.p.await.isNone && rmwHeld s x r (memLanes d c.act) addr then .wait
  else
    readBy x d marks at_.size.regs s (extendOld ty) (fun m =>
      let s1 := if releases x.ord then release m.s c.g at_.scope else m.s
      (memLanes d c.act).foldl (rmwLane x r addr) { m with s := s1 }) (rmwLate x r)

/-- An atomic's operand in a lane. -/
def rmwOperand (c : Ins) (d : Dst) (size l : Nat) : Nat := natOfBytes (storeData c.g d size l)

def atomBody (sp : Space) (reach : Reach) (op : AtomOp) (ty : Fmt) (at_ : MAttr) (d : Dst) (mo : MemOpd) (c : Ins)
    (s : State) : Act :=
  let n := at_.size.bytes
  let v (l : Nat) : Nat := rmwOperand c d n l
  rmwBody sp ty at_ d mo (dstKeys d at_.size.regs 1)
    ⟨reach, fun l old => some (atomNew op ty (8 * n) old (v l)),
      fun l => if reach != .own then none else
        match op with
        | .add => some ⟨0, v l, 0⟩
        | .exch => some ⟨1, v l, 0⟩
        | _ => none⟩ c s

/-- ATOMF and ATOMFS: `.add` in a launch that is DET raises the determinism trap (07 R174). -/
def atomFBody (sp : Space) (op : AtomFOp) (ty : Fmt) (at_ : MAttr) (d : Dst) (mo : MemOpd) (c : Ins) (s : State) : Act :=
  if op = .add && ((gridOf s c.g).map (·.hdr.det)).getD false then .trap (c.trap 0x10 0) s
  else
    rmwBody sp ty at_ d mo (dstKeys d 1 1)
      ⟨.own, fun l old => some (atomFNew op ty old (rmwOperand c d 4 l)), fun _ => none⟩ c s

/-- CAS's two operands in a lane (07 R175). -/
def casOperands (g : Group) (d : Dst) (size l : Nat) : Nat × Nat :=
  match d.file with
  | .scalar => ((sGet g d.reg.toNat).toNat % 2 ^ (8 * size), (sGet g (d.reg.toNat + 1)).toNat % 2 ^ (8 * size))
  | _ =>
    if size = 8 then ((vGet64 g d.reg.toNat l).toNat, (vGet64 g (d.reg.toNat + 2) l).toNat)
    else ((vGet g d.reg.toNat l).toNat, (vGet g (d.reg.toNat + 1) l).toNat)

def casBody (sp : Space) (at_ : MAttr) (d : Dst) (mo : MemOpd) (c : Ins) (s : State) : Act :=
  let n := at_.size.bytes
  let v (l : Nat) : Nat × Nat := casOperands c.g d n l
  rmwBody sp .bits at_ d mo (dstKeys d (2 * at_.size.regs) 2)
    ⟨.own, fun l old => if old = (v l).1 then some (v l).2 else none, fun l => some ⟨2, (v l).1, (v l).2⟩⟩ c s

/-! ### The instructions -/

def execLd (g : Guard) (ty : Fmt) (at_ : MAttr) (d : Dst) (m : MemOpd) (s : State) : Host.Outcome State Fault Refusal :=
  issue (.ld g ty at_ d m) (loadBody .vm ty at_ d m) s

def execSt (g : Guard) (ty : Fmt) (at_ : MAttr) (d : Dst) (m : MemOpd) (s : State) : Host.Outcome State Fault Refusal :=
  issue (.st g ty at_ d m) (storeBody .vm at_ d m) s

def execLds (g : Guard) (ty : Fmt) (at_ : MAttr) (d : Dst) (m : MemOpd) (s : State) : Host.Outcome State Fault Refusal :=
  issue (.lds g ty at_ d m) (loadBody .bs ty at_ d m) s

def execSts (g : Guard) (ty : Fmt) (at_ : MAttr) (d : Dst) (m : MemOpd) (s : State) : Host.Outcome State Fault Refusal :=
  issue (.sts g ty at_ d m) (storeBody .bs at_ d m) s

def execLdd (g : Guard) (ty : Fmt) (at_ : MAttr) (d : Dst) (m : MemOpd) (s : State) : Host.Outcome State Fault Refusal :=
  issue (.ldd g ty at_ d m) (loadBody .ds ty at_ d m) s

def execStd (g : Guard) (ty : Fmt) (at_ : MAttr) (d : Dst) (m : MemOpd) (s : State) : Host.Outcome State Fault Refusal :=
  issue (.std g ty at_ d m) (storeBody .ds at_ d m) s

def execLdk (g : Guard) (ty : Fmt) (at_ : MAttr) (d : Dst) (m : MemOpd) (s : State) : Host.Outcome State Fault Refusal :=
  issue (.ldk g ty at_ d m) (loadBody .k ty at_ d m) s

def execStk (g : Guard) (ty : Fmt) (at_ : MAttr) (d : Dst) (m : MemOpd) (s : State) : Host.Outcome State Fault Refusal :=
  issue (.stk g ty at_ d m) (storeBody .k at_ d m) s

def execAtom (g : Guard) (op : AtomOp) (ty : Fmt) (at_ : MAttr) (d : Dst) (m : MemOpd) (s : State) :
    Host.Outcome State Fault Refusal :=
  issue (.atom g op ty at_ d m) (atomBody .vm .own op ty at_ d m) s

def execAtoms (g : Guard) (op : AtomOp) (ty : Fmt) (at_ : MAttr) (d : Dst) (m : MemOpd) (s : State) :
    Host.Outcome State Fault Refusal :=
  issue (.atoms g op ty at_ d m) (atomBody .bs .own op ty at_ d m) s

def execAtomf (g : Guard) (op : AtomFOp) (ty : Fmt) (at_ : MAttr) (d : Dst) (m : MemOpd) (s : State) :
    Host.Outcome State Fault Refusal :=
  issue (.atomf g op ty at_ d m) (atomFBody .vm op ty at_ d m) s

def execAtomfs (g : Guard) (op : AtomFOp) (ty : Fmt) (at_ : MAttr) (d : Dst) (m : MemOpd) (s : State) :
    Host.Outcome State Fault Refusal :=
  issue (.atomfs g op ty at_ d m) (atomFBody .bs op ty at_ d m) s

def execCas (g : Guard) (ty : Fmt) (at_ : MAttr) (d : Dst) (m : MemOpd) (s : State) : Host.Outcome State Fault Refusal :=
  issue (.cas g ty at_ d m) (casBody .vm at_ d m) s

def execCass (g : Guard) (ty : Fmt) (at_ : MAttr) (d : Dst) (m : MemOpd) (s : State) : Host.Outcome State Fault Refusal :=
  issue (.cass g ty at_ d m) (casBody .bs at_ d m) s

def execProm (g : Guard) (op : AtomOp) (ty : Fmt) (at_ : MAttr) (d : Dst) (m : MemOpd) (s : State) :
    Host.Outcome State Fault Refusal :=
  issue (.prom g op ty at_ d m) (atomBody .vm .prom op ty at_ d m) s

def execAmaxr (g : Guard) (ty : Fmt) (at_ : MAttr) (d : Dst) (m : MemOpd) (s : State) : Host.Outcome State Fault Refusal :=
  issue (.amaxr g ty at_ d m) (fun c s =>
    rmwBody .vm .bits at_ d m (dstKeys d 1 1) ⟨.reset, fun _ _ => some 0, fun _ => none⟩ c s) s

/-! ### Fences (07 R177, R178) -/

/-- FENCE. A full fence of wide scope sends the later loads of the split, on whichever path, to the L2 (06 R148). -/
def execFence (g : Guard) (o : MOrd) (sc : Scope) (s : State) : Host.Outcome State Fault Refusal :=
  issue (.fence g o sc) (fun c s =>
    if releaseHeld s c.g sc then .wait
    else
      let s1 := fenceAt s c.gid c.g o sc
      let far := o = .acqrel && (sc = .die || sc = .pkg || sc = .sys)
      let here (p : Path) : Path := if p.split = c.p.split then { p with full := true } else p
      .done (if far then updGroup s1 c.gid fun g => { g with paths := g.paths.map here } else s1)) s

/-- The stores of a group's way partition are performed at the L2. -/
def drainGroup (s : State) (g : Group) : State := drain s (ownStore s g)

/-- FENCEA (06 R151): the group's stores are performed, and what it then knows happens before the reads of every
operation of the class that it issues later. The sequencers read nothing that a cache holds.
DEDUCED (unsafe), log entry 82. -/
def execFencea (g : Guard) (cl : EngClass) (s : State) : Host.Outcome State Fault Refusal :=
  issue (.fencea g cl) (fun c s =>
    if drainHeld s (ownStore s c.g) then .wait
    else
      let s1 := drainGroup s c.g
      let t := knowOf s1 c.gid
      .done (updGroup s1 c.gid fun g =>
        match cl with
        | .porter => { g with fenced := g.fenced.join t }
        | .relay => { g with relayed := g.relayed.join t }
        | .matrix => g)) s

/-! ### Prefetch and cache maintenance (07 R179-R181) -/

/-- PREF of one lane: an access that would fault, or that is not to normal memory, is dropped and counted (04 R115).
One to a line that is held is dropped too (05 R132). DEDUCED (safe), log entry 33. -/
def prefLane (k : PrefKind) (c : Ins) (s : State) (a : Long) : State :=
  let w := whoOf s c.g
  let core := coreOfQuad c.g.quad
  let dropped := count (afterAccess s w a .load) 38 core 1
  let line (r : Except Miss (State × L2Line)) : State :=
    match r with
    | .ok (s1, ln) => if permOk ln.perm .load w.handler then s1 else dropped
    | .error _ => dropped
  if heldRequest s w.die (asidOf w.ctx a) (lineOf a.toNat) (k = .excl) then s
  else
    match k with
    | .l1 => match coreRead s w core a .load false false false with | .ok (s1, _) => s1 | .error _ => dropped
    | .l2 => line (l2Read s w a .load)
    | .excl => line (l2Own s w a .load)

def execPref (g : Guard) (k : PrefKind) (cache : BitVec 2) (m : MemOpd) (s : State) : Host.Outcome State Fault Refusal :=
  issue (.pref g k cache m) (fun c s =>
    .done ((laneList c.act).foldl (fun s l => prefLane k c s (memAddr c.g c.p m l)) s)) s

/-- The lanes of CWB and CINV: a non-canonical address is their one fault (07 R180), with ACC load in its record.
DESIGN CHOICE (unsafe), log entry 85. -/
def maintain (c : Ins) (m : MemOpd) (s : State) (f : State → Long → State) : Act :=
  let addr := memAddr c.g c.p m
  let bad := (laneList c.act).filter fun l => !canonical (addr l)
  let s1 := ((laneList c.act).filter fun l => canonical (addr l)).foldl (fun s l => f s (addr l)) s
  if bad = [] then .done s1
  else
    .trap (memTrap c (bad.map fun l => (l, .fault ⟨0x05, addr l, 0, 0, false, .load, asidOf (ctxOf s c.g) (addr l)⟩))) s1

def execCwb (g : Guard) (cache : BitVec 2) (m : MemOpd) (s : State) : Host.Outcome State Fault Refusal :=
  issue (.cwb g cache m) (fun c s =>
    if drainHeld s (ownStore s c.g) then .wait
    else maintain c m s fun s a =>
      let asid := asidOf (ctxOf s c.g) a
      let lva := lineOf a.toNat
      let mine (e : StoreEntry) : Bool := e.core = coreOfQuad c.g.quad && e.ctx = ctxOf s c.g
      cleanLine (if s.sq.any fun e => mine e && e.asid = asid && e.va = lva then drain s mine else s) asid lva) s

/-- The cores that CINV reaches at a scope (07 R181). -/
def cinvCore (g : Group) (sc : Scope) (core : Nat) : Bool :=
  match sc with
  | .grp | .blk => core = coreOfQuad g.quad
  | .die => dieOfCore core = dieOfQuad g.quad
  | .pkg | .sys => true

def cinvLine (g : Group) (sc : Scope) (ctx : Nat) (s : State) (a : Long) : State :=
  let asid := asidOf ctx a
  let lva := lineOf a.toNat
  let s1 := { l1DropWhere s asid lva (cinvCore g sc) with
    fetched := s.fetched.filter fun f =>
      !(f.asid = asid && f.va / 128 * 128 = lva && cinvCore g sc (coreOfQuad f.quad)) }
  if sc = .pkg || sc = .sys then flushLines s1 (fun x v _ => x = asid && v = lva) (fun x v => x = asid && v = lva) else s1

def execCinv (g : Guard) (cache : BitVec 2) (sc : Scope) (m : MemOpd) (s : State) : Host.Outcome State Fault Refusal :=
  issue (.cinv g cache sc m) (fun c s =>
    if drainHeld s (ownStore s c.g) then .wait
    else maintain c m (drainGroup s c.g) (cinvLine c.g sc (ctxOf s c.g))) s

end Sys2Proof.Machine
end

