-- ==== Sys2Proof/Machine/Launch.lean ====
section
/-! DEFINITION. Opcodes 0x0F-0x14: inns (15 R368-R371) and child grids (15 R366, R367), and what instructions that read
memory once for their split wait for. -/

namespace Sys2Proof.Machine

/-- A scalar status, written when its instruction has been answered. -/
def answered (s : State) (c : Ins) (d : Dst) (x : Long) : Act :=
  .done (updGroup s c.gid fun g => setEmpty (sSet g d.reg.toNat x) [regKey d.file d.reg.toNat] false)

/-- The acquire at `.pkg` after the writes of the context engine (18 R411). -/
def hearEngine (s : State) (gid : Nat) : State :=
  match tblFind s.groups gid with
  | none => s
  | some g => learnAll s gid (viewTimes s deviceCore (ctxOf s g) (dieOfQuad g.quad))

/-- The path waits with its status register empty. -/
def awaiting (s : State) (c : Ins) (d : Dst) (a : Await) : Act :=
  .park (updGroup s c.gid fun g =>
    setEmpty (updPath g c.p.lanes fun p => { p with await := some a }) [regKey d.file d.reg.toNat] true)

/-- The bytes that reads of the host and of peer devices have brought, by address; empty where one failed. -/
def ioBytes (io : Io) : List (Long × List Byte) :=
  io.vals.map fun e => (BitVec.ofNat 64 e.1, if io.errs.any fun x => x.1 = e.1 then [] else bytesOfNat 128 e.2)

/-- Asks the host or a peer device for n bytes more, for the accesses numbered `id` of a context.
DEDUCED (unsafe), log entry 31. -/
def askBytes (s : State) (id : Nat) (io : Io) (ctx : Nat) (va : Long) (ma n : Nat) : State :=
  let tag := s.fresh + 1
  { s with
    fresh := s.fresh + 2
    ios := tblPut s.ios id { io with wants := 1 }
    requests := s.requests ++ [⟨tag, id, va.toNat, 0, n, peerRid s ma, va⟩]
    bus := s.bus ++ [.read tag ((busAddr s ma).getD 0) n (requesterId s ctx)] }

/-- An instruction reads memory once for its split, with the operands `args` of its issue. Bytes of the host or of a
peer device are asked for piece by piece, and the path waits for them (07 R168); then it goes on, or fails.
DEDUCED (unsafe), log entry 31. -/
def splitRead {α : Type} (c : Ins) (s : State) (args : List Long) (read : List Long → State → Except EngErr (State × α))
    (bad : EngErr → State → Act) (go : List Long → α → State → Act) : Act :=
  let (id, io) : Nat × Io :=
    match c.p.await with
    | some (.io k) => (k, (tblFind s.ios k).getD ⟨c.gid, 0, [], [], args, []⟩)
    | _ => (s.fresh, ⟨c.gid, 0, [], [], args, []⟩)
  if io.wants != 0 then .wait
  else
    match read io.args { s with arrived := ioBytes io } with
    | .ok (s1, x) => go io.args x { s1 with arrived := [], ios := tblDel s1.ios id }
    | .error (.host va ma n) =>
      let s1 := updGroup s c.gid fun g => updPath g c.p.lanes fun p => { p with await := some (.io id) }
      .park (askBytes s1 id io (ctxOf s c.g) va ma n)
    | .error e => bad e (afterEng { s with ios := tblDel s.ios id } (whoOf s c.g) e)

/-! ### Inns -/

/-- The group's die. -/
def dieOf (c : Ins) : Nat := dieOfQuad c.g.quad

/-- Deposits the lanes' lodgers in ascending order: each lane's status (15 R369). DEDUCED (unsafe), log entry 41. -/
def depositLanes (c : Ins) (entry : Long) (parcel : Nat → List Word) : List Nat → State → State × Tbl Nat
  | [], s => (s, [])
  | l :: r, s =>
    let (s1, st) := deposit s c.gid c.g.grid (dieOf c) entry (parcel l)
    let (s2, t) := depositLanes c entry parcel r s1
    (s2, tblPut t l st)

/-- SPAWN and SPAWNW, once the parcels are known. DEDUCED (unsafe), log entry 41. -/
def spawnWith (c : Ins) (s : State) (d : Dst) (t : Target) (parcel : Nat → List Word) : Act :=
  if releaseHeld s c.g .die then .wait
  else
  let (s1, sts) := depositLanes c (targetPc c.p.pc t) parcel (laneList c.act) (release s c.g .die)
  .done (produce s1 c.gid (dstKeys d 1 1) (regWrites d 1 c.act fun l => BitVec.ofNat 64 (tblGet 0 sts l)) [])

/-- The launch is deterministic. -/
def isDet (s : State) (g : Group) : Bool := ((gridOf s g).map (·.hdr.det)).getD false

def execSpawn (g : Guard) (k : BitVec 3) (d : Dst) (a : Src) (t : Target) (s : State) :
    Host.Outcome State Fault Refusal :=
  issue (.spawn g k d a t) (fun c s =>
    if isDet s c.g then .trap (c.trap 0x10 0) s
    else spawnWith c s d t fun l => (List.range (k.toNat + 1)).map fun i => vGet c.g (a.reg.toNat + i) l) s

def execSpawnw (g : Guard) (k : BitVec 3) (d : Dst) (a : Src) (t : Target) (s : State) :
    Host.Outcome State Fault Refusal :=
  issue (.spawnw g k d a t) (fun c s =>
    let n := k.toNat + 1
    let off (l : Nat) : Nat := if a.file = .lane then (vGet c.g a.reg.toNat l).toNat else (srcVal c.g c.p a 1 l).toNat
    let err (l : Nat) : Option LaneErr :=
      if off l % 4 != 0 then some (.access 1 (BitVec.ofNat 64 (off l)) 0)
      else if scratchSize s c.g.block false < off l + 4 * n then some (.access 2 (BitVec.ofNat 64 (off l)) 0)
      else if scratchPoison s c.g.block false (off l) (4 * n) then some (.data (BitVec.ofNat 64 (off l)))
      else none
    let errs := (laneList c.act).filterMap fun l => (err l).map fun e => (l, e)
    if isDet s c.g then .trap (c.trap 0x10 0) s
    else if errs != [] then .trap { memTrap c errs with mask := c.act } s
    else
      spawnWith c s d t fun l => (List.range n).map fun i =>
        BitVec.ofNat 32 (natOfBytes (scratchRead s c.g.block false (off l + 4 * i) 4))) s

def execInnset (g : Guard) (d : Dst) (a b : Src) (s : State) : Host.Outcome State Fault Refusal :=
  issue (.innset g d a b) (fun c s =>
    let entry := srcVal c.g c.p a 2 0
    let n := Nat.min ((srcVal c.g c.p b 2 0).toNat % 2 ^ 32) 0xFFFFFF
    let die := dieOf c
    let put (s : State) (x : Long) : Act := result c s d 1 fun _ => x
    match gridOf s c.g with
    | none => put s 1
    | some gr =>
      if !inCode gr entry then put s 3
      else
        let s1 := if (findInn s c.g.grid die entry).isNone && innFree s gr.ctx die then takeInn s c.g.grid die entry else s
        match findInn s1 c.g.grid die entry with
        | none => put s1 1
        | some (k, x) => put { s1 with inns := tblPut s1.inns k { x with curfew := n } } 0) s

def execCurfew (g : Guard) (a : Option Src) (s : State) : Host.Outcome State Fault Refusal :=
  issue (.curfew g a) (fun c s =>
    let mine := s.inns.filter fun e =>
      e.2.grid = c.g.grid && e.2.die = dieOf c && e.2.lodgers != [] &&
      match a with
      | none => true
      | some x => e.2.entry = srcVal c.g c.p x 2 0
    .done (mine.foldl (fun s e => departPartial s e.1) s)) s

/-! ### Child grids -/

/-- The answer of a LAUNCH that pushed nothing. -/
def noTicket : Long := 0x8000000000000000

/-- A device queue of the context that can serve a push. -/
def canPush (s : State) (ctx q : Nat) : Bool :=
  let x := queueOf s q
  q < 4096 && queueHolder s q = ctx && x.dev && x.en && !x.fault

/-- The push of a descriptor, once the ring has a free entry and the sources of the context are open (15 R366, 17 R406):
until then the path holds the descriptor. It is a release at `.pkg`, whose acquire is
the start of the child's groups (06 R157). -/
def pushDesc (c : Ins) (s : State) (d : Dst) (q : Nat) (desc : List Byte) : Act :=
  if !canPush s (ctxOf s c.g) q then answered s c d noTicket
  else
    let x := queueOf s q
    if 2 ^ x.log2 ≤ (x.tail - x.head).toNat || !sourcesOpen s (ctxOf s c.g) then awaiting s c d (.launch q desc)
    else if releaseHeld s c.g .pkg then .wait
    else
      let a := x.base + BitVec.ofNat 64 (64 * (x.tail.toNat % 2 ^ x.log2))
      match vmWrite (release s c.g .pkg) (whoOf s c.g) a desc .store with
      | .error (.fault f) => answered (ringFault (afterFault s (whoOf s c.g) f) q c.p.pc c.g.serial (some f)) c d noTicket
      | .error _ => answered (ringFault s q c.p.pc c.g.serial none) c d noTicket
      | .ok s1 =>
        let t := knowOf s1 c.gid
        let push (x : Queue) : Queue := { x with
          tail := x.tail + 1, times := x.times.join t, pushed := x.pushed ++ [(x.tail.toNat, c.g.grid, c.g.block)] }
        awaiting (updQueue s1 q push) c d (.ticket q x.tail.toNat)

/-- DEDUCED (unsafe), log entry 42. -/
def execLaunch (g : Guard) (d : Dst) (a b : Src) (s : State) : Host.Outcome State Fault Refusal :=
  issue (.launch g d a b) (fun c s =>
    let at_ := srcVal c.g c.p a 2 0
    let q := (srcVal c.g c.p b 2 0).toNat
    let ctx := ctxOf s c.g
    let take (s : State) : Act :=
      splitRead c s [at_, BitVec.ofNat 64 q] (fun l s => vmRead s (whoOf s c.g) (l.getD 0 0) 64 .load)
        (fun e s => .trap (readTrap c e) s) fun l desc s => pushDesc c s d (l.getD 1 0).toNat desc
    match c.p.await with
    | some (.answer x) => answered s c d x
    | some (.ticket _ _) => .wait
    | some (.launch q desc) => pushDesc c s d q desc
    | some (.io _) => take s
    | _ =>
      if c.g.idx != 0 || !c.act.getLsbD 0 then .trap (c.trap 0x0F 1) s
      else if 10 ≤ ((gridOf s c.g).map (·.depth)).getD 0 then .trap (c.trap 0x0F 2) s
      else if 4096 ≤ q || queueHolder s q != ctx then .trap (c.trap 0x0F 3) s
      else if !canPush s ctx q then .trap (c.trap 0x0F 4) s
      else if drainHeld s (ownStore s c.g) then .wait
      else take (drainGroup s c.g)) s

/-- What LWAIT reports of a grid (15 R367). -/
def gridReport (g : Grid) : Long := BitVec.ofNat 64 (g.cause * 2 ^ 8 + gridCode g.state)

/-- The earliest child that did not complete, or else the last one. DEDUCED (unsafe), log entry 42. -/
def pickChild (gs : List Grid) : Option Grid :=
  let low (l : List Grid) : Option Grid :=
    l.foldl (fun b g => if b.all fun x => g.seq < x.seq then some g else b) none
  let last : Option Grid := gs.foldl (fun b g => if b.all fun x => x.seq < g.seq then some g else b) none
  (low (gs.filter fun g => g.state != .complete)).or last

/-- DEDUCED (unsafe), log entry 42. -/
def execLwait (g : Guard) (d : Dst) (a : Option Src) (s : State) : Host.Outcome State Fault Refusal :=
  issue (.lwait g d a) (fun c s =>
    let kids := (s.grids.filter fun e => e.2.parent = c.g.grid).map (·.2)
    let none_ : Act := result c s d 1 fun _ => noTicket
    let report (s : State) (k : Grid) : Act := result c s d 1 fun _ => gridReport k
    match a with
    | some x =>
      let t := srcVal c.g c.p x 2 0
      match (if t.getLsbD 63 then none else kids.find? fun g => g.seq % 2 ^ 32 = t.toNat % 2 ^ 32) with
      | none => none_
      | some k => if gridFinal k.state then report (learnAll s c.gid k.ends) k else .wait
    | none =>
      let mine := kids.filter fun g => g.parentBlock = c.g.block
      if pushedBy s c.g.grid (some c.g.block) then .wait
      else if mine.all fun g => gridFinal g.state then
        match pickChild mine with
        | none => none_
        | some k => report (mine.foldl (fun s g => learnAll s c.gid g.ends) s) k
      else .wait) s

end Sys2Proof.Machine
end

