-- ==== Sys2Proof/Machine/Porters.lean ====
section
/-! DEFINITION. Opcodes 0x9C-0xA7: porters, arrival counters, fabric transfers and remote atomics (08), and the steps of
a porter operation. -/

namespace Sys2Proof.Machine

/-! ### Operations and their transfers (08 R184) -/

def updOp (s : State) (id : Nat) (f : PorterOp → PorterOp) : State := { s with porterOps := tblUpd s.porterOps id f }

/-- Splits a run at the 2 KiB blocks of the destination. -/
def cutSeg : Nat → PSeg → List PSeg
  | 0, _ => []
  | fuel + 1, x =>
    if x.len = 0 then []
    else
      let k := Nat.min x.len (2048 - x.dst % 2048)
      ⟨x.dst, x.src, k⟩ :: cutSeg fuel ⟨x.dst + k, x.src + k, x.len - k⟩

/-- Two runs of one 2 KiB block of the destination that are contiguous or overlap. -/
def touches (a b : PSeg) : Bool :=
  a.dst / 2048 = b.dst / 2048 && a.dst ≤ b.dst + b.len && b.dst ≤ a.dst + a.len

/-- Adds a run to the transfers before it: those that it touches become one with it.
DEDUCED (unsafe), log entry 36. -/
def joinRun (x : PSeg) : List (List PSeg) → List (List PSeg)
  | [] => [[x]]
  | t :: r =>
    let near (l : List PSeg) : Bool := l.any (touches x)
    if near t then (t ++ (r.filter near).flatMap id ++ [x]) :: r.filter fun l => !near l else t :: joinRun x r

/-- The transfers of an operation: the maximal runs of the bytes it writes, each the list of its runs in order of
issue. The transfers are numbered in order of their first run. DEDUCED (unsafe), log entry 36. -/
def transfersOf (segs : List PSeg) : List (List PSeg) :=
  (segs.flatMap fun x => cutSeg (x.len / 2048 + 2) x).foldl (fun l x => joinRun x l) []

/-- The first byte of a transfer, and how many it has. -/
def transferLo (t : List PSeg) : Nat := t.foldl (fun m x => Nat.min m x.dst) ((t.head?.map (·.dst)).getD 0)
def transferBytes (t : List PSeg) : Nat := t.foldl (fun m x => Nat.max m (x.dst + x.len)) 0 - transferLo t

/-- The sender of a context's transfers, as arrival counters record it (08 R203). -/
def senderOf (s : State) (ctx : Nat) : Nat := s.ownPkg.toNat * 2 ^ 16 + ctx % 2 ^ 16

def opWho (id : Nat) (o : PorterOp) : Who := ⟨o.ctx, o.die, some (opCore id), o.handler⟩

def stateCode : PState → Nat
  | .queued => 0 | .running => 1 | .done => 2 | .faulted => 3 | .cancelled => 4

/-- The status word (08 R198). -/
def statusWord (o : PorterOp) : Long := BitVec.ofNat 64 (o.bytes % 2 ^ 32 * 2 ^ 32 + o.cls * 2 ^ 24 + stateCode o.state)

/-- Done with BYTES 0: what a finished operation reads. -/
def statusDone : Long := 2

def opActive (o : PorterOp) : Bool := o.state = .queued || o.state = .running

/-- A slot becomes free (08 R199). An entry with transfers to be acknowledged stays, in no slot, until they are: their
credits are open (08 R203). DEDUCED (unsafe), log entry 76. -/
def freeOp (s : State) (id : Nat) : State :=
  match tblFind s.porterOps id with
  | none => s
  | some o =>
    let s1 : State := { s with
      opReads := tblDel s.opReads id
      ios := match tblFind s.opReads id with | some k => tblDel s.ios k | none => s.ios }
    if o.unacked = [] then { s1 with porterOps := tblDel s1.porterOps id } else updOp s1 id fun o => { o with slot := 64 }

/-- The porter that served an operation is free, and the operation's view is over. -/
def freePorter (s : State) (id : Nat) : State :=
  { s with porters := s.porters.filter fun e => e.2 != id, parts := s.parts.filter fun p => p.core != opCore id }

/-- The register of a PGATH into registers is full when its operation ends (08 R197). -/
def endReg (s : State) (o : PorterOp) : State :=
  match o.reg with
  | some (_, prod, _) => completeProducer s prod
  | none => s

/-- The status of the earliest operation that did not end done (08 R200): one more such operation. -/
def joinBad (b : Option (BitVec 32 × Long)) (o : PorterOp) : Option (BitVec 32 × Long) :=
  if b.all fun x => seqBefore o.seq x.1 then some (o.seq, statusWord o) else b

/-- Paths that wait for an operation get its status; those that wait for all of their group's note one that failed. -/
def answerOp (s : State) (id : Nat) (o : PorterOp) : State :=
  let f (p : Path) : Path :=
    match p.await with
    | some (.porter k) => if k = id then { p with await := some (.answer (statusWord o)) } else p
    | some (.porters b) => if o.state = .done then p else { p with await := some (.porters (joinBad b o)) }
    | _ => p
  updGroup s o.gid fun g => mapPaths g f

/-- An instruction that observes the end of the operation that it waits for (08 R199). -/
def observing (p : Path) : Bool :=
  match (decode p.word).toOption with
  | some (.pwait ..) | some (.pcancel ..) => true
  | _ => false

/-- A path waits for an operation by PWAIT or PCANCEL. -/
def observed (s : State) (id : Nat) (o : PorterOp) : Bool :=
  (tblFind s.groups o.gid).any fun g =>
    (g.paths ++ (g.frame.map (·.paths)).getD []).any fun p => p.await = some (.porter id) && observing p

/-- Every transfer is written and acknowledged: the operation is done, or cancelled, and the slot is free at once
(08 R199, R200). Its completion is a release at `.sys` (06 R152). One that PCANCEL has named ends cancelled, also where
nothing was left to drop. DESIGN CHOICE (unsafe), log entry 95. -/
def finishOp (s : State) (id : Nat) : State :=
  match tblFind s.porterOps id with
  | none => s
  | some o =>
    if opActive o && o.count ≤ o.next && o.unacked = [] then
      let s1 := if o.cancel then s else releaseDone s o.gid id
      let o1 := { o with state := if o.cancel then .cancelled else .done }
      wake (flushRecs (answerOp (freePorter (freeOp (endReg s1 o) id) id) id o1))
    else s

/-- An operation ends faulted (08 R195): a record to the parent for classes 0x10 and above, in its turn (17 R397). A
slot that a PWAIT or a PCANCEL waits for is free. -/
def faultOp (s : State) (id : Nat) (cls : Nat) (r : BitVec 256) : State :=
  match tblFind s.porterOps id with
  | none => s
  | some o =>
    let o1 := { o with state := .faulted, cls := cls, record := r }
    let seen := o.cancel || observed s id o
    let s0 := freePorter (endReg s o) id
    let s1 := answerOp (updOp { s0 with opReads := tblDel s0.opReads id } id fun _ => o1) id o1
    let s2 := if seen then freeOp s1 id else s1
    wake (flushRecs (if 0x10 ≤ cls && cls < 0xF0 then
        orderRecord s2 (parentOf s2 o.ctx) o.ctx
          { recordRec 2 cls o.ctx o.pc o.gser r with order := (o.seq.toNat + o.next) % 2 ^ 32 }
      else s2))

/-! ### Reads and writes in any space (08 R185, R186) -/

def spaceRead (s : State) (id : Nat) (o : PorterOp) (sp : PSpace) (off n : Nat) : Except EngErr (State × List Byte) :=
  match sp with
  | .vm => vmRead s (opWho id o) (BitVec.ofNat 64 off) n .porterRead
  | .ds => .ok (s, scratchRead s o.block true off n)
  | .bs => if scratchPoison s o.block false off n then .error (.data (BitVec.ofNat 64 off)) else .ok (s, scratchRead s o.block false off n)
  | .lf =>
    match loftEndpoint s o.block off with
    | some (q, a) => if loftPoisoned s q a n then .error (.data (BitVec.ofNat 64 off)) else .ok (s, loftRead s q a n)
    | none => .ok (s, List.replicate n 0)
  | .rg => .ok (s, List.replicate n 0)

def spaceWrite (s : State) (id : Nat) (o : PorterOp) (sp : PSpace) (off : Nat) (bs : List Byte) : Except EngErr State :=
  match sp with
  | .vm => vmWrite s (opWho id o) (BitVec.ofNat 64 off) bs .porterWrite
  | .ds => .ok (scratchWrite s o.block true off bs)
  | .bs => .ok (scratchWrite s o.block false off bs)
  | .lf =>
    match loftEndpoint s o.block off with
    | some (q, a) => .ok (loftWrite s q a bs)
    | none => .ok s
  | .rg => .ok s

/-- Reads the runs of a transfer. -/
def readRuns (id : Nat) (o : PorterOp) : List PSeg → State → Except EngErr (State × List (PSeg × List Byte))
  | [], s => .ok (s, [])
  | x :: r, s =>
    match spaceRead s id o o.ssp x.src x.len with
    | .error e => .error e
    | .ok (s1, bs) =>
      match readRuns id o r s1 with
      | .error e => .error e
      | .ok (s2, l) => .ok (s2, (x, bs) :: l)

/-- The bytes of a transfer: of runs that name one destination byte, the later one's stays (08 R193). -/
def transferImage (t : List PSeg) (l : List (PSeg × List Byte)) : List Byte :=
  let lo := transferLo t
  l.foldl (fun img e => img.take (e.1.dst - lo) ++ e.2 ++ img.drop (e.1.dst - lo + e.1.len)) (List.replicate (transferBytes t) 0)

/-- Writes bytes in ascending order, each once (08 R185). What is written before a fault stays. -/
def writePieces (id : Nat) (o : PorterOp) : List (Long × Nat) → List Byte → State → State × Option EngErr
  | [], _, s => (s, none)
  | (a, n) :: r, bs, s =>
    match spaceWrite s id o o.dsp a.toNat (bs.take n) with
    | .error e => (s, some e)
    | .ok s1 => writePieces id o r (bs.drop n) s1

/-- Class and record of what stopped an operation (08 R198). -/
def engClass : EngErr → Nat
  | .fault f => f.cls
  | .data _ | .host .. => 0xF0
def engRecord : EngErr → BitVec 256
  | .fault f => faultRecord f
  | .data va | .host va _ _ => va.setWidth 256

/-- An operation stops at an error; what a walk that failed has changed stays (04 R107). -/
def stopOp (s : State) (id : Nat) (o : PorterOp) (e : EngErr) : State :=
  faultOp (afterEng s (opWho id o) e) id (engClass e) (engRecord e)

/-- A PGATH into registers (08 R197): each lane's element, or its fault; `lanes` are the lanes of the elements. -/
def gatherReg (s : State) (id : Nat) (o : PorterOp) (reg prod : Nat) (lanes : List Nat) : State :=
  let step (t : State × Nat × Option EngErr) (e : Nat × PSeg) : State × Nat × Option EngErr :=
    match spaceRead t.1 id o o.ssp e.2.src 4 with
    | .error x => (t.1, t.2.1, t.2.2.or (some x))
    | .ok (s1, bs) =>
      let w : RegWrite := ⟨.lane, reg, laneBit e.1, List.replicate 32 (BitVec.ofNat 64 (natOfBytes bs))⟩
      ({ s1 with producers := tblUpd s1.producers prod fun p => { p with writes := p.writes ++ [w] } }, t.2.1 + 4, t.2.2)
  let (s1, n, bad) := (lanes.zip o.segs).foldl step (s, 0, none)
  let s2 := updOp s1 id fun o => { o with bytes := n }
  match bad with
  | some e => stopOp s2 id o e
  | none => updOp s2 id fun o => { o with next := o.count }

/-- Writes and counts one transfer (08 R194, R201). A counter word that is poisoned is a data error of the operation (08
R187, R195). DEDUCED (unsafe), log entry 36; DEDUCED (unsafe), log entry 94. -/
def runTransfer (s : State) (id i : Nat) : State :=
  match tblFind s.porterOps id with
  | none => s
  | some o =>
    let t := (transfersOf o.segs).getD i []
    match readRuns id o t s with
    | .error e => stopOp s id o e
    | .ok (s1, l) =>
      match writePieces id o (piecesOf (BitVec.ofNat 64 (transferLo t)) (transferBytes t)) (transferImage t l) s1 with
      | (s2, some e) => stopOp s2 id o e
      | (s2, none) =>
        match o.counter, tblFind s2.groups o.gid with
        | some (die, off), some g =>
          if addPoisoned s2 o.block die off (senderOf s2 o.ctx) ((o.seq.toNat + i) % 2 ^ 32) then
            stopOp s2 id o (.data (BitVec.ofNat 64 off))
          else
          let a := engineOf (agentOf s2 o.gid g)
          wake (arrivalAdd s2 o.block die off (transferBytes t) (senderOf s2 o.ctx) ((o.seq.toNat + i) % 2 ^ 32) a
            (viewTimes s2 (opCore id) o.ctx o.die))
        | _, _ => s2

/-! ### The fabric (14 R345-R348) -/

/-- A port the context holds that reaches a package: the route's, or the lowest it holds (log entry 58).
DEDUCED (unsafe), log entry 58. -/
def fabricPort (s : State) (ctx pkg : Nat) : Option Nat :=
  let held (p : Nat) : Bool := portHolder s p = ctx && subPortThere s p
  let r := tblFind s.routes pkg
  match r with
  | some p => if held p then some p else (List.range 96).find? held
  | none => (List.range 96).find? held

/-- Sends a packet and remembers it until it is acknowledged. -/
def sendPacket (s : State) (ctx port : Nat) (p : Packet) (rod : Bool) (cnt : Option (Nat × Nat)) (o : SentFor) : State :=
  { s with
    wire := s.wire ++ [.packet port p cnt]
    flights := s.flights ++ [⟨ctx, port, p, rod, cnt, o, 0, s.clock⟩] }

/-- Sends packets again (14 R346), while their context runs. DEDUCED (unsafe), log entry 59. -/
def resend (s : State) (which : Flight → Bool) : State :=
  let open_ (f : Flight) : Bool := which f && sourcesOpen s f.ctx
  { s with
    wire := s.wire ++ (s.flights.filter open_).map fun f => .packet f.port f.p f.cnt
    flights := s.flights.map fun f => if open_ f then { f with resends := f.resends + 1 } else f }

/-- What was sent and not acknowledged before a stop or a reset is sent again with its sequence numbers (08 R204, 14
R349); its path has its time from now on. DEDUCED (unsafe), log entry 59. -/
def resendAfter (s : State) (which : Flight → Bool) : State :=
  resend { s with flights := s.flights.map fun f => if which f then { f with since := s.clock } else f } which

/-- A packet's header without the fields of its kind. -/
def plainPacket (s : State) (kind : PktKind) (ctx : Nat) (dpkg : BitVec 12) (dctx : BitVec 16) (seq : BitVec 32)
    (payload : List Byte) : Packet :=
  ⟨kind, 0, seq, 0, 0, 0, 0, BitVec.ofNat 16 ctx, dctx, s.ownPkg, dpkg, 0, 0, payload⟩

/-- Sends transfer i of an FXFER (08 R206). -/
def sendTransfer (s : State) (id i : Nat) (o : PorterOp) (r : Remote) : State :=
  let t := (transfersOf o.segs).getD i []
  match readRuns id o t s with
  | .error e => stopOp s id o e
  | .ok (s1, l) =>
    let p : Packet := { plainPacket s1 .fxfer o.ctx r.pkg r.ctx (o.seq + BitVec.ofNat 32 i) (transferImage t l) with
      addr := BitVec.ofNat 64 (transferLo t) }
    sendPacket s1 o.ctx r.port p false (r.counter.map fun c => (r.die, c)) (.xfer id i)

/-- A block whose engine operations go on though its context stops (17 R404). -/
def methodRuns (s : State) (block : Nat) : Bool :=
  match (tblFind s.blocks block).bind (·.method) with
  | some .drain | some .flashback | some .restart => true
  | some .full | none => false

/-- Engines take up new work for a block (17 R406): its context's sources are open and the block is placed, or its
method runs its operations to their end. -/
def engineOpen (s : State) (ctx block : Nat) : Bool :=
  (sourcesOpen s ctx && !((tblFind s.blocks block).map (·.saved)).getD true) || methodRuns s block

/-- Puts a piece into an ascending list, once. -/
def addPiece (x : Long × Nat × Nat) : List (Long × Nat × Nat) → List (Long × Nat × Nat)
  | [] => [x]
  | y :: r =>
    if x = y then y :: r
    else if x.1.toNat < y.1.toNat || (x.1 = y.1 && x.2.2 < y.2.2) then x :: y :: r
    else y :: addPiece x r

/-- The pieces of a list of runs that lie in host memory or in a peer window, ascending: virtual and machine address,
and bytes. DEDUCED (unsafe), log entry 26. -/
def hostReads (s : State) (id : Nat) (o : PorterOp) (l : List PSeg) : List (Long × Nat × Nat) :=
  if o.ssp = .vm then
    ((l.flatMap fun x => piecesOf (BitVec.ofNat 64 x.src) x.len).filterMap fun e =>
      match translate s (opWho id o) e.1 .porterRead with
      | .ok (_, t) => if (busAddr s t.ma).isSome then some (e.1, t.ma, e.2) else none
      | .error _ => none).foldl (fun l e => addPiece e l) []
  else []

/-- Sends the non-posted reads of a transfer, in ascending order of address, each once (08 R185).
DEDUCED (unsafe), log entry 26. -/
def askHost (s : State) (id : Nat) (o : PorterOp) (ps : List (Long × Nat × Nat)) : State :=
  let io := s.fresh
  let s1 : State := { s with
    fresh := io + 1, ios := tblPut s.ios io ⟨o.gid, ps.length, [], [], [], []⟩, opReads := tblPut s.opReads id io }
  ps.zipIdx.foldl (fun s e => { s with
    fresh := s.fresh + 1
    requests := s.requests ++ [⟨s.fresh, io, e.2, 0, e.1.2.2, peerRid s e.1.2.1, e.1.1⟩]
    bus := s.bus ++ [.read s.fresh ((busAddr s e.1.2.1).getD 0) e.1.2.2 (requesterId s o.ctx)] }) s1

/-- A transfer goes on with what its reads of host and peer memory have brought: they are asked for first and waited
for, and one that failed is a data error of its bytes (08 R185, R195, 07 R168). DEDUCED (unsafe), log entry 26. -/
def withHost (s : State) (id : Nat) (o : PorterOp) (l : List PSeg) (go : State → State) : State :=
  match hostReads s id o l with
  | [] => go s
  | p :: r =>
    match tblFind s.opReads id with
    | none => askHost s id o (p :: r)
    | some k =>
      match tblFind s.ios k with
      | none => go s
      | some y =>
        if y.wants != 0 then s
        else
          let s1 : State := { s with ios := tblDel s.ios k, opReads := tblDel s.opReads id }
          let bytes := (p :: r).zipIdx.map fun e =>
            (e.1.1, if y.errs.any fun x => x.1 = e.2 then [] else bytesOfNat e.1.2.2 (tblGet 0 y.vals e.2))
          { go { s1 with arrived := bytes } with arrived := [] }

/-- A transfer reads or writes a line that the Paorid die holds requests to (05 R132). -/
def transferHeld (s : State) (o : PorterOp) (t : List PSeg) : Bool :=
  let held (a n : Nat) (write : Bool) : Bool :=
    (piecesOf (BitVec.ofNat 64 a) n).any fun p => heldRequest s o.die (asidOf o.ctx p.1) (lineOf p.1.toNat) write
  s.dirStatus.any (·.2.recov) && t.any fun x =>
    (o.ssp = .vm && held x.src x.len false) || (o.dsp = .vm && o.remote.isNone && held x.dst x.len true)

/-- A transfer must wait: for a credit of its counter, here or at its destination (08 R203), or for a directory slice.
DEDUCED (unsafe), log entry 36. -/
def transferWaits (s : State) (o : PorterOp) : Bool :=
  o.counter.any (fun c => !creditFree s o.block c.1 c.2) ||
  (o.remote.any fun r => r.counter.any fun off => !remoteCredit s r.pkg r.ctx r.die off) || transferHeld s o ((transfersOf o.segs).getD o.next [])

/-- The next transfer of an operation that a porter serves: written, or for an FXFER sent. One that has begun to read
host or peer memory goes on when its sources close (17 R406).
DEDUCED (unsafe), log entry 36; DEDUCED (unsafe), log entry 47. -/
def stepTransfer (s : State) (id : Nat) : State :=
  match tblFind s.porterOps id with
  | none => s
  | some o =>
    let begun := (tblFind s.opReads id).isSome
    if o.state != .running || o.count ≤ o.next || !(begun || engineOpen s o.ctx o.block) || transferWaits s o then s
    else
      let ok (s1 : State) : State :=
        flushRecs (updOp s1 id fun x =>
          if x.state = .running then
            { x with next := o.next + 1, unacked := x.unacked ++ [o.next]
                     bytes := x.bytes + (if o.remote.isSome then 0 else transferBytes ((transfersOf o.segs).getD o.next [])) }
          else x)
      match o.remote, o.reg with
      | none, some (reg, prod, lanes) => withHost s id o o.segs fun s => gatherReg s id o reg prod (laneList lanes)
      | some r, _ => withHost s id o ((transfersOf o.segs).getD o.next []) fun s => ok (sendTransfer s id o.next o r)
      | none, none => withHost s id o ((transfersOf o.segs).getD o.next []) fun s => ok (runTransfer s id o.next)

/-- The operation that the dispatcher of a die gives next (08 R183): the contexts take turns, the next above the one
served last, and each context's operations go in order of issue. DEDUCED (safe), log entry 37. -/
def nextOp (s : State) (die : Nat) : Option (Nat × PorterOp) :=
  let l := s.porterOps.filter fun e => e.2.state = .queued && e.2.die = die && engineOpen s e.2.ctx e.2.block
  let last := tblGet 0 s.porterCtx die
  let ctxs := l.map (·.2.ctx)
  match ((ctxs.filter (last < ·)).min?).or ctxs.min? with
  | none => none
  | some c => l.find? fun e => e.2.ctx = c

/-- A packet is one of an operation's. -/
def ofOp (id : Nat) (f : Flight) : Bool :=
  match f.owner with
  | .xfer k _ => k = id
  | .slot .. | .fatom .. => false

/-- A porter takes the next operation of its die (08 R183), and resends what was not acknowledged (08 R204): transfers
written here had arrived, and their counter discards them as duplicates (08 R203).
DEDUCED (unsafe), log entry 26; DEDUCED (safe), log entry 37; DEDUCED (unsafe), log entry 71. -/
def dispatchPorter (s : State) (porter : Nat) : State :=
  if 48 ≤ porter || (tblFind s.porters porter).isSome then s
  else
    match nextOp s (porter / 12) with
    | none => s
    | some (id, o) =>
      let s1 := updOp { s with porters := tblPut s.porters porter id, porterCtx := tblSet 0 s.porterCtx (porter / 12) o.ctx }
        id fun o => { o with state := .running }
      if o.remote.isSome then resendAfter s1 (ofOp id)
      else if o.counter.isSome && o.unacked != [] then count s1 34 0 o.unacked.length
      else s1

/-- A sender's credit at the counter of a die slice is closed (08 R203): no two of its transfers have one number. -/
def closeCredits (s : State) (sender seq : Nat) : State :=
  let f (x : Arrival) : Arrival := { x with seen := x.seen.filter fun e => e != (sender, seq) }
  { s with slices := s.slices.map fun x =>
      { x with arr := (x.arr.map fun a => (a.1, f a.2)).filter fun a => a.2 != newArrival } }

/-- A transfer of an operation is settled, with n bytes written: an operation that has ended and waits for nothing more
is over. -/
def dropTransfer (s : State) (id i n : Nat) : State :=
  match tblFind s.porterOps id with
  | none => s
  | some o =>
    if !o.unacked.contains i then s
    else
      let s1 := updOp s id fun o => { o with unacked := o.unacked.filter fun k => k != i, bytes := o.bytes + n }
      if o.slot = 64 && o.unacked.length = 1 then { s1 with porterOps := tblDel s1.porterOps id } else s1

/-- A transfer's acknowledgement closes its credit (08 R203). -/
def ackTransfer (s : State) (id : Nat) (seq : BitVec 32) : State :=
  match tblFind s.porterOps id with
  | none => s
  | some o =>
    let i := (seq - o.seq).toNat
    if !o.unacked.contains i then s
    else
      let s2 := dropTransfer s id i (if o.remote.isSome then transferBytes ((transfersOf o.segs).getD i []) else 0)
      match o.counter, o.remote with
      | some (die, off), _ => arrivalClose s2 o.block die off (senderOf s2 o.ctx) (seq.toNat)
      | none, some r =>
        if r.pkg = s2.ownPkg && r.counter.isSome then closeCredits s2 (senderOf s2 o.ctx) seq.toNat else s2
      | none, none => s2

/-! ### Issue (08 R192, R193) -/

/-- What the endpoint checks at issue find (08 R186). -/
def endpointErr (s : State) (g : Group) (sp : PSpace) (off n : Nat) (acc : Acc) : Option LaneErr :=
  let bad : Option LaneErr := some (.access 2 (BitVec.ofNat 64 off) (accCode acc))
  match sp with
  | .vm =>
    let a : Long := BitVec.ofNat 64 off
    let z : Long := BitVec.ofNat 64 (off + n - 1)
    if n != 0 && !canonical a then some (.fault ⟨0x05, a, 0, 0, false, acc, asidOf (ctxOf s g) a⟩)
    else if n != 0 && !canonical z then some (.fault ⟨0x05, z, 0, 0, false, acc, asidOf (ctxOf s g) z⟩)
    else none
  | .ds => if 2 ^ 25 ≤ off || scratchSize s g.block true < off + n then bad else none
  | .bs => if 2 ^ 20 ≤ off || scratchSize s g.block false < off + n then bad else none
  | .lf =>
    let qs := ((blockOf s g).map (·.quads.length)).getD 0
    let lim := ((gridOf s g).map (·.hdr.loft)).getD 0
    if 2 ^ 25 ≤ off || off % 4 != 0 || n % 4 != 0 || qs ≤ off / 2 ^ 20 || lim < off % 2 ^ 20 + n then bad else none
  | .rg => none

/-- The counter's bound (08 R190). -/
def counterErr (s : State) (g : Group) (ctl : PCtl) : Option LaneErr :=
  if ctl.cnt && scratchSize s g.block ctl.csp < 8 * ctl.cidx.toNat + 8 then
    some (.access 2 (BitVec.ofNat 64 (8 * ctl.cidx.toNat)) 5)
  else none

/-- The checks of an operation: of the endpoints that its registers give, and of its runs. -/
def segsErr (s : State) (g : Group) (dsp ssp : PSpace) (dst src : Nat) (segs : List PSeg) : Option LaneErr :=
  (⟨dst, src, 0⟩ :: segs).findSome? fun x =>
    (endpointErr s g dsp x.dst x.len .porterWrite).or (endpointErr s g ssp x.src x.len .porterRead)

/-- Operation slots that a group uses. -/
def slotsOf (s : State) (gid : Nat) : Tbl PorterOp := s.porterOps.filter fun e => e.2.gid = gid && e.2.slot < 64

def freeOpSlot (s : State) (gid : Nat) : Option Nat :=
  (List.range 64).find? fun k => !((slotsOf s gid).any fun e => e.2.slot = k)

/-- Every slot holds a failure that nothing has read. -/
def slotsFailed (s : State) (gid : Nat) : Bool := (slotsOf s gid).all fun e => !opActive e.2

/-- A die's dispatcher holds 1,024 operations. DEDUCED (safe), log entry 37. -/
def dispatcherFull (s : State) (die : Nat) : Bool :=
  1024 ≤ (s.porterOps.filter fun e => e.2.die = die && opActive e.2).length

/-- Takes n sequence numbers of a context (08 R184). -/
def takeSeqs (s : State) (ctx n : Nat) : BitVec 32 × State :=
  (((tblFind s.ctxs ctx).map (·.xferSeq)).getD 0, updCtx s ctx fun c => { c with xferSeq := c.xferSeq + BitVec.ofNat 32 n })

/-- Issues an operation (08 R192): a slot, its sequence numbers and its ticket. It reads after what the group's FENCEA
has passed on (06 R151). -/
def issueOp (c : Ins) (s : State) (d : Dst) (dsp ssp : PSpace) (segs : List PSeg) (cnt : Option (Bool × Nat))
    (remote : Option Remote) (reg : Option (Nat × Lanes)) : Act :=
  match freeOpSlot s c.gid with
  | none => if slotsFailed s c.gid then result c s d 1 fun _ => 0x8000000000000001 else .wait
  | some slot =>
    if dispatcherFull s (dieOf c) then .wait
    else
      let ctx := ctxOf s c.g
      let n := (transfersOf segs).length
      let (seq, s1) := takeSeqs s ctx n
      let ticket : Long := BitVec.ofNat 64 (slot * 2 ^ 32 + seq.toNat)
      if n = 0 then result c s1 d 1 fun _ => ticket
      else
        let id := s1.fresh
        let s2 : State := { s1 with fresh := id + 1 }
        let (s3, r) : State × Option (Nat × Nat × Lanes) :=
          match reg with
          | some (v, m) =>
            let prod := s2.fresh
            let s3 := produce s2 c.gid [regKey .lane v] [] []
            ({ s3 with producers := tblUpd s3.producers prod fun p => { p with ready := false } }, some (v, prod, m))
          | none => (s2, none)
        let o : PorterOp := ⟨c.gid, c.g.serial, c.p.pc, slot, ctx, dieOf c, c.g.block, c.g.handler, seq, n, dsp, ssp, segs,
          cnt, r, remote, 0, [], 0, false, .queued, 0, 0⟩
        let t := c.g.fenced
        result c (setPartView { s3 with porterOps := tblPut s3.porterOps id o } ⟨opCore id, ctx, t.at (dieOf c), 0, t⟩) d 1
          fun _ => ticket

/-- A scalar operand of a porter instruction. -/
def opnd (c : Ins) (a : Src) (k : Nat) : Nat := (sGet c.g (a.reg.toNat + k)).toNat

/-- A copy's operation after its checks, from the endpoints in `a` and `b`. -/
def copyOp (c : Ins) (s : State) (ctl : PCtl) (d : Dst) (a b : Src) (segs : List PSeg) : Act :=
  match (segsErr s c.g ctl.dsp ctl.ssp (opnd c a 0) (opnd c b 0) segs).or (counterErr s c.g ctl) with
  | some e => .trap (onceTrap c e) s
  | none => issueOp c s d ctl.dsp ctl.ssp segs (if ctl.cnt then some (ctl.csp, 8 * ctl.cidx.toNat) else none) none none

/-- A signed offset added to an endpoint, modulo 2^64. -/
def endAdd (x : Nat) (i : Int) : Nat := (BitVec.ofNat 64 x + BitVec.ofInt 64 i).toNat

def tooLong (c : Ins) (s : State) (a : Src) : Act := .trap (onceTrap c (.access 2 (BitVec.ofNat 64 (opnd c a 0)) 5)) s

def execPcopy (g : Guard) (ctl : PCtl) (d : Dst) (a b cc : Src) (s : State) : Host.Outcome State Fault Refusal :=
  issue (.pcopy g ctl d a b cc) (fun c s =>
    let n := opnd c cc 0
    if 0xFFFFFFFF < n then tooLong c s a else copyOp c s ctl d a b [⟨opnd c a 0, opnd c b 0, n⟩]) s

def execPcopy2 (g : Guard) (ctl : PCtl) (d : Dst) (a b cc : Src) (s : State) : Host.Outcome State Fault Refusal :=
  issue (.pcopy2 g ctl d a b cc) (fun c s =>
    let w := opnd c cc 0 % 2 ^ 32
    let r := opnd c cc 0 / 2 ^ 32
    let ds := intOf 32 true (opnd c cc 1)
    let ss := intOf 32 true (opnd c cc 1 / 2 ^ 32)
    if 0xFFFFFFFF < w * r then tooLong c s a
    else
      copyOp c s ctl d a b (if w = 0 then [] else
        (List.range r).map fun (i : Nat) => ⟨endAdd (opnd c a 0) (ds * (i : Int)), endAdd (opnd c b 0) (ss * (i : Int)), w⟩)) s

/-- The lanes that act with their ranks. -/
def ranked (m : Lanes) : List (Nat × Nat) := (laneList m).zipIdx

def execPgath (g : Guard) (ctl : PCtl) (d : Dst) (a b cc : Src) (s : State) : Host.Outcome State Fault Refusal :=
  issue (.pgath g ctl d a b cc) (fun c s =>
    let e := 2 ^ ctl.esz.toNat
    let src (l : Nat) : Nat := endAdd (opnd c b 0) ((vGet c.g cc.reg.toNat l).toNat * e : Nat)
    if ctl.dsp = .rg then
      let segs : List PSeg := (ranked c.act).map fun x => ⟨4 * x.2, src x.1, 4⟩
      match segsErr s c.g .rg ctl.ssp 0 (opnd c b 0) segs with
      | some x => .trap (onceTrap c x) s
      | none => issueOp c s d .rg ctl.ssp segs none none (some (a.reg.toNat, c.act))
    else copyOp c s ctl d a b ((ranked c.act).map fun x => ⟨endAdd (opnd c a 0) (x.2 * e : Nat), src x.1, e⟩)) s

def execPscat (g : Guard) (ctl : PCtl) (d : Dst) (a b cc : Src) (s : State) : Host.Outcome State Fault Refusal :=
  issue (.pscat g ctl d a b cc) (fun c s =>
    let e := 2 ^ ctl.esz.toNat
    copyOp c s ctl d a b ((ranked c.act).map fun x =>
      ⟨endAdd (opnd c a 0) ((vGet c.g cc.reg.toNat x.1).toNat * e : Nat), endAdd (opnd c b 0) (x.2 * e : Nat), e⟩)) s

/-! ### Completion (08 R198-R200) -/

/-- What a ticket names: refused, finished, or an operation that holds its slot. -/
inductive Named where
  | refused | finished | op (id : Nat) (o : PorterOp)

/-- DEDUCED (unsafe), log entry 76. -/
def ticketOp (s : State) (gid : Nat) (t : Long) : Named :=
  if t.getLsbD 63 then .refused
  else
    match tblFirst s.porterOps fun _ o =>
        o.gid = gid && o.slot = t.toNat / 2 ^ 32 % 64 && o.seq = t.setWidth 32 with
    | some (id, o) => .op id o
    | none => .finished

/-- The earliest operation that did not end done, among those that still hold their slots too (08 R200).
DEDUCED (unsafe), log entry 76. -/
def badOf (b : Option (BitVec 32 × Long)) (os : Tbl PorterOp) : Option (BitVec 32 × Long) :=
  os.foldl (fun b e => if opActive e.2 then b else joinBad b e.2) b

/-- The status that `.all` writes. DEDUCED (unsafe), log entry 76. -/
def statusAll (b : Option (BitVec 32 × Long)) : Long :=
  match b with
  | some x => x.2
  | none => statusDone

/-- Observed failures free their slots. DEDUCED (unsafe), log entry 76. -/
def observe (s : State) (os : Tbl PorterOp) : State := os.foldl (fun s e => if opActive e.2 then s else freeOp s e.1) s

/-- The path waits, and is answered at the end of what it waits for. -/
def parkFor (s : State) (c : Ins) (a : Await) : Act :=
  .park (updGroup s c.gid fun g => updPath g c.p.lanes fun p => { p with await := some a })

/-- What a path that waits for all of its group's operations knows of those that failed.
DEDUCED (unsafe), log entry 76. -/
def waitedBad (p : Path) : Option (BitVec 32 × Long) :=
  match p.await with
  | some (.porters b) => b
  | _ => none

/-- PWAIT: an operation that it waits for gives it its status, one that has ended before reads done with BYTES 0 (08
R199). -/
def execPwait (g : Guard) (sc : Scope) (d : Dst) (a : Option Src) (s : State) : Host.Outcome State Fault Refusal :=
  issue (.pwait g sc d a) (fun c s =>
    let fin (s : State) (x : Long) : Act := result c (acquireDone s c.gid sc) d 1 fun _ => x
    match c.p.await, a with
    | some (.answer x), _ => fin s x
    | some (.porter _), _ => .wait
    | _, some t =>
      match ticketOp s c.gid (srcVal c.g c.p t 2 0) with
      | .refused => fin s 5
      | .finished => fin s statusDone
      | .op id o => if opActive o then parkFor s c (.porter id) else fin (freeOp s id) (statusWord o)
    | _, none =>
      let os := slotsOf s c.gid
      if os.any fun e => opActive e.2 then parkFor s c (.porters (waitedBad c.p))
      else fin (observe s os) (statusAll (badOf (waitedBad c.p) os))) s

/-- PYIELD: it keeps the operation, or all of its group's, that it waits for, and goes by how they ended (08 R200). -/
def execPyield (g : Guard) (sc : Scope) (a : Option Src) (slot : Fin 5) (disp : BitVec 26) (s : State) :
    Host.Outcome State Fault Refusal :=
  issue (.pyield g sc a slot disp) (fun c s =>
    let jump : Act :=
      let pc := BitVec.ofNat 64 (c.p.pc.toNat / 64 * 64) + (disp.signExtend 64) * 64 + BitVec.ofNat 64 slot.val
      .moved (updGroup (acquireDone s c.gid sc) c.gid fun g =>
        updPath g c.p.lanes fun _ => { agePath c.p with pc := pc, enter := true, checked := true })
    match c.p.await, a with
    | some (.answer x), _ => if x.extractLsb' 0 4 = 2 then jump else .done s
    | some (.porter _), _ => .wait
    | _, some t =>
      match ticketOp s c.gid (srcVal c.g c.p t 2 0) with
      | .refused => .done s
      | .finished => jump
      | .op id o => if opActive o then parkFor s c (.porter id) else .done s
    | _, none =>
      let os := slotsOf s c.gid
      if os.any fun e => opActive e.2 then parkFor s c (.porters (waitedBad c.p))
      else if (badOf (waitedBad c.p) os).isNone then jump else .done s) s

def execPstat (g : Guard) (recd : Bool) (d : Dst) (a : Src) (s : State) : Host.Outcome State Fault Refusal :=
  issue (.pstat g recd d a) (fun c s =>
    let put (s : State) (x : Long) (r : BitVec 256) : Act :=
      groupDone s c fun g =>
        if recd then (List.range 4).foldl (fun g i => sSet g (d.reg.toNat + i) (r.extractLsb' (64 * i) 64)) g
        else sSet g d.reg.toNat x
    match ticketOp s c.gid (srcVal c.g c.p a 2 0) with
    | .refused => put s 5 0
    | .finished => put s statusDone 0
    | .op id o => put (if opActive o then s else freeOp s id) (statusWord o) o.record) s

/-- PCANCEL drops what has not started (08 R200); what has, a transfer whose reads are under way too, is written and
acknowledged before the operation ends. -/
def cancelOp (s : State) (id : Nat) (o : PorterOp) : State :=
  if opActive o then
    finishOp (updOp s id fun o => { o with
      cancel := true, count := Nat.min o.count (if (tblFind s.opReads id).isSome then o.next + 1 else o.next) }) id
  else s

/-- The operations of a group that a PCANCEL ends and that have not ended. -/
def cancelling (s : State) (gid : Nat) : Bool := (slotsOf s gid).any fun e => opActive e.2 && e.2.cancel

/-- The failures that PCANCEL `.all` writes of: those that ended at once, with the others.
DEDUCED (unsafe), log entry 76. -/
def cancelledNow (os : Tbl PorterOp) (s : State) : Option (BitVec 32 × Long) :=
  os.foldl (fun b e =>
    if opActive e.2 && (tblFind s.porterOps e.1).isNone then joinBad b { e.2 with state := .cancelled } else b) none

def execPcancel (g : Guard) (d : Dst) (a : Option Src) (s : State) : Host.Outcome State Fault Refusal :=
  issue (.pcancel g d a) (fun c s =>
    let fin (s : State) (x : Long) : Act := result c s d 1 fun _ => x
    match c.p.await, a with
    | some (.answer x), _ => fin s x
    | some (.porter _), _ => .wait
    | some (.porters b), _ => if cancelling s c.gid then .wait else fin s (statusAll (badOf b (slotsOf s c.gid)))
    | _, some t =>
      match ticketOp s c.gid (srcVal c.g c.p t 2 0) with
      | .refused => fin s 5
      | .finished => fin s statusDone
      | .op id o =>
        if !opActive o then fin s (statusWord o)
        else
          let s1 := cancelOp s id o
          if (tblFind s1.porterOps id).isSome then parkFor s1 c (.porter id) else fin s1 (statusWord { o with state := .cancelled })
    | _, none =>
      let os := slotsOf s c.gid
      let s1 := os.foldl (fun s e => cancelOp s e.1 e.2) s
      let b := cancelledNow os s1
      if cancelling s1 c.gid then parkFor s1 c (.porters b) else fin s1 (statusAll (badOf b (slotsOf s1 c.gid)))) s

/-! ### Arrival counters (08 R202) -/

/-- The checks of a counter's offset, and of its word, which the monitor reads (08 R187).
DEDUCED (unsafe), log entry 94. -/
def offsetErr (s : State) (c : Ins) (die : Bool) (off : Nat) (acc : Nat) : Option LaneErr :=
  if off % 8 != 0 then some (.access 1 (BitVec.ofNat 64 off) acc)
  else if scratchSize s c.g.block die < off + 8 then some (.access 2 (BitVec.ofNat 64 off) acc)
  else if scratchPoison s c.g.block die off 8 then some (.data (BitVec.ofNat 64 off))
  else none

def execArrset (g : Guard) (die : Bool) (a b : Src) (s : State) : Host.Outcome State Fault Refusal :=
  issue (.arrset g die a b) (fun c s =>
    let off := opnd c a 0
    match offsetErr s c die off 1 with
    | some e => .trap (onceTrap c e) s
    | none =>
      let x := arrival s c.g.block die off
      if !monitorRoom s c.g.block die off then .wait
      else
        .done (wake (monitor (setArrival s c.g.block die off
          { x with target := some (srcVal c.g c.p b 2 0), armed := true }) c.g.block die off none))) s

def execArrwait (g : Guard) (die : Bool) (sc : Scope) (d : Dst) (a : Src) (s : State) :
    Host.Outcome State Fault Refusal :=
  issue (.arrwait g die sc d a) (fun c s =>
    let off := match c.p.await with
      | some (.arrival _ o _) => o
      | _ => opnd c a 0
    let fin (n : Nat) : Act :=
      result c (acquireOf s c.gid sc (relsAt s (scratchSpace s c.g.block die) off 8)) d 1 fun _ => BitVec.ofNat 64 n
    match c.p.await with
    | some (.arrival _ _ (some x)) => fin x.toNat
    | some (.arrival _ _ none) => .wait
    | _ =>
      match offsetErr s c die off 0 with
      | some e => .trap (onceTrap c e) s
      | none =>
        let n := natOfBytes (scratchRead s c.g.block die off 8) % 2 ^ 63
        if (arrival s c.g.block die off).target.any fun t => t.toNat ≤ n then fin n
        else if monitorRoom s c.g.block die off then parkFor s c (.arrival die off none)
        else .wait) s

/-! ### FXFER and FATOM (08 R205-R208) -/

/-- The endpoint that a handle names (14 R325). Where no port of the context reaches its package, FXFER and FATOM take
the trap of a handle without an entry. -/
def endpointOf (s : State) (ctx h : Nat) : Option Endpoint := (tblFind s.ctxs ctx).bind fun c => tblFind c.endpoints h

/-- DESIGN CHOICE (unsafe), log entry 95. -/
def execFxfer (g : Guard) (ssp : PSpace) (rcnt : Bool) (lane : BitVec 5) (d : Dst) (a : Src) (s : State) :
    Host.Outcome State Fault Refusal :=
  issue (.fxfer g ssp rcnt lane d a) (fun c s =>
    let ctx := ctxOf s c.g
    let n := opnd c a 2 % 2 ^ 32
    let h := opnd c a 2 / 2 ^ 32 % 2 ^ 16
    if !c.act.getLsbD lane.toNat then .done s
    else
      match endpointOf s ctx h with
      | none => .trap (c.trap 6 0) s
      | some e =>
        match fabricPort s ctx e.pkg.toNat with
        | none => .trap (c.trap 6 0) s
        | some port =>
          match endpointErr s c.g ssp (opnd c a 0) n .porterRead with
          | some x => .trap (onceTrap c x) s
          | none =>
            if rcnt && opnd c a 3 % 8 != 0 then .trap (onceTrap c (.access 1 (BitVec.ofNat 64 (opnd c a 3)) 5)) s
            else
              issueOp c s d .vm ssp [⟨opnd c a 1, opnd c a 0, n⟩] none
                (some ⟨e.pkg, e.ctx, e.die, if rcnt then some (opnd c a 3) else none, port⟩) none) s

/-- The bytes that an FATOM request carries after its header: the spec gives no layout (log entry 58).
DEDUCED (unsafe), log entry 58. -/
def fatomPayload (op : AtomOp) (ty : Fmt) (v : Long) : List Byte :=
  let o := match op with
    | .add => 0 | .and => 1 | .or => 2 | .xor => 3 | .min => 4 | .max => 5 | .exch => 6 | .inc => 7
  let t := match ty with
    | .i32 => 5 | .u32 => 6 | .i64 => 7 | .u64 => 8 | _ => 0
  bytesOfNat 8 v.toNat ++ [BitVec.ofNat 8 o, BitVec.ofNat 8 t]

/-- DESIGN CHOICE (unsafe), log entry 95. -/
def execFatom (g : Guard) (op : AtomOp) (ty : Fmt) (lane : BitVec 5) (d : Dst) (a : Src) (s : State) :
    Host.Outcome State Fault Refusal :=
  issue (.fatom g op ty lane d a) (fun c s =>
    let ctx := ctxOf s c.g
    if !c.act.getLsbD lane.toNat then .done s
    else
      match endpointOf s ctx (opnd c a 2 / 2 ^ 32 % 2 ^ 16) with
      | none => .trap (c.trap 6 0) s
      | some e =>
        match fabricPort s ctx e.pkg.toNat with
        | none => .trap (c.trap 6 0) s
        | some port =>
          if !sourcesOpen s ctx then .wait
          else
          let (seq, s1) := takeSeqs s ctx 1
          let prod := s1.fresh
          let keys := dstKeys d 2 2
          let s2 := produce s1 c.gid keys [] []
          let s3 : State := { s2 with producers := tblUpd s2.producers prod fun p => { p with ready := false } }
          let p : Packet := { plainPacket s3 .fatomReq ctx e.pkg e.ctx seq (fatomPayload op ty (sGet c.g (a.reg.toNat + 1))) with
            addr := sGet c.g a.reg.toNat }
          .done (sendPacket s3 ctx port p false none (.fatom c.gid prod d.reg.toNat))) s

end Sys2Proof.Machine
end

