-- ==== Sys2Proof/Machine/Matrix.lean ====
section
/-! DEFINITION. Opcodes 0xAC-0xB7: the loft, its fills and the matrix array (12), and the steps of a quadrant's matrix
sequencer. -/

namespace Sys2Proof.Machine

/-! ### The quadrant of a group -/

def quadHere (c : Ins) (s : State) : Quad := quadOf s c.g.quad

/-- The rounded size of the block's loft window on the group's quadrant (12 R266); 0 without one. -/
def windowHere (c : Ins) (s : State) : Nat := ((windowOf s c.g.block c.g.quad).map (·.size)).getD 0

/-- Healthy row-blocks (12 R268, R287). -/
def healthy (x : Quad) : Nat := ((List.range 4).filter fun i => !x.fenced.getLsbD i).length

/-- The block holds the array and has not released it (12 R269). -/
def holdsArray (x : Quad) (block : Nat) : Bool := x.holder = some block && !x.releasing

/-- The reservation checks of 12 R269: the cause of the matrix trap. -/
def arrayErr (c : Ins) (s : State) : Option Nat :=
  let x := quadHere c s
  if !holdsArray x c.g.block then some 1 else if healthy x = 0 then some 2 else none

/-- A producer that its engine completes later. -/
def startProducer (s : State) (gid : Nat) (marks : List Nat) : State × Nat :=
  let id := s.fresh
  let s1 := produce s gid marks [] []
  ({ s1 with producers := tblUpd s1.producers id fun p => { p with ready := false } }, id)

/-- Block of a group. -/
def blockIdOf (s : State) (gid : Nat) : Nat := ((tblFind s.groups gid).map (·.block)).getD 0

/-- Array operations of a block on a quadrant that have not completed (12 R269). -/
def arrayBusy (s : State) (q block : Nat) : Bool :=
  let x := quadOf s q
  let mine (gid : Nat) : Bool := blockIdOf s gid = block
  x.queue.any (fun o => mine o.gid) || x.pass.any (fun o => mine o.gid) || x.tests.any (fun o => mine o.gid) ||
    x.facts.any fun o => mine o.gid

/-- Operations that the split started (12 R285, 15 R351): fills, and what runs on the array. -/
def fillsOf (x : Quad) (gid : Nat) (lanes : Lanes) : Bool := x.fills.any fun f => f.gid = gid && f.lanes &&& lanes != 0
def matrixOf (x : Quad) (gid : Nat) (lanes : Lanes) : Bool :=
  (x.queue ++ x.pass).any (fun o => o.gid = gid && o.lanes &&& lanes != 0) ||
    x.tests.any (fun o => o.gid = gid && o.lanes &&& lanes != 0) || fillsOf x gid lanes

/-! ### Failures found after issue (12 R290) -/

/-- Leaves a report for a group. -/
def addReport (s : State) (gid : Nat) (r : Report) : State := updGroup s gid fun g => { g with reports := g.reports ++ [r] }

/-- The lane registers of a block of n. -/
def laneKeys (d n : Nat) : List Nat := (List.range n).map fun i => regKey .lane (d + i)

/-- The registers of an instruction are full when the last of its quarter-ops has completed. -/
def finishQuarters (s : State) (q prod : Nat) : State :=
  let x := quadOf s q
  if (x.queue ++ x.pass).any fun o => o.prod = prod then s else completeProducer s prod

/-- A quarter-op fails: it writes nothing and leaves its report. -/
def failQuarter (cls cause : Nat) (va : Nat) (s : State) (o : QOp) : State :=
  addReport s o.gid ⟨cls, cause, 0, BitVec.ofNat 64 va, o.pc, o.lanes, laneKeys o.d 32, false⟩

/-- `tstate` of a factorisation that ends before it is complete (13 R300): ST, NF and NEXT. -/
def tstateEnd (t : Word) (st nf next : Nat) : Word :=
  BitVec.ofNat 32 (t.toNat % 2 ^ 13 + next * 2 ^ 13 + bits t.toNat 25 20 * 2 ^ 20 + nf * 2 ^ 26 +
    bits t.toNat 29 27 * 2 ^ 27 + st * 2 ^ 30)

/-- NEXT of `tstate`. -/
def tstateNext (t : Word) : Nat := bits t.toNat 19 13

/-- The operations that write `tstate`. -/
def isFactor : FactKind → Bool
  | .lu | .chol | .qr => true
  | .trs .. | .perm .. | .qapp _ | .norm .. => false

/-- The path waits in an MREL. -/
def inMrel (p : Path) : Bool :=
  p.await = some .array &&
    match decode p.word with
    | .ok (.mrel _) => true
    | _ => false

/-- An array whose reservation is releasing is free once the block's operations on it are complete; the splits that wait
for that in MREL go on (12 R269). DEDUCED (unsafe), log entry 65. -/
def freeArray (s : State) (q : Nat) : State :=
  let x := quadOf s q
  match x.holder with
  | none => s
  | some b =>
    if x.releasing && !arrayBusy s q b then
      let s1 := updQuad s q fun x => { x with holder := none, releasing := false }
      let go (p : Path) : Path := if inMrel p then { p with await := some (.answer 0) } else p
      wake { s1 with groups := tblMap s1.groups fun _ g => if g.block = b && g.quad = q then mapPaths g go else g }
    else s

/-- A factorisation operation leaves the sequencer; its destination, if any, is full. -/
def endFact (s : State) (q : Nat) (o : FactOp) : State :=
  let s1 := freeArray (updQuad s q fun x => { x with facts := x.facts.erase o, idle := s.clock }) q
  match o.prod with
  | some p => completeProducer s1 p
  | none => wake s1

/-- An operation ends as an interruption (13 R312). -/
def interruptFact (cls cause va q : Nat) (s : State) (o : FactOp) : State :=
  let s1 :=
    if isFactor o.kind then
      updGroup s o.gid fun g => { g with tstate := tstateEnd g.tstate 2 0 (tstateNext g.tstate) }
    else s
  endFact (addReport s1 o.gid ⟨cls, cause, 0, BitVec.ofNat 64 va, o.pc, o.lanes, [], true⟩) q o

/-- The array has lost its last healthy row-block: what is queued for it fails (12 R290, 13 R312). -/
def loseArray (s : State) (q : Nat) : State :=
  let x := quadOf s q
  let ops := x.pass ++ x.queue
  let s1 := updQuad s q fun x => { x with queue := [], pass := [] }
  let s2 := ops.foldl (fun s o => finishQuarters (failQuarter 0x0C 2 0 s o) q o.prod) s1
  freeArray (x.facts.foldl (interruptFact 0x0C 2 0 q) s2) q

/-! ### Self-tests (12 R287, R288) -/

/-- Counts failed self-tests. -/
def countFailed (s : State) (q n : Nat) : State :=
  count (updQuad s q fun x => { x with stfail := (x.stfail + n) % 256 }) 22 q n

/-- A row-block is fenced. DEDUCED (unsafe), log entry 63. -/
def fenceRow (s : State) (q : Nat) (rb : Nat) : State :=
  let s1 := count (updQuad s q fun x => { x with fenced := x.fenced ||| BitVec.ofNat 4 (2 ^ rb) }) 23 0 1
  if healthy (quadOf s1 q) = 0 then loseArray s1 q else s1

/-- A row-block is self-tested: one that fails its tests fails twice in a row and is fenced. -/
def selfTest (s : State) (q rb : Nat) : State :=
  let x := quadOf s q
  if x.fenced.getLsbD rb || !x.faulty.getLsbD rb then s else fenceRow (countFailed s q 2) q rb

/-- MSELFT's tests, and its value. -/
def runTest (s : State) (q : Nat) (t : SelfTest) : State :=
  let old := (quadOf s q).fenced
  let s1 := (List.range 4).foldl (fun s rb => selfTest s q rb) s
  let now := (quadOf s1 q).fenced
  let v : Long := BitVec.ofNat 64 ((now &&& ~~~old).toNat + now.toNat * 16)
  let s2 := updQuad s1 q fun x => { x with tests := x.tests.erase t }
  completeProducer { s2 with producers := tblUpd s2.producers t.prod fun p =>
    { p with writes := [⟨.scalar, t.dst, allLanes, [v]⟩] } } t.prod

/-- Runs the self-tests that wait, once no quarter-op is queued (12 R288). -/
def runTests (s : State) (q : Nat) : State :=
  let x := quadOf s q
  freeArray (if x.queue = [] && x.pass = [] then x.tests.foldl (fun s t => runTest s q t) s else s) q

/-! ### Reservation (12 R269, R275) -/

def execMres (g : Guard) (pd : BitVec 3) (s : State) : Host.Outcome State Fault Refusal :=
  issue (.mres g pd) (fun c s =>
    let x := quadHere c s
    let ok := !x.releasing && (x.holder = none || x.holder = some c.g.block) && healthy x != 0
    let s1 := if ok then updQuad s c.g.quad fun x => { x with holder := some c.g.block } else s
    groupDone s1 c fun g => pSet g pd.toNat c.act (if ok then allLanes else 0)) s

/-- DEDUCED (unsafe), log entry 65. -/
def execMrel (g : Guard) (s : State) : Host.Outcome State Fault Refusal :=
  issue (.mrel g) (fun c s =>
    let mine := (quadHere c s).holder = some c.g.block
    match c.p.await with
    | some (.answer _) => .done s
    | some _ => .wait
    | none =>
      if !mine then .done s
      else if arrayBusy s c.g.quad c.g.block then
        .park (updGroup (updQuad s c.g.quad fun x => { x with releasing := true }) c.gid fun g =>
          updPath g c.p.lanes fun p => { p with await := some .array })
      else .done (updQuad s c.g.quad fun x => { x with holder := none, releasing := false })) s

/-! ### Fills (12 R281-R283) -/

/-- Queues a fill behind those before it. -/
def pushFill (c : Ins) (s : State) (f : Fill) : State :=
  updQuad s c.g.quad fun x => { x with fills := x.fills ++ [{ f with gid := c.gid, lanes := c.p.lanes, pc := c.p.pc }] }

def newFill (prod : Nat) (die : Bool) (act : Lanes) (k : FillKind) : Fill := ⟨0, prod, die, act, k, 0, 0⟩

/-- A fill of fragments: sixteen registers are empty until it completes. -/
def fragFill (c : Ins) (s : State) (d : Dst) (die : Bool) (bases : Nat → Nat) (w pitch : Nat) : Act :=
  let (s1, prod) := startProducer s c.gid (laneKeys d.reg.toNat 16)
  .done (pushFill c s1 (newFill prod die c.act (.frag d.reg.toNat ((List.range 32).map bases) w pitch)))

def execMlda (g : Guard) (die : Bool) (d : Dst) (m : MemOpd) (s : State) : Host.Outcome State Fault Refusal :=
  issue (.mlda g die d m) (fun c s =>
    let a (l : Nat) : Long := memAddr c.g c.p m l
    let lim := scratchSize s c.g.block die
    let err (l : Nat) : Option LaneErr :=
      if (a l).toNat % 4 != 0 then some (.access 1 (a l) 0)
      else if lim < (a l).toNat + 64 then some (.access 2 (a l) 0)
      else none
    let errs := (laneList c.act).filterMap fun l => (err l).map fun e => (l, e)
    if errs != [] then .trap { memTrap c errs with mask := c.act } s
    else fragFill c s d die (fun l => (a l).toNat) 64 0) s

/-- PITCH of MLDT (12 R274). -/
def pitchOf (pitch : BitVec 2) (w : Nat) : Nat :=
  match pitch with
  | 0 => 32 * w | 1 => 128 | 2 => 256 | _ => 512

def execMldt (g : Guard) (die : Bool) (pitch : BitVec 2) (w16 : Bool) (d : Dst) (m : MemOpd) (s : State) :
    Host.Outcome State Fault Refusal :=
  issue (.mldt g die pitch w16 d m) (fun c s =>
    let w := if w16 then 2 else 1
    let p := pitchOf pitch w
    let b := memAddr c.g c.p m (firstLane c.act)
    if b.toNat % w != 0 then .trap (onceTrap c (.access 1 b 0)) s
    else if scratchSize s c.g.block die < b.toNat + (64 / w - 1) * p + 32 * w then .trap (onceTrap c (.access 2 b 0)) s
    else fragFill c s d die (fun l => b.toNat + l * w) w p) s

def execMldb (g : Guard) (die : Bool) (a b cc : Src) (s : State) : Host.Outcome State Fault Refusal :=
  issue (.mldb g die a b cc) (fun c s =>
    let so := sGet c.g a.reg.toNat
    let lo := sGet c.g b.reg.toNat
    let n := sGet c.g cc.reg.toNat
    if so.toNat % 4 != 0 then .trap (onceTrap c (.access 1 so 0)) s
    else if lo.toNat % 4 != 0 || n.toNat % 4 != 0 then .trap (onceTrap c (.access 1 lo 1)) s
    else if scratchSize s c.g.block die < so.toNat + n.toNat then .trap (onceTrap c (.access 2 so 0)) s
    else if windowHere c s < lo.toNat + n.toNat then .trap (onceTrap c (.access 2 lo 1)) s
    else if n = 0 then .done s
    else .done (pushFill c s (newFill 0 die c.act (.copy so.toNat lo.toNat n.toNat)))) s

/-- The 64 bytes of a lane's fragment (12 R270). -/
def fragBytes (g : Group) (a l : Nat) : List Byte := (List.range 16).flatMap fun i => bytesOfNat 4 (vGet g (a + i) l).toNat

def execMldbR (g : Guard) (a b : Src) (s : State) : Host.Outcome State Fault Refusal :=
  issue (.mldbR g a b) (fun c s =>
    let t := sGet c.g b.reg.toNat
    if t.toNat % 2048 != 0 then .trap (onceTrap c (.access 1 t 1)) s
    else if windowHere c s < t.toNat + 2048 then .trap (onceTrap c (.access 2 t 1)) s
    else
      .done (pushFill c s (newFill 0 false c.act
        (.tile t.toNat ((laneList c.act).map fun l => (l, fragBytes c.g a.reg.toNat l)))))) s

/-- The byte runs of a scratchpad that a fill reads for a lane. -/
def fragRuns (base w pitch : Nat) : List (Nat × Nat) := (List.range (64 / w)).map fun k => (base + k * pitch, w)

/-- The oldest fill of a quadrant completes (12 R283, R290). -/
def completeFill (s : State) (q : Nat) : State :=
  match (quadOf s q).fills with
  | [] => s
  | f :: rest =>
    let s1 := updQuad s q fun x => { x with fills := rest }
    let block := blockIdOf s f.gid
    let poison (o n : Nat) : Bool := scratchPoison s block f.die o n
    let report (s : State) (va : Nat) (keys : List Nat) : State :=
      addReport s f.gid ⟨0x0B, 0, 0, BitVec.ofNat 64 va, f.pc, f.lanes, keys, false⟩
    let put (s : State) (off : Nat) (bs : List Byte) : State :=
      match windowOf s block q with
      | some w => loftWrite s q (w.off + off) bs
      | none => s
    match f.kind with
    | .frag d bases w pitch =>
      let runs (l : Nat) : List (Nat × Nat) := fragRuns (bases.getD l 0) w pitch
      match ((laneList f.act).flatMap runs).find? fun r => poison r.1 r.2 with
      | some r => completeProducer (report s1 r.1 (laneKeys d 16)) f.prod
      | none =>
        let word (l i : Nat) : Long :=
          BitVec.ofNat 64 (natOfBytes (((runs l).flatMap fun r => scratchRead s block f.die r.1 r.2).drop (4 * i) |>.take 4))
        let ws : List RegWrite := (List.range 16).map fun i => ⟨.lane, d + i, f.act, (List.range 32).map fun l => word l i⟩
        completeProducer { s1 with producers := tblUpd s1.producers f.prod fun p => { p with writes := ws } } f.prod
    | .copy src dst n =>
      if poison src n then wake (report s1 src []) else wake (put s1 dst (scratchRead s block f.die src n))
    | .tile t cols => wake (cols.foldl (fun s e => put s (t + 64 * e.1) e.2) s1)

/-! ### Multiply-accumulate (12 R270-R272, R277, R278) -/

/-- The `fmt` combinations of 12 R272. -/
def snapOk (k : QKind) (w : Word) : Bool :=
  let a := bits w.toNat 2 0
  let b := bits w.toNat 6 3
  let acc := bits w.toNat 8 7
  let half (x : Nat) : Bool := x = 0 || x = 3
  let byte (x : Nat) : Bool := x = 1 || x = 2
  match k with
  | .f => acc = 0 && ((half a && half b) || (byte a && byte b))
  | .w => acc = 0 && (half a || byte a) && 5 ≤ b && b ≤ 7
  | .i _ _ => a = 4 && b = 4 && acc = 1

/-- The tile offset of quarter j: of B, or of the lowest lane that acts in the quarter. -/
def tileOf (c : Ins) (b : BOpd) (rows : Lanes) : Nat :=
  match b with
  | .imm v => v.toNat
  | .reg x => if x.file = .lane then (vGet c.g x.reg.toNat (firstLane rows)).toNat else (sGet c.g x.reg.toNat).toNat

/-- The lanes of quarter j (12 R268). -/
def quarter (j : Nat) : Lanes := BitVec.ofNat 32 (0xFF * 2 ^ (8 * j))

/-- What MMAQ, MMAQW and MMAQI do (12 R277). -/
def mmaBody (k : QKind) (d : Dst) (a : Src) (b : BOpd) (sx sy : Option (BitVec 3)) (c : Ins) (s : State) : Act :=
  let scl (x : Option (BitVec 3)) : Option Word := x.map fun i => tblGet 0x3F800000 c.g.scl i.toNat
  let qs := (List.range 4).filterMap fun j =>
    let rows := c.act &&& quarter j
    if rows = 0 then none else some (rows, tileOf c b rows)
  let bad := qs.findSome? fun e =>
    if e.2 % 2048 != 0 then some (LaneErr.access 1 (BitVec.ofNat 64 e.2) 0)
    else if windowHere c s < e.2 + 2048 then some (.access 2 (BitVec.ofNat 64 e.2) 0)
    else none
  if !snapOk k c.p.fmt then .trap (c.trap 4 0) s
  else
    match arrayErr c s with
    | some e => .trap (c.trap 0x0C e) s
    | none =>
      match bad with
      | some e => .trap (onceTrap c e) s
      | none =>
        if 64 < (quadHere c s).queue.length + qs.length then .wait
        else
          let (s1, prod) := startProducer s c.gid (laneKeys d.reg.toNat 32)
          let ops : List QOp := qs.map fun e =>
            ⟨c.gid, prod, e.2, e.1, a.reg.toNat, d.reg.toNat, k, c.p.fmt, c.g.nbv, scl sx, scl sy, c.p.pc, c.p.lanes, s.clock⟩
          .done (updQuad s1 c.g.quad fun x => { x with queue := x.queue ++ ops })

def execMmaq (g : Guard) (d : Dst) (a : Src) (b : BOpd) (sx sy : Option (BitVec 3)) (s : State) :
    Host.Outcome State Fault Refusal :=
  issue (.mmaq g d a b sx sy) (mmaBody .f d a b sx sy) s

def execMmaqw (g : Guard) (d : Dst) (a : Src) (b : BOpd) (sx sy : Option (BitVec 3)) (s : State) :
    Host.Outcome State Fault Refusal :=
  issue (.mmaqw g d a b sx sy) (mmaBody .w d a b sx sy) s

def execMmaqi (g : Guard) (ua ub : Bool) (d : Dst) (a : Src) (b : BOpd) (s : State) :
    Host.Outcome State Fault Refusal :=
  issue (.mmaqi g ua ub d a b) (mmaBody (.i ua ub) d a b none none) s

/-- Elements of a quarter-op's A and B formats, and K. -/
def qopA (o : QOp) : Fmt := operandFmt (bits o.fmt.toNat 2 0)
def qopB (o : QOp) : Fmt := operandFmt (bits o.fmt.toNat 6 3)
def qopK (o : QOp) : Nat := if qopA o = .bf16 || qopA o = .f16 then 32 else 64

/-- The runs of a slot that a quarter-op reads (12 R271), by offset and length. -/
def slotReads (o : QOp) : List (Nat × Nat) :=
  match o.kind with
  | .f | .i _ _ => [(0, 64)]
  | .w =>
    let codes := if qopB o = .int3g then 3 * qopK o / 8 else qopK o / 2
    [(0, codes), (32, 4)] ++ (if qopK o = 64 && fmtWgs o.fmt = 32 then [(36, 4)] else []) ++
      (if qopB o = .uint4g then [(40, 4)] else [])

/-- A bit field of a number. -/
def bitsFrom (x i n : Nat) : Nat := (x >>> i) % 2 ^ n

/-- A weight expanded (03 R66, R67, 12 R271): element k of a slot, of weight group j. -/
def weightOf (t : Fmt) (slot k j : Nat) : Val :=
  match t with
  | .int3g => vInt (intOf 3 true (bitsFrom slot (3 * k) 3))
  | .uint4g => vInt ((bitsFrom slot (4 * k) 4 : Int) - bitsFrom slot (8 * 40 + 4 * j) 4)
  | _ => vInt (intOf 4 true (bitsFrom slot (4 * k) 4))

/-- The result of one lane and column: `frag` and `slot` are 64 bytes as numbers (12 R277, R278, 03 R81-R83). -/
def dotOf (o : QOp) (frag slot acc : Nat) : Nat :=
  let n := if o.nbv = 9 then 32 else 16
  let k := qopK o
  let w := if k = 32 then 16 else 8
  let ta := qopA o
  let tb := qopB o
  let aval (i : Nat) : Val := valAs ta (flushFor o.fmt o.nbv ta (bitsFrom frag (w * i) w))
  let sx : Val := (o.sx.map fun x => valOf fp32 x.toNat).getD vOne
  let sy : Val := (o.sy.map fun x => valOf fp32 x.toNat).getD vOne
  let runs (f : Nat → Val) (sc : Nat → Val) : List (List (Val × Val) × Val) :=
    (List.range (k / n)).map fun g =>
      ((List.range n).map fun i => (aval (g * n + i), f (g * n + i)), vMul (vMul sx sy) (sc g))
  match o.kind with
  | .f => dotRuns o.nbv acc (runs (fun i => valAs tb (flushFor o.fmt o.nbv tb (bitsFrom slot (w * i) w))) fun _ => vOne)
  | .w =>
    let entry (i : Nat) : Nat := i / fmtWgs o.fmt
    dotRuns o.nbv acc (runs (fun i => weightOf tb slot i (entry i)) fun g =>
      valAs (fmtSfmt o.fmt) (bitsFrom slot (8 * (32 + 4 * entry (g * n))) 32))
  | .i ua ub =>
    let p (i : Nat) : Int := intOf 8 (!ua) (bitsFrom frag (8 * i) 8) * intOf 8 (!ub) (bitsFrom slot (8 * i) 8)
    truncInt 32 ((List.range 64).foldl (fun x i => x + p i) (acc : Int))

/-- A quarter-op's results, or its report of a poisoned word. -/
def runQuarter (q : Nat) (s : State) (o : QOp) : State :=
  match tblFind s.groups o.gid with
  | none => s
  | some g =>
    let base := ((windowOf s g.block q).map (·.off)).getD 0 + o.tile
    let reads := (List.range 32).flatMap fun n => (slotReads o).map fun r => (base + 64 * n + r.1, r.2)
    match reads.find? fun r => loftPoisoned s q r.1 r.2 with
    | some r => failQuarter 0x0B 0 (r.1 - base + o.tile) s o
    | none =>
      let slot (n : Nat) : Nat := natOfBytes (loftRead s q (base + 64 * n) 64)
      let lane (g : Group) (l : Nat) : Group :=
        let frag := natOfBytes (fragBytes g o.a l)
        (List.range 32).foldl (fun g n =>
          vSet g (o.d + n) l (BitVec.ofNat 32 (dotOf o frag (slot n) (vGet g (o.d + n) l).toNat))) g
      updGroup s o.gid fun g => (laneList (o.rows &&& g.live)).foldl lane g

/-! ### Passes (12 R279, R287) -/

/-- Two quarter-ops of one key. -/
def sameKey (a b : QOp) : Bool :=
  let op (k : QKind) : Nat := match k with | .f => 0 | .w => 1 | .i _ _ => 2
  a.tile = b.tile && op a.kind = op b.kind && qopA a = qopA b && qopB a = qopB b

/-- The engines of a group's block take up new work. -/
def groupOpen (s : State) (gid : Nat) : Bool :=
  (tblFind s.groups gid).any fun g => engineOpen s (ctxOf s g) g.block

/-- The quarter-ops of the pass that can start: when enough share the oldest one's key, or when it has waited 4
clocks. The quarter-ops of different blocks name tiles of different windows: only the holding block's are queued. -/
def readyPass (s : State) (q : Nat) : Option (QOp × List QOp) :=
  let x := quadOf s q
  match x.queue with
  | [] => none
  | q0 :: _ =>
    let m := Nat.min (healthy x) 4
    let same := (x.queue.filter (sameKey q0)).take m
    if x.pass != [] || m = 0 || !groupOpen s q0.gid || (same.length < m && s.clock < q0.since + 4) then none
    else some (q0, same)

/-- The factorisation operation that the sequencer runs: the oldest, while its block's engines are open, or one that a
stop found running (13 R313). -/
def headFact (s : State) (q : Nat) : Option FactOp :=
  ((quadOf s q).facts.head?).filter fun o => o.started || groupOpen s o.gid

/-- The array takes the oldest waiting work (13 R296): a pass starts, unless a column has waited longer.
DEDUCED (unsafe), log entry 63. -/
def startPass (s : State) (q : Nat) : State :=
  match readyPass s q with
  | none => s
  | some (q0, same) =>
    if (headFact s q).any fun o => o.since < q0.since then s
    else wake (updQuad s q fun x => { x with pass := same, queue := x.queue.filter fun o => !same.contains o })

/-- The array is free for the factorisation at the head: no pass runs, and none that can start has waited as long.
DEDUCED (unsafe), log entry 63. -/
def arrayFree (s : State) (q : Nat) (o : FactOp) : Bool :=
  (quadOf s q).pass = [] && (readyPass s q).all fun p => o.since < p.1.since

/-- A pass ends: its quarter-ops complete. DEDUCED (unsafe), log entry 63. -/
def finishPass (s : State) (q : Nat) : State :=
  let ops := (quadOf s q).pass
  if ops = [] then s
  else
    let n := ops.length
    let s1 := count (if 2 ≤ n then count s 19 q n else s) 18 q 1
    let s2 := ops.foldl (runQuarter q) (updQuad s1 q fun x => { x with pass := [], passes := x.passes + 1, idle := s.clock })
    wake (runTests (ops.foldl (fun s o => finishQuarters s q o.prod) s2) q)

/-- A pass or a column ends with a failed residue check (12 R287, 13 R296): the row-block is tested at once and the
step is run again, unless no row-block is left. Quarter-ops of a pass that no row-block is left for wait again, before
all others. DEDUCED (unsafe), log entry 63. -/
def residueFailed (s : State) (q rb : Nat) : State :=
  let s1 := selfTest (count (updQuad s q fun x => { x with stfail := (x.stfail + 1) % 256 }) 20 q 1) q rb
  updQuad s1 q fun x =>
    let m := healthy x
    { x with pass := x.pass.take m, queue := x.pass.drop m ++ x.queue }

/-- An ECC result for the loft word at an offset (12 R267). -/
def loftEcc (s : State) (q off : Nat) (e : EccResult) : State :=
  match e with
  | .clean => s
  | .corrected => count (updQuad s q fun x => { x with lecc := (x.lecc + 1) % 256 }) 24 q 1
  | .uncorrectable =>
    let s1 := count (updQuad s q fun x => { x with lpois := (x.lpois + 1) % 256 }) 25 q 1
    loftSpoil s1 q (off % 2 ^ 20)

/-! ### Ordering and status (12 R284, R285, R288, R289) -/

/-- DEDUCED (unsafe), log entry 65. -/
def execMfence (g : Guard) (s : State) : Host.Outcome State Fault Refusal :=
  issue (.mfence g) (fun c s =>
    if fillsOf (quadHere c s) c.gid c.p.lanes || s.producers.any fun e => e.2.gid = c.gid then .wait else .done s) s

/-- MWAIT. The array reads and writes no memory that a cache holds, so its completions have nothing to show an
acquire. -/
def execMwait (g : Guard) (sc : Scope) (s : State) : Host.Outcome State Fault Refusal :=
  issue (.mwait g sc) (fun c s =>
    if matrixOf (quadHere c s) c.gid c.p.lanes then .wait
    else
      let s1 := acquireOf s c.gid sc []
      match (if c.g.handler then none else c.g.reports.find? fun r => !r.fact && r.lanes &&& c.p.lanes != 0) with
      | some r => .trap (reportTrap c.p c.act r) (dropReport s1 c.gid r)
      | none => .done s1) s

/-- The word of MSTAT (12 R289). -/
def mstatWord (x : Quad) (block : Nat) : Nat :=
  x.stfail * 2 ^ 40 + x.lpois * 2 ^ 32 + x.lecc * 2 ^ 24 + Nat.min 64 x.queue.length * 2 ^ 16 +
    one (x.holder.any fun h => h != block) * 2 ^ 9 + one (x.holder = some block) * 2 ^ 8 + healthy x * 2 ^ 4 + x.fenced.toNat

def execMstat (g : Guard) (d : Dst) (s : State) : Host.Outcome State Fault Refusal :=
  issue (.mstat g d) (fun c s => result c s d 1 fun _ => BitVec.ofNat 64 (mstatWord (quadHere c s) c.g.block)) s

def execMselft (g : Guard) (d : Dst) (s : State) : Host.Outcome State Fault Refusal :=
  issue (.mselft g d) (fun c s =>
    if !holdsArray (quadHere c s) c.g.block then .trap (c.trap 0x0C 1) s
    else
      let (s1, prod) := startProducer s c.gid [regKey .scalar d.reg.toNat]
      let t : SelfTest := ⟨c.gid, prod, d.reg.toNat, c.p.lanes⟩
      .done (runTests (updQuad s1 c.g.quad fun x => { x with tests := x.tests ++ [t] }) c.g.quad)) s

/-- An injected self-test may run: between passes, when 256 have ended since the last one, or after 4,096 clocks without
work, of passes or of columns. DEDUCED (unsafe), log entry 63. -/
def testDue (s : State) (q : Nat) : Bool :=
  let x := quadOf s q
  x.pass = [] && (256 ≤ x.passes || (x.queue = [] && x.facts = [] && x.idle + 4096 ≤ s.clock))

/-- A row-block's injected self-test (12 R287): whether its first test and the one after it fail; the row-block goes on
as the last one showed it. DEDUCED (unsafe), log entry 63. -/
def injectTest (s : State) (q : Nat) (rb : Fin 4) (fail1 fail2 : Bool) : State :=
  let x := quadOf s q
  if x.fenced.getLsbD rb.val || !testDue s q then s
  else
    let b : BitVec 4 := BitVec.ofNat 4 (2 ^ rb.val)
    let s1 := count (updQuad s q fun x => { x with
      faulty := if fail2 then x.faulty ||| b else x.faulty &&& ~~~b, passes := 0, idle := s.clock }) 21 q 1
    if !fail1 then s1
    else if fail2 then fenceRow (countFailed s1 q 2) q rb.val
    else countFailed s1 q 1

end Sys2Proof.Machine
end

