-- ==== Sys2Proof/Machine/Factor.lean ====
section
/-! DEFINITION. Opcodes 0xBC-0xC4: the tile factorisations (13), and the steps of a quadrant's factorisation sequencer. -/

namespace Sys2Proof.Machine

/-! ### Tiles (13 R294, R295) -/

/-- A tile as 4096 FP32 patterns by row, with the 64 entries of its trailer after them. -/
abbrev Tile := Array Nat

def cell (i j : Nat) : Nat := 64 * i + j
def tau (k : Nat) : Nat := 4096 + k

/-- An entry. -/
def tAt (t : Tile) (k : Nat) : Nat := t.getD k 0

/-- One step's result: exact, then rounded once (13 R295). -/
def rnd (v : Val) : Nat := roundTo fp32 .rne v
def fval (x : Nat) : Val := valOf fp32 x

/-- round(c - a * b), round(c + a * b), round(a / b), round(a - b). -/
def fnms (c a b : Nat) : Nat := rnd (vAdd false (fval c) (vNeg (vMul (fval a) (fval b))))
def fmac (c a b : Nat) : Nat := rnd (vAdd false (fval c) (vMul (fval a) (fval b)))
def fquo (a b : Nat) : Nat := rnd (vDiv (fval a) (fval b))
def fdif (a b : Nat) : Nat := rnd (vAdd false (fval a) (vNeg (fval b)))
def froot (a : Nat) : Nat := rnd (vSqrt (fval a))

def fmag (x : Nat) : Nat := x % 2 ^ 31
def isNanBits (x : Nat) : Bool := 0x7F800000 < fmag x
def nonFinite (x : Nat) : Bool := 0x7F800000 ≤ fmag x

/-- The largest magnitude of a set: NaN when a member is NaN. -/
def maxMag (l : List Nat) : Nat := if l.any isNanBits then 0x7FC00000 else l.foldl (fun m x => Nat.max m (fmag x)) 0

/-- The sum of a list in order. -/
def sumOf (l : List Nat) : Nat := l.foldl (fun x y => rnd (vAdd false (fval x) (fval y))) 0

/-- lo, lo + 1, .., hi - 1. -/
def upTo (lo hi : Nat) : List Nat := (List.range (hi - lo)).map (lo + ·)

/-- Reads a tile with its trailer from the loft; entries outside the window are not used. -/
def readTile (s : State) (q off : Nat) : Tile :=
  ((List.range 4160).map fun k => natOfBytes (loftRead s q (off + 4 * k) 4)).toArray

/-- Writes the entries that a step has changed, and those of `always`, which it writes without having read them: an
entry that it reads is not poisoned, so that to write the value it has changes nothing (12 R267, 13 R296). -/
def writeTile (s : State) (q off : Nat) (always : List Nat) (old new : Tile) : State :=
  (List.range 4160).foldl (fun s k =>
    if tAt new k = tAt old k && !always.contains k then s else loftWrite s q (off + 4 * k) (bytesOfNat 4 (tAt new k))) s

/-! ### Columns (13 R303-R305, R308) -/

/-- Entries of the group's permutation (13 R301). -/
def permGet (p : List Long) (i : Nat) : Nat := bits (p.getD (i / 8) 0).toNat (8 * (i % 8) + 7) (8 * (i % 8))

def permSet (p : List Long) (i x : Nat) : List Long :=
  (List.range 8).map fun k =>
    let w := p.getD k 0
    if k = i / 8 then
      BitVec.ofNat 64 (w.toNat - permGet p i * 2 ^ (8 * (i % 8)) + x % 256 * 2 ^ (8 * (i % 8)))
    else w

/-- The identity in entries 0 to n - 1. -/
def permInit (p : List Long) (n : Nat) : List Long := (List.range n).foldl (fun p i => permSet p i i) p

/-- A column's outcome: a fault with its cause, or the tile, the permutation and the zero pivots passed. -/
inductive Column where
  | bad (cause : Nat)
  | ok (t : Tile) (perm : List Long) (sing : Nat)

/-- The pivot row of column k: the lowest of the largest magnitudes. -/
def pivotRow (t : Tile) (n k : Nat) : Nat :=
  (upTo (k + 1) n).foldl (fun p i => if fmag (tAt t (cell p k)) < fmag (tAt t (cell i k)) then i else p) k

/-- Swaps two rows over columns 0 to n - 1. -/
def swapRows (t : Tile) (n k p : Nat) : Tile :=
  (List.range n).foldl (fun t j =>
    (t.setIfInBounds (cell k j) (tAt t (cell p j))).setIfInBounds (cell p j) (tAt t (cell k j))) t

/-- TLU's column k (13 R303). -/
def luColumn (t : Tile) (n k : Nat) (perm : List Long) (cont : Bool) (sing : Nat) : Column :=
  if (upTo k n).any fun i => nonFinite (tAt t (cell i k)) then .bad 2
  else
    let p := pivotRow t n k
    if fmag (tAt t (cell p k)) = 0 then
      if cont then .ok ((upTo k n).foldl (fun t i => t.setIfInBounds (cell i k) 0) t) perm (sing + 1) else .bad 1
    else
      let t1 := swapRows t n k p
      let perm1 := permSet (permSet perm k (permGet perm p)) p (permGet perm k)
      let t2 := (upTo (k + 1) n).foldl (fun t i => t.setIfInBounds (cell i k) (fquo (tAt t (cell i k)) (tAt t1 (cell k k)))) t1
      let t3 := (upTo (k + 1) n).foldl (fun t i =>
        (upTo (k + 1) n).foldl (fun t j =>
          t.setIfInBounds (cell i j) (fnms (tAt t (cell i j)) (tAt t2 (cell i k)) (tAt t2 (cell k j)))) t) t2
      .ok t3 perm1 sing

/-- TCHOL's column k (13 R304). -/
def cholColumn (t : Tile) (n k : Nat) (perm : List Long) (sing : Nat) : Column :=
  let d := tAt t (cell k k)
  if d = 0 || 0x7F800000 ≤ d then .bad 3
  else
    let r := froot d
    let t1 := (upTo (k + 1) n).foldl (fun t i => t.setIfInBounds (cell i k) (fquo (tAt t (cell i k)) r))
      (t.setIfInBounds (cell k k) r)
    .ok ((upTo (k + 1) n).foldl (fun t j =>
      (upTo j n).foldl (fun t i =>
        t.setIfInBounds (cell i j) (fnms (tAt t (cell i j)) (tAt t1 (cell i k)) (tAt t1 (cell j k)))) t) t1) perm sing

/-- The column step of 13 R308: column j of `b` by the reflector of column k in `v`. -/
def reflect (v b : Tile) (n k j : Nat) : Tile :=
  let tk := tAt v (tau k)
  if fmag tk = 0 then b
  else
    let w := (upTo (k + 1) n).foldl (fun w i => fmac w (tAt v (cell i k)) (tAt b (cell i j))) (tAt b (cell k j))
    let tv := rnd (vMul (fval tk) (fval w))
    (upTo (k + 1) n).foldl (fun b i => b.setIfInBounds (cell i j) (fnms (tAt b (cell i j)) (tAt v (cell i k)) tv))
      (b.setIfInBounds (cell k j) (fdif (tAt b (cell k j)) tv))

/-- TQR's column k (13 R305). -/
def qrColumn (t : Tile) (n k : Nat) (perm : List Long) (sing : Nat) : Column :=
  if (upTo k n).any fun i => nonFinite (tAt t (cell i k)) then .bad 2
  else
    let s := (upTo k n).foldl (fun x i => fmac x (tAt t (cell i k)) (tAt t (cell i k))) 0
    if (upTo (k + 1) n).all fun i => fmag (tAt t (cell i k)) = 0 then .ok (t.setIfInBounds (tau k) 0) perm sing
    else
      let alpha := tAt t (cell k k)
      let root := froot s
      let beta := if !vLt (fval alpha) vZero then (root + 2 ^ 31) % 2 ^ 32 else root
      let sc := fdif alpha beta
      let t1 := (upTo (k + 1) n).foldl (fun t i => t.setIfInBounds (cell i k) (fquo (tAt t (cell i k)) sc))
        (t.setIfInBounds (tau k) (fquo (fdif beta alpha) beta))
      let t2 := t1.setIfInBounds (cell k k) beta
      .ok ((upTo (k + 1) n).foldl (fun b j => reflect t2 b n k j) t2) perm sing

/-! ### The sequencer (13 R296, R300-R303, R310-R315) -/

/-- Where an operation's tile lies in its quadrant's slice. -/
def tileBase (s : State) (q : Nat) (o : FactOp) : Nat :=
  ((windowOf s (blockIdOf s o.gid) q).map (·.off)).getD 0

/-- A tile as an operation reads it: units that it has read before keep the value it read (13 R316).
DEDUCED (unsafe), log entry 64. -/
def tileRead (s : State) (q : Nat) (o : FactOp) (at_ : Nat) : Tile :=
  o.early.foldl (fun t e => if at_ ≤ e.1 && e.1 < at_ + 16640 then t.setIfInBounds ((e.1 - at_) / 4) e.2 else t)
    (readTile s q (tileBase s q o + at_))

/-- The running operation reads units of its tiles, named by their window offsets, before the rest of its step: what
another agent writes to them after that, without order, it does not see (13 R316). DEDUCED (unsafe), log entry 64. -/
def readEarly (s : State) (q : Nat) (l : List Nat) : State :=
  match headFact s q with
  | none => s
  | some o =>
    if !arrayFree s q o then s
    else
      let take (t : Tbl Nat) (a : Nat) : Tbl Nat :=
        let a := a % 2 ^ 20 / 4 * 4
        if (tblFind t a).isSome then t else tblPut t a (natOfBytes (loftRead s q (tileBase s q o + a) 4))
      updQuad s q fun x => { x with
        facts := x.facts.map fun y => if y = o then { y with started := true, early := l.foldl take y.early } else y }

/-- The loft address of the first poisoned entry of a list. -/
def poisonedEntry (s : State) (q off : Nat) (ks : List Nat) : Option Nat :=
  (ks.find? fun k => loftPoisoned s q (off + 4 * k) 4).map (4 * ·)

/-- Entries of rows and columns. -/
def block2 (rows cols : List Nat) : List Nat := rows.flatMap fun i => cols.map fun j => cell i j
def lowerPart (k n : Nat) : List Nat := (upTo k n).flatMap fun i => (upTo k (i + 1)).map fun j => cell i j

/-- Entries that a start reads for maxA: all of those that the operation reads (13 R302). -/
def startReads (k : FactKind) (n : Nat) : List Nat :=
  match k with
  | .chol => lowerPart 0 n
  | _ => block2 (upTo 0 n) (upTo 0 n)

/-- Entries that column k reads: of a column that faults, that passes a zero pivot or whose reflection is the
identity, no more than the column. -/
def columnReads (kind : FactKind) (t : Tile) (n k : Nat) : List Nat :=
  let col := block2 (upTo k n) [k]
  match kind with
  | .chol => let d := tAt t (cell k k); if d = 0 || 0x7F800000 ≤ d then [cell k k] else lowerPart k n
  | .lu =>
    let p := pivotRow t n k
    if (upTo k n).any (fun i => nonFinite (tAt t (cell i k))) || fmag (tAt t (cell p k)) = 0 then col
    else block2 (upTo k n) (upTo k n) ++ (if p = k then [] else block2 [k, p] (upTo 0 k))
  | _ =>
    if (upTo k n).any (fun i => nonFinite (tAt t (cell i k))) || (upTo (k + 1) n).all fun i => fmag (tAt t (cell i k)) = 0 then col
    else block2 (upTo k n) (upTo k n)

/-- Entries of the triangular factor (13 R302). -/
def factorPart (k : FactKind) (n : Nat) : List Nat :=
  match k with
  | .chol => lowerPart 0 n
  | _ => (upTo 0 n).flatMap fun i => (upTo i n).map fun j => cell i j

def isLu : FactKind → Bool
  | .lu => true
  | _ => false

def isQr : FactKind → Bool
  | .qr => true
  | _ => false

/-- A start at column 0: maxA in `grow`, and TLU's identity (13 R301, R302). -/
def startFact (s : State) (q : Nat) (o : FactOp) : State :=
  let t := tileRead s q o o.ta
  let maxA := maxMag ((startReads o.kind o.n).map (tAt t))
  updGroup s o.gid fun g =>
    { g with grow := BitVec.ofNat 32 maxA, perm := if isLu o.kind then permInit g.perm o.n else g.perm }

/-- `tstate` after a commit: NEXT and SING (13 R300). -/
def tstateCommit (t : Word) (next sing : Nat) : Word :=
  BitVec.ofNat 32 (sing + bits t.toNat 12 7 * 2 ^ 7 + next * 2 ^ 13 + bits t.toNat 31 20 * 2 ^ 20)

/-- `tstate` with ST replaced. DEDUCED (unsafe), log entry 64. -/
def tstateSt (t : Word) (st : Nat) : Word := BitVec.ofNat 32 (t.toNat % 2 ^ 30 + st * 2 ^ 30)

/-- A factorisation completes: ST and `grow` (13 R300, R302). -/
def completeFact (s : State) (q : Nat) (o : FactOp) : State :=
  let t := tileRead s q o o.ta
  let maxF := maxMag ((factorPart o.kind o.n).map (tAt t))
  let s1 := updGroup s o.gid fun g =>
    let a := g.grow.toNat
    { g with
      tstate := tstateSt g.tstate 0
      grow := BitVec.ofNat 32 (if fmag a = 0 then 0 else fquo maxF a) }
  endFact s1 q o

/-- The next column of a factorisation: its commit, its fault, or its interruption by a poisoned word. The commit of
the last one completes the factorisation, and reads the whole factor (13 R302). -/
def stepColumn (s : State) (q : Nat) (o : FactOp) : State :=
  match tblFind s.groups o.gid with
  | none => s
  | some g0 =>
    let off := tileBase s q o
    let k := tstateNext g0.tstate
    if o.n ≤ k then s
    else
      let first := if k = 0 then startReads o.kind o.n else []
      let last := if k + 1 = o.n then factorPart o.kind o.n else []
      let t := tileRead s q o o.ta
      match poisonedEntry s q (off + o.ta) (first ++ columnReads o.kind t o.n k ++ last) with
      | some va => interruptFact 0x0B 0 (o.ta + va) q s o
      | none =>
        let s1 := if k = 0 then startFact s q o else s
        let g := (tblFind s1.groups o.gid).getD g0
        let cont := bit g.tstate.toNat 27
        let sing := bits g.tstate.toNat 6 0
        let c :=
          match o.kind with
          | .lu => luColumn t o.n k g.perm cont sing
          | .chol => cholColumn t o.n k g.perm sing
          | _ => qrColumn t o.n k g.perm sing
        match c with
        | .bad cause =>
          let s2 := updGroup s1 o.gid fun g =>
            { g with tstate := tstateEnd g.tstate 3 (one (cause = 2)) k }
          endFact (addReport s2 o.gid ⟨0x0D, cause, k, 0, o.pc, o.lanes, [], true⟩) q o
        | .ok t1 perm sing1 =>
          let s2 := writeTile s1 q (off + o.ta) (if isQr o.kind then [tau k] else []) t t1
          let s3 := updGroup s2 o.gid fun g => { g with perm := perm, tstate := tstateCommit g.tstate (k + 1) sing1 }
          let mark (x : Quad) : Quad := { x with
            idle := s.clock
            facts := x.facts.map fun y => if y = o then { y with started := true, since := s.clock, early := [] } else y }
          if k + 1 = o.n then completeFact s3 q o else wake (updQuad s3 q mark)

/-! ### Solves, permutations, reflections and norms (13 R306-R309) -/

/-- TTRS on column c of `b` (13 R306). -/
def solveColumn (a : Tile) (n : Nat) (up unit tr : Bool) (b : Tile) (c : Nat) : Tile :=
  let lower := up == tr
  let u (i j : Nat) : Nat := if tr then tAt a (cell j i) else tAt a (cell i j)
  let order := if lower then upTo 0 n else (upTo 0 n).reverse
  order.foldl (fun b i =>
    let js := if lower then upTo 0 i else upTo (i + 1) n
    let x := js.foldl (fun x j => fnms x (u i j) (tAt b (cell j c))) (tAt b (cell i c))
    b.setIfInBounds (cell i c) (if unit then x else fquo x (u i i))) b

/-- TPERM (13 R307). -/
def permRows (t : Tile) (n r : Nat) (inv : Bool) (p : List Long) : Tile :=
  (List.range n).foldl (fun b i =>
    (List.range r).foldl (fun b j =>
      if inv then b.setIfInBounds (cell (permGet p i) j) (tAt t (cell i j))
      else b.setIfInBounds (cell i j) (tAt t (cell (permGet p i) j))) b) t

/-- TQAPP (13 R308). -/
def applyQ (v b : Tile) (n r : Nat) (tr : Bool) : Tile :=
  let ks := if tr then upTo 0 n else (upTo 0 n).reverse
  ks.foldl (fun b k => (upTo 0 r).foldl (fun b j => reflect v b n k j) b) b

/-- TNORM (13 R309). -/
def normOf (t : Tile) (k : NormKind) (n r : Nat) : Nat :=
  let mag (i j : Nat) : Nat := fmag (tAt t (cell i j))
  match k with
  | .max => maxMag ((block2 (upTo 0 n) (upTo 0 r)).map (tAt t))
  | .one => maxMag ((upTo 0 r).map fun j => sumOf ((upTo 0 n).map fun i => mag i j))
  | .inf => maxMag ((upTo 0 n).map fun i => sumOf ((upTo 0 r).map fun j => mag i j))
  | .frob => froot ((block2 (upTo 0 n) (upTo 0 r)).foldl (fun x k => fmac x (tAt t k) (tAt t k)) 0)

/-- Entries of an operation's first and second tiles that it reads; `a` is the first tile. -/
def opReads (o : FactOp) (a : Tile) : List Nat × List Nat :=
  let rhs := block2 (upTo 0 o.n) (upTo 0 o.r)
  match o.kind with
  | .trs up unit _ =>
    ((upTo 0 o.n).flatMap fun i =>
      ((if up then upTo i o.n else upTo 0 (i + 1)).filter fun j => !unit || i != j).map fun j => cell i j, rhs)
  | .qapp _ =>
    let ks := (upTo 0 o.n).filter fun k => fmag (tAt a (tau k)) != 0
    ((upTo 0 o.n).map tau ++ ks.flatMap fun k => (upTo (k + 1) o.n).map fun i => cell i k,
      match ks with
      | [] => []
      | k :: _ => block2 (upTo k o.n) (upTo 0 o.r))
  | .perm .. | .norm .. => (rhs, [])
  | .lu | .chol | .qr => ([], [])

/-- An operation other than a factorisation runs to its end. -/
def runFact (s : State) (q : Nat) (o : FactOp) : State :=
  let off := tileBase s q o
  let (ra, rb) := opReads o (tileRead s q o o.ta)
  match ((poisonedEntry s q (off + o.ta) ra).map (o.ta + ·)).or ((poisonedEntry s q (off + o.tb) rb).map (o.tb + ·)) with
  | some va => interruptFact 0x0B 0 va q s o
  | none =>
    let a := tileRead s q o o.ta
    let b := tileRead s q o o.tb
    match o.kind with
    | .trs up unit tr =>
      endFact (writeTile s q (off + o.tb) [] b ((upTo 0 o.r).foldl (solveColumn a o.n up unit tr) b)) q o
    | .perm inv p => endFact (writeTile s q (off + o.ta) [] a (permRows a o.n o.r inv p)) q o
    | .qapp tr => endFact (writeTile s q (off + o.tb) [] b (applyQ a b o.n o.r tr)) q o
    | .norm k dst =>
      let w : RegWrite := ⟨.scalar, dst, allLanes, [BitVec.ofNat 64 (normOf a k o.n o.r)]⟩
      let s1 : State :=
        match o.prod with
        | some p => { s with producers := tblUpd s.producers p fun x => { x with writes := [w] } }
        | none => s
      endFact s1 q o
    | .lu | .chol | .qr => s

/-- The row-block whose residue check a column's step fails: one that is fenced takes no part (12 R287).
DEDUCED (unsafe), log entry 63. -/
def failedRow (s : State) (q : Nat) (bad : Option (Fin 4)) : Option Nat :=
  (bad.filter fun rb => !(quadOf s q).fenced.getLsbD rb.val).map (·.val)

/-- The running factorisation's next column (13 R296), in its turn; `bad` is a row-block whose residue check fails, so
that the column is run again. DEDUCED (unsafe), log entry 64. -/
def commitColumn (s : State) (q : Nat) (bad : Option (Fin 4)) : State :=
  match headFact s q with
  | none => s
  | some o =>
    if !isFactor o.kind || !arrayFree s q o then s
    else
      match failedRow s q bad with
      | some rb => wake (runTests (residueFailed s q rb) q)
      | none => stepColumn s q o

/-- The running operation ends: a factorisation whose columns are all committed, or any other operation, whole. -/
def finishFact (s : State) (q : Nat) : State :=
  match headFact s q with
  | none => s
  | some o =>
    if isFactor o.kind then
      if ((tblFind s.groups o.gid).any fun (g : Group) => decide (o.n ≤ tstateNext g.tstate)) then completeFact s q o else s
    else if arrayFree s q o then runFact s q o
    else s

/-- At a stop, a factorisation that runs commits the column in progress and is interrupted there, unless that was its
last one (13 R313). -/
def interruptAtCommit (s : State) (q : Nat) (bad : Option (Fin 4)) (o : FactOp) : State :=
  if isFactor o.kind && o.started then
    match failedRow s q bad with
    | some rb => wake (runTests (residueFailed s q rb) q)
    | none =>
      let s1 := stepColumn s q o
      match (quadOf s1 q).facts.find? fun y => y.gid = o.gid && isFactor y.kind with
      | some y => endFact (updGroup s1 o.gid fun g => { g with tstate := tstateSt g.tstate 2 }) q y
      | none => s1
  else s

/-! ### Issue (13 R297, R299, R300) -/

/-- Operations of the group in flight that write `tstate`. -/
def factorFlying (c : Ins) (s : State) : Bool := (quadHere c s).facts.any fun o => o.gid = c.gid && isFactor o.kind

/-- The tile checks of 13 R299: each tile with the bytes of its trailer. -/
def tileErr (c : Ins) (s : State) (ts : List (Long × Nat)) : Option LaneErr :=
  let acc := 1
  match ts.find? fun t => t.1.toNat % 16384 != 0 || 2 ^ 20 ≤ t.1.toNat with
  | some t => some (.access 1 t.1 acc)
  | none => (ts.find? fun t => windowHere c s < t.1.toNat + 16384 + t.2).map fun t => .access 2 t.1 acc

/-- Queues an operation. -/
def pushFact (c : Ins) (s : State) (o : FactOp) : State :=
  updQuad s c.g.quad fun x => { x with facts := x.facts ++ [{ o with gid := c.gid, pc := c.p.pc, lanes := c.p.lanes, since := s.clock }] }

def newFact (k : FactKind) (ta tb n r : Nat) (prod : Option Nat) : FactOp :=
  ⟨0, prod, k, ta, tb, n, r, false, 0, 0, 0, []⟩

/-- What every operation of the chapter does at its issue, before its own effect. -/
def factIssue (c : Ins) (s : State) (alone : Bool) (ts : List (Long × Nat)) (own : Option Nat) (k : State → Act) : Act :=
  if (alone && factorFlying c s) || 16 ≤ (quadHere c s).facts.length then .wait
  else
    match arrayErr c s with
    | some e => .trap (c.trap 0x0C e) s
    | none =>
      match tileErr c s ts with
      | some e => .trap (onceTrap c e) s
      | none =>
        match own with
        | some cause => .trap (c.trap 0x0D cause) s
        | none => k s

/-- `tstate` at the issue of a factorisation: running, with OP, CONT, TILE and NM1 (13 R300). -/
def tstateStart (op : Nat) (cont : Bool) (ta n : Nat) : Word :=
  BitVec.ofNat 32 ((n - 1) * 2 ^ 7 + ta / 16384 * 2 ^ 20 + one cont * 2 ^ 27 + op * 2 ^ 28 + 2 ^ 30)

/-- TLU, TCHOL and TQR. -/
def factorBody (k : FactKind) (op : Nat) (cont : Bool) (a : Src) (n1 : BitVec 6) (c : Ins) (s : State) : Act :=
  let t := sGet c.g a.reg.toNat
  let n := n1.toNat + 1
  factIssue c s true [(t, if op = 3 then 256 else 0)] none fun s =>
    .done (pushFact c (updGroup s c.gid fun g => { g with tstate := tstateStart op cont t.toNat n })
      (newFact k t.toNat 0 n 1 none))

def execTlu (g : Guard) (cont : Bool) (a : Src) (n1 : BitVec 6) (s : State) : Host.Outcome State Fault Refusal :=
  issue (.tlu g cont a n1) (factorBody .lu 1 cont a n1) s

def execTchol (g : Guard) (a : Src) (n1 : BitVec 6) (s : State) : Host.Outcome State Fault Refusal :=
  issue (.tchol g a n1) (factorBody .chol 2 false a n1) s

def execTqr (g : Guard) (a : Src) (n1 : BitVec 6) (s : State) : Host.Outcome State Fault Refusal :=
  issue (.tqr g a n1) (factorBody .qr 3 false a n1) s

/-- Two tiles overlap, the first with its trailer. -/
def tilesOverlap (t1 : Long) (trailer : Nat) (t2 : Long) : Bool :=
  t1.toNat < t2.toNat + 16384 && t2.toNat < t1.toNat + 16384 + trailer

def execTtrs (g : Guard) (up unit tr : Bool) (a b : Src) (n1 r1 : BitVec 6) (s : State) :
    Host.Outcome State Fault Refusal :=
  issue (.ttrs g up unit tr a b n1 r1) (fun c s =>
    let ta := sGet c.g a.reg.toNat
    let tb := sGet c.g b.reg.toNat
    factIssue c s false [(ta, 0), (tb, 0)] (if tilesOverlap ta 0 tb then some 6 else none) fun s =>
      .done (pushFact c s (newFact (.trs up unit tr) ta.toNat tb.toNat (n1.toNat + 1) (r1.toNat + 1) none))) s

/-- Entries 0 to n - 1 are a permutation of 0 to n - 1. -/
def permOk? (p : List Long) (n : Nat) : Bool :=
  (List.range n).all fun i => (List.range n).any fun k => permGet p k = i

def execTperm (g : Guard) (inv : Bool) (a : Src) (n1 r1 : BitVec 6) (s : State) : Host.Outcome State Fault Refusal :=
  issue (.tperm g inv a n1 r1) (fun c s =>
    let ta := sGet c.g a.reg.toNat
    let n := n1.toNat + 1
    factIssue c s true [(ta, 0)] (if permOk? c.g.perm n then none else some 5) fun s =>
      .done (pushFact c s (newFact (.perm inv c.g.perm) ta.toNat 0 n (r1.toNat + 1) none))) s

def execTqapp (g : Guard) (tr : Bool) (a b : Src) (n1 r1 : BitVec 6) (s : State) :
    Host.Outcome State Fault Refusal :=
  issue (.tqapp g tr a b n1 r1) (fun c s =>
    let ta := sGet c.g a.reg.toNat
    let tb := sGet c.g b.reg.toNat
    factIssue c s false [(ta, 256), (tb, 0)] (if tilesOverlap ta 256 tb then some 6 else none) fun s =>
      .done (pushFact c s (newFact (.qapp tr) ta.toNat tb.toNat (n1.toNat + 1) (r1.toNat + 1) none))) s

def execTnorm (g : Guard) (k : NormKind) (d : Dst) (a : Src) (n1 r1 : BitVec 6) (s : State) :
    Host.Outcome State Fault Refusal :=
  issue (.tnorm g k d a n1 r1) (fun c s =>
    let ta := sGet c.g a.reg.toNat
    factIssue c s false [(ta, 0)] none fun s =>
      let (s1, prod) := startProducer s c.gid [regKey .scalar d.reg.toNat]
      .done (pushFact c s1 (newFact (.norm k d.reg.toNat) ta.toNat 0 (n1.toNat + 1) (r1.toNat + 1) (some prod)))) s

/-- The operation that `tstate` records. -/
def recordedKind (t : Word) : FactKind :=
  match bits t.toNat 29 28 with
  | 1 => .lu
  | 2 => .chol
  | _ => .qr

/-- TRES (13 R314). The resumable state is checked after the reservation and before the tile that it names.
DEDUCED (unsafe), log entry 64. -/
def execTres (g : Guard) (cont : Bool) (s : State) : Host.Outcome State Fault Refusal :=
  issue (.tres g cont) (fun c s =>
    let t := c.g.tstate
    let st := bits t.toNat 31 30
    let op := bits t.toNat 29 28
    let next := tstateNext t
    let n := bits t.toNat 12 7 + 1
    let ta := bits t.toNat 25 20 * 16384
    factIssue c s true [] (if (st = 2 || st = 3) && op != 0 && next < n then none else some 4) fun s =>
      match tileErr c s [(BitVec.ofNat 64 ta, if op = 3 then 256 else 0)] with
      | some e => .trap (onceTrap c e) s
      | none =>
        let t1 := tstateSt t 1
        let t2 := if cont && op = 1 then t1 ||| 0x08000000 else t1
        .done (pushFact c (updGroup s c.gid fun g => { g with tstate := t2 })
          (newFact (recordedKind t) ta 0 n 1 none))) s

/-- TSTAT (13 R310). -/
def execTstat (g : Guard) (full : Option Scope) (d : Dst) (s : State) : Host.Outcome State Fault Refusal :=
  issue (.tstat g full d) (fun c s =>
    let now (s : State) : Long := (((tblFind s.groups c.gid).getD c.g).tstate).setWidth 64
    match full with
    | none => .done (produce s c.gid [regKey .scalar d.reg.toNat] (regWrites d 1 c.act fun _ => now s) [])
    | some sc =>
      if (quadHere c s).facts.any fun o => o.gid = c.gid && o.lanes &&& c.p.lanes != 0 then
        if c.p.await.isSome then .wait else awaiting s c d .array
      else
        let s1 := acquireOf s c.gid sc []
        match (if c.g.handler then none else c.g.reports.find? (·.fact)) with
        | some r =>
          .trap (reportTrap c.p c.act r)
            (updGroup (dropReport s1 c.gid r) c.gid fun g => setEmpty g [regKey .scalar d.reg.toNat] false)
        | none => answered s1 c d (now s1)) s

end Sys2Proof.Machine
end

