-- ==== Sys2Proof/Machine/Collective.lean ====
section
/-! DEFINITION. Opcodes 0xC8-0xCB: barrier objects, alias windows, fabric endpoints and trace rings (14 R318-R328, R335). -/

namespace Sys2Proof.Machine

/-! ### Barrier objects (14 R326-R328) -/

/-- Reads a barrier object at the L2 for a group, which sees its own earlier stores; faults are a load's (14 R328). -/
def boRead (c : Ins) (s : State) (va : Long) : Except LaneErr (State × List Byte) :=
  let w := whoOf s c.g
  let core := coreOfQuad c.g.quad
  let mine (e : StoreEntry) : Bool := e.core = core && e.ctx = w.ctx
  let s0 := if s.sq.any fun e => mine e && e.asid = asidOf w.ctx va && e.va = lineOf va.toNat then drain s mine else s
  match l2ReadBytes s0 w va 24 .load with
  | .error (.fault f) => .error (.fault { f with va := va })
  | .error (.special _ _) => .error (.access 3 va 0)
  | .ok (s1, bs, poison) => if poison then .error (.data va) else .ok (s1, bs)

/-- The checks of an object's address, then the meaning on its first 24 bytes. An access to a line that is held waits
(05 R132). -/
def boBody (c : Ins) (s : State) (m : MemOpd) (write : Bool) (k : State → Long → List Byte → Act) : Act :=
  let va := memAddr c.g c.p m (firstLane c.act)
  if va.toNat % 64 != 0 then .trap (onceTrap c (.access 1 va 0)) s
  else if heldRequest s (dieOf c) (asidOf (ctxOf s c.g) va) (lineOf va.toNat) write then .wait
  else
    match boRead c s va with
    | .error e => .trap (onceTrap c e) s
    | .ok (s1, bs) => k s1 va bs

/-- DEDUCED (unsafe), log entry 32. -/
def execBoarm (g : Guard) (reset : Bool) (at_ : MAttr) (d : Dst) (m : MemOpd) (s : State) :
    Host.Outcome State Fault Refusal :=
  issue (.boarm g reset at_ d m) (fun c s =>
    let s0 := if releases at_.ord then release s c.g at_.scope else s
    if releases at_.ord && releaseHeld s c.g at_.scope then .wait
    else
    boBody c s0 m true fun s va bs =>
      let o := barObj bs
      let o := if reset then { o with count := 0, failed := false, cause := 0 } else o
      let x := accessOf c s .vm .atomic at_
      let asid := asidOf x.w.ctx va
      match l2Write s x.w va (barObjBytes bs { o with target := (sGet c.g d.reg.toNat).toNat }) .load (wideRelease x) with
      | .ok s1 => .done (putRels s1 asid va.toNat 24 true (carryAt asid va.toNat 24 (storeRels s x)))
      | .error (.fault f) => .trap (onceTrap c (.fault { f with va := va })) s
      | .error (.special _ _) => .trap (onceTrap c (.access 3 va 0)) s) s

/-- BOWAIT and BOTEST acquire with what the object's updates have released (06 R152, R154). -/
def boAcquire (c : Ins) (s : State) (at_ : MAttr) (va : Long) : State :=
  takeUp s c.gid at_.scope false (wideScope s c.g at_.scope) (relsAt s (asidOf (ctxOf s c.g) va) va.toNat 24)

def execBowait (g : Guard) (at_ : MAttr) (d : Dst) (m : MemOpd) (s : State) : Host.Outcome State Fault Refusal :=
  issue (.bowait g at_ d m) (fun c s =>
    boBody c s m false fun s va bs =>
      let o := barObj bs
      if o.failed || boComplete o then result c (boAcquire c s at_ va) d 1 fun _ => boStatus o else .wait) s

def execBotest (g : Guard) (at_ : MAttr) (d : Dst) (m : MemOpd) (s : State) : Host.Outcome State Fault Refusal :=
  issue (.botest g at_ d m) (fun c s =>
    boBody c s m false fun s va bs =>
      let o := barObj bs
      let asid := asidOf (ctxOf s c.g) va
      result c (if o.failed || boComplete o then boAcquire c s at_ va else notePend s c.gid (relsAt s asid va.toNat 24)) d 1
        fun _ => boStatus o) s

/-! ### Windows (14 R318, R319, R324) -/

/-- The window that an address names: a 2 MiB leaf of alias memory that the context holds. -/
def windowAt (s : State) (w : Who) (va : Long) : Option (State × Nat) :=
  let good (r : Except TFault (State × Xlat)) : Option (State × Nat) :=
    match r with
    | .ok (s1, x) => if x.perm.mt = .aliasMem && x.level = 1 then some (s1, windowFrame x.ma) else none
    | .error _ => none
  (good (translate s w va .load)).or (good (translate s w va .store))

/-- The descriptor's fields that every member shares are valid (14 R319). -/
def windowDescOk (va : Long) (bs : List Byte) : Bool :=
  let kind := field bs 4 1
  let op := field bs 5 1
  let ity := field bs 6 1
  let oty := field bs 7 1
  let nmem := field bs 8 2
  let cnt := field bs 0x14 4
  va.toNat % 8 = 0 && kind < 4 &&
    (if kind = 1 then
      op < 6 && (ity = 0x11 || ity = 0x12 || ity = 5 || ity = 6) && !((ity = 0x11 || ity = 0x12) && 3 ≤ op) &&
        (oty = ity || (ity = 0x11 && oty = 0x12))
    else op = 0 && ity = 0 && oty = 0) &&
    1 ≤ nmem && nmem ≤ 16384 && field bs 0x0A 2 < nmem && field bs 0x0D 1 < 100 && field bs 0x0E 1 < 2 &&
    field bs 0x0F 1 = 0 && field bs 0x10 4 % 4 = 0 && field bs 0x10 4 ≤ 0x200000 &&
    (cnt = 0xFFFFFFFF || cnt % 8 = 0) && field bs 0x20 8 % 64 = 0 && field bs 0x30 16 = 0

/-- A member table's entries. -/
def memberTable (bs : List Byte) (n : Nat) : List Nat := (List.range n).map fun i => field bs (8 * i) 8

/-- A context's guarantee less what it has lent (18 R420). -/
def usableSlots (s : State) (ctx : Nat) : Nat :=
  ((tblFind s.ctxs ctx).map (·.relayG)).getD 0 - lentSlots s ctx

/-- The binding that a descriptor asks for. -/
def bindingOf (c : Ins) (ctx : Nat) (bs : List Byte) (tab : List Nat) (prog : Program) : Binding where
  ctx := ctx
  cid := field bs 0 4
  kind := field bs 4 1
  op := field bs 5 1
  ity := field bs 6 1
  oty := field bs 7 1
  nmem := field bs 8 2
  rank := field bs 0x0A 2
  prog := prog
  engine := field bs 0x0D 1
  recv := field bs 0x0E 1 = 1
  len := field bs 0x10 4
  cntoff := if field bs 0x14 4 = 0xFFFFFFFF then none else some (field bs 0x14 4)
  resva := BitVec.ofNat 64 (field bs 0x18 8)
  bova := BitVec.ofNat 64 (field bs 0x20 8)
  members := tab
  nbv := c.g.nbv
  handler := c.g.handler
  die := dieOf c
  grid := c.g.grid
  block := c.g.block
  epoch := 0
  emits := []
  order := []
  failed := false
  stages := []
  held := []

/-- Status 3: a member of the collective that is bound here differs, or has the rank. -/
def bindClash (s : State) (b : Binding) (prog : Nat) : Bool :=
  (members s b.cid).any fun e =>
    let x := e.2
    x.kind != b.kind || x.op != b.op || x.ity != b.ity || x.oty != b.oty || x.nmem != b.nmem || x.prog.num != prog ||
      x.engine != b.engine || x.len != b.len || x.nbv != b.nbv || x.rank = b.rank

/-- Status 4: what the context may use. -/
def bindRefused (s : State) (ctx engine : Nat) (prog : Option Program) : Bool :=
  !((tblFind s.ctxs ctx).any fun c => c.rights.getLsbD 1) ||
    (match prog with
      | none => true
      | some p => usableSlots s ctx < p.slotmin) ||
    (4 ≤ engine && (portHolder s (engine - 4) != ctx || !subPortThere s (engine - 4)))

/-- What a bind finds: a trap, or a status with the state. -/
inductive Bound where
  | det
  | status (x : Nat) (s : State)

/-- An unbound window that an address names. -/
def freeWindow (s : State) (w : Who) (va : Long) : Option (State × Nat) :=
  (windowAt s w va).filter fun x => (tblFind x.1.bindings x.2).isNone

/-- Reads a descriptor, which lies in normal memory, and the member table of one that is valid. -/
def bindRead (s : State) (w : Who) (dva : Long) : Except EngErr (State × List Byte × Option (List Byte)) :=
  match vmRead s w dva 64 .load with
  | .error (.host va _ _) => .error (.data va)
  | .error e => .error e
  | .ok (s1, bs) =>
    if !windowDescOk dva bs then .ok (s1, bs, none)
    else
      match vmRead s1 w (BitVec.ofNat 64 (field bs 0x28 8)) (8 * field bs 8 2) .load with
      | .error e => .error e
      | .ok (s2, tb) => .ok (s2, bs, some tb)

/-- Binds a window by what has been read. -/
def bindWindow (c : Ins) (s : State) (va : Long) (bs : List Byte) (tb : Option (List Byte)) : Bound :=
  let w := whoOf s c.g
  match freeWindow s w va, tb with
  | none, _ => .status 1 s
  | some (s1, _), none => .status 2 s1
  | some (s1, mfn), some tb =>
    let tab := memberTable tb (field bs 8 2)
    let num := field bs 0x0C 1
    let prog := s1.programs.find? fun p => p.num = num
    let b := bindingOf c w.ctx bs tab (prog.getD ⟨num, 0, false, []⟩)
    if tab.any fun e => 2 ^ 16 ≤ e then .status 2 s1
    else if isDet s1 c.g && (b.kind = 3 || b.prog.arrival) then .det
    else if bindClash s1 b num then .status 3 s1
    else if bindRefused s1 w.ctx b.engine prog then .status 4 s1
    else .status 0 { s1 with bindings := tblPut s1.bindings mfn b }

/-- The slot of a sent chunk of a window at its engine. -/
def stageSlot (s : State) (b : Binding) (g : Stage) (ecc : Bool) : Slot :=
  ⟨b.ctx, b.engine, b.cid, b.rank, b.rank, g.epoch, g.chunk, g.bytes.length, 96 + b.die, s.ownPkg.toNat, b.ctx, g.seq,
    if b.kind = 1 && b.ity = 0x11 then widen g.bytes else g.bytes, false, ecc⟩

/-- A sent chunk of a window reaches its engine: the stage's slot becomes the packet's (14 R321, R331). -/
def contribute (s : State) (mfn : Nat) (b : Binding) (g : Stage) (ecc : Bool) : State :=
  if !engineServes s b.engine then s
  else
  match engineArrive s (stageSlot s b g ecc) true with
  | (s1, .refused) => count s1 28 b.engine 1
  | (s1, _) =>
    wake (updBinding s1 mfn fun b => { b with stages := b.stages.map fun y =>
      if y.epoch = g.epoch && y.chunk = g.chunk then { y with taken := true } else y })

/-- The sent chunks of a window that no engine has taken, oldest first. -/
def sentStages (b : Binding) : List Stage := b.stages.filter fun g => g.sent && !g.taken

/-- Unbinds a window (14 R324): chunks already sent reach their engine; the rest are discarded. With the last member,
the collective's instances, packets and keys go. DEDUCED (unsafe), log entry 61. -/
def unbindWindow (s : State) (mfn : Nat) : State :=
  match tblFind s.bindings mfn with
  | none => s
  | some b =>
    let s1 := (sentStages b).foldl (fun s g => contribute s mfn b g false) s
    let s2 : State := { s1 with bindings := tblDel s1.bindings mfn }
    let s3 :=
      if members s2 b.cid != [] then s2
      else
        let s3 := (s2.instances.filter fun e => e.2.cid = b.cid).foldl (fun s e => endInstance s e.1) s2
        { s3 with
          slots := s3.slots.filter fun e => e.2.cid != b.cid
          keys := s3.keys.filter fun k => k.cid != b.cid }
    wake (pumpAll s3)

/-- The status of a CWIN. -/
def cwinStatus (c : Ins) (d : Dst) (x : Nat) (s : State) : Act := result c s d 1 fun _ => BitVec.ofNat 64 x

/-- A path that has begun its reads. -/
def reading (p : Path) : Bool :=
  match p.await with
  | some (.io _) => true
  | _ => false

def execCwinBind (g : Guard) (d : Dst) (a b : Src) (s : State) : Host.Outcome State Fault Refusal :=
  issue (.cwinBind g d a b) (fun c s =>
    let va := sGet c.g a.reg.toNat
    if drainHeld s (ownStore s c.g) then .wait
    else
      let s0 := drainGroup s c.g
      if !reading c.p && (freeWindow s0 (whoOf s0 c.g) va).isNone then cwinStatus c d 1 s0
      else
        splitRead c s0 [va, sGet c.g b.reg.toNat] (fun l s => bindRead s (whoOf s c.g) (l.getD 1 0))
          (fun _ s => cwinStatus c d 2 s) fun l r s =>
            match bindWindow c s (l.getD 0 0) r.1 r.2 with
            | .det => .trap (c.trap 0x10 0) s
            | .status x s1 => cwinStatus c d x s1) s

def execCwinUnbind (g : Guard) (d : Dst) (a : Src) (s : State) : Host.Outcome State Fault Refusal :=
  issue (.cwinUnbind g d a) (fun c s =>
    let s0 := drainGroup s c.g
    if drainHeld s (ownStore s c.g) then .wait
    else
    match windowAt s0 (whoOf s0 c.g) (sGet c.g a.reg.toNat) with
    | none => result c s0 d 1 fun _ => 1
    | some (s1, mfn) =>
      if (tblFind s1.bindings mfn).isSome then result c (unbindWindow s1 mfn) d 1 fun _ => 0
      else result c s1 d 1 fun _ => 1) s

/-! ### Endpoints and trace rings (14 R325, R335) -/

/-- An entry of the endpoint table as memory gives it: invalid, cleared, or an endpoint. -/
def endpointEntry (bs : List Byte) : Option (Option Endpoint) :=
  let x := natOfBytes bs
  if x / 2 ^ 64 != 0 || bits x 62 32 != 0 || bits x 15 14 != 0 then none
  else if bit x 63 then some (some ⟨BitVec.ofNat 12 x, BitVec.ofNat 16 (bits x 31 16), bits x 13 12⟩)
  else some none

/-- DEDUCED (unsafe), log entry 61. -/
def execCwinEp (g : Guard) (d : Dst) (a b : Src) (s : State) : Host.Outcome State Fault Refusal :=
  issue (.cwinEp g d a b) (fun c s =>
    let s0 := drainGroup s c.g
    let i := sGet c.g a.reg.toNat
    if drainHeld s (ownStore s c.g) then .wait
    else if !reading c.p && 4096 ≤ i.toNat then cwinStatus c d 5 s0
    else
      splitRead c s0 [i, sGet c.g b.reg.toNat] (fun l s => vmRead s (whoOf s c.g) (l.getD 1 0) 16 .load)
        (fun _ s => cwinStatus c d 5 s) fun l bs s =>
          let i := (l.getD 0 0).toNat
          match endpointEntry bs with
          | none => cwinStatus c d 5 s
          | some none => cwinStatus c d 0 (updCtx s (ctxOf s c.g) fun k => { k with endpoints := tblDel k.endpoints i })
          | some (some e) => cwinStatus c d 0 (updCtx s (ctxOf s c.g) fun k => { k with endpoints := tblPut k.endpoints i e })) s

def execCwinTrace (g : Guard) (d : Dst) (a b : Src) (s : State) : Host.Outcome State Fault Refusal :=
  issue (.cwinTrace g d a b) (fun c s =>
    let s0 := drainGroup s c.g
    if drainHeld s (ownStore s c.g) then .wait
    else
    let va := sGet c.g a.reg.toNat
    let n := (sGet c.g b.reg.toNat).toNat
    let ctx := ctxOf s c.g
    let put (s : State) (x : Nat) : Act := result c s d 1 fun _ => BitVec.ofNat 64 x
    if va = 0 then put (updCtx s0 ctx fun k => { k with trace := none }) 0
    else if va.toNat % 64 != 0 || !canonical va || n < 4 || 16 < n then put s0 2
    else put (updCtx s0 ctx fun k => { k with trace := some ⟨va, n, 1, 0⟩ }) 0) s

end Sys2Proof.Machine
end

