-- ==== Sys2Proof/Machine/RelayIns.lean ====
section
/-! DEFINITION. The sixteen relay instructions (14 R331, R334-R339, R346), as the instance whose turn it is executes
them. -/

namespace Sys2Proof.Machine

/-- How a relay instruction ends: the instance goes on at the next instruction or at another, waits for a change, takes
a relay fault, or has ended. -/
inductive RAct where
  | go (s : State)
  | jump (s : State) (pc : Nat)
  | wait
  | fault (s : State) (cause : Nat) (bad : Option Nat)
  | ended (s : State)

/-- One instruction of the instance whose turn it is (14 R331). -/
def relayStep (s : State) (body : Nat → Instance → State → RAct) : Host.Outcome State Fault Refusal :=
  match tblFind s.instances s.inst with
  | none => .next s
  | some i =>
    let block : State := updInstance s s.inst fun i => { i with blocked := true }
    if i.sending then .next block
    else if 65536 ≤ i.count then .next (wake (relayFault s s.inst 5 none))
    else
      match body s.inst i s with
      | .go t => .next (wake (updInstance t s.inst fun i => { i with pc := i.pc + 1, count := i.count + 1 }))
      | .jump t pc => .next (wake (updInstance t s.inst fun i => { i with pc := pc, count := i.count + 1 }))
      | .wait => .next block
      | .fault t cause bad => .next (wake (relayFault t s.inst cause bad))
      | .ended t => .next (wake t)

/-! ### Registers and handles -/

def kGet (i : Instance) (r : BitVec 4) : Word := tblGet 0 i.k r.toNat

def kSet (s : State) (k : Nat) (r : BitVec 4) (x : Word) : State :=
  updInstance s k fun i => { i with k := tblSet 0 i.k r.toNat x }

/-- The handle of a slot (14 R331). -/
def handle (n : Nat) : Word := BitVec.ofNat 32 (2 ^ 31 + n % 2 ^ 16)

/-- The slot that a handle names, if the instance holds it. -/
def slotOf (s : State) (i : Instance) (h : Word) : Option (Nat × Slot) :=
  let n := h.toNat % 2 ^ 16
  if h.getLsbD 31 && i.held.contains n then (tblFind s.slots n).map fun x => (n, x) else none

/-- The slot of a handle, or cause 0x02. -/
def withSlot (s : State) (i : Instance) (h : Word) (k : Nat → Slot → RAct) : RAct :=
  match slotOf s i h with
  | none => .fault s 2 none
  | some (n, x) => k n x

/-- A checked slot whose data the instance reads (14 R334, R341). -/
def withData (s : State) (i : Instance) (h : Word) (k : Nat → Slot → RAct) : RAct :=
  withSlot s i h fun n x => if !x.checked then .fault s 3 none else if x.ecc then .fault s 9 none else k n x

/-- The instance no longer holds a slot. -/
def consume (s : State) (k n : Nat) : State :=
  pumpAll (updInstance (freeSlot s n) k fun i => { i with held := i.held.filter fun m => m != n })

/-- A packet of the match set becomes the instance's. -/
def takePacket (s : State) (k : Nat) (kd : BitVec 4) (n : Nat) : State :=
  kSet (updInstance s k fun i =>
    { i with arrived := i.arrived.filter fun m => m != n, held := i.held ++ [n] }) k kd (handle n)

/-- The oldest packet of the match set that holds. -/
def oldestPacket (s : State) (i : Instance) (p : Slot → Bool) : Option Nat :=
  i.arrived.find? fun n => (tblFind s.slots n).any p

def execRelayMatch (imm : Bool) (kd ka : BitVec 4) (n : BitVec 32) (s : State) : Host.Outcome State Fault Refusal :=
  relayStep s fun k i s =>
    let want := if imm then n.toNat else (kGet i ka).toNat
    match oldestPacket s i fun x => x.rlo = want with
    | some m => .go (takePacket s k kd m)
    | none => .wait

def execWaitin (kd : BitVec 4) (port : BitVec 32) (s : State) : Host.Outcome State Fault Refusal :=
  relayStep s fun k i s =>
    match oldestPacket s i fun x => port = 127 || x.port = port.toNat with
    | some m => .go (takePacket s k kd m)
    | none => .wait

def execSeqchk (kd ka : BitVec 4) (s : State) : Host.Outcome State Fault Refusal :=
  relayStep s fun k i s =>
    withSlot s i (kGet i ka) fun n x =>
      let s := ackSlot s n
      if s.keys.contains (keyOf x) then .go (kSet (consume s k n) k kd 1)
      else
        .go (kSet { s with
          keys := s.keys ++ [keyOf x]
          slots := tblUpd s.slots n fun x => { x with checked := true } } k kd 0)

/-! ### Combining (14 R337, R339) -/

/-- The pair is one node of the tree. -/
def pairOk (nbv m a b c d : Nat) : Bool :=
  if nbv = 9 then
    let w := b + 1 - a
    a ≤ b && w = 2 ^ Nat.log2 w && a % (2 * w) = 0 && c = b + 1 && d + 1 = Nat.min (a + 2 * w) m
  else a = 0 && c = b + 1 && d = c

/-- One element. -/
def combine (op ity : Nat) (x y : Nat) : Nat :=
  if ity = 0x11 || ity = 0x12 then
    let a := valOf fp32 x
    let b := valOf fp32 y
    if op = 0 then roundTo fp32 .rne (vAdd false a b)
    else if vIsNan a || vIsNan b then fp32.nanb
    else if op = 1 then (if vBelow b a then y else x)
    else (if vBelow a b then y else x)
  else
    let less (a b : Nat) : Bool := intOf 32 (ity = 5) a < intOf 32 (ity = 5) b
    match op with
    | 0 => (x + y) % 2 ^ 32
    | 1 => if less y x then y else x
    | 2 => if less x y then y else x
    | 3 => Nat.land x y
    | 4 => Nat.lor x y
    | _ => Nat.xor x y

/-- Combines the 4-byte elements of two chunks. -/
def combineBytes (op ity : Nat) : List Byte → List Byte → List Byte
  | a :: b :: c :: d :: r, e :: f :: g :: h :: t =>
    bytesOfNat 4 (combine op ity (natOfBytes [a, b, c, d]) (natOfBytes [e, f, g, h])) ++ combineBytes op ity r t
  | l, _ => l

/-- A binding of the instance's collective: they agree in all that the instance reads. -/
def bindingFor (s : State) (i : Instance) : Option Binding := ((members s i.cid).head?).map (·.2)

def execComb (kd ka kb : BitVec 4) (s : State) : Host.Outcome State Fault Refusal :=
  relayStep s fun k i s =>
    withData s i (kGet i ka) fun na xa =>
      withData s i (kGet i kb) fun nb xb =>
        match bindingFor s i with
        | none => .fault s 1 none
        | some b =>
          if b.kind != 1 || na = nb || !pairOk b.nbv b.nmem xa.rlo xa.rhi xb.rlo xb.rhi then .fault s 1 none
          else
            let s1 : State := { s with slots := tblUpd s.slots na fun x =>
              { x with rhi := xb.rhi, data := combineBytes b.op b.ity xa.data xb.data } }
            .go (kSet (consume s1 k nb) k kd (kGet i ka))

def execHoldb (kd ka : BitVec 4) (s : State) : Host.Outcome State Fault Refusal :=
  relayStep s fun k i s =>
    withData s i (kGet i ka) fun _ x =>
      if slotFree s x.ctx then
        let m := freshSlot s
        let s1 : State := { s with slots := tblPut s.slots m { x with checked := true } }
        .go (kSet (updInstance s1 k fun i => { i with held := i.held ++ [m] }) k kd (handle m))
      else .wait

/-! ### Packets between packages (14 R334 FWD, MCAST, NACK, R346) -/

/-- The packet of a slot to an endpoint. -/
def relayPacket (s : State) (kind : PktKind) (i : Instance) (x : Slot) (e : Endpoint) (seq : BitVec 32) : Packet :=
  { plainPacket s kind i.ctx e.pkg e.ctx seq x.data with
    cid := BitVec.ofNat 32 i.cid, epoch := BitVec.ofNat 32 x.epoch, rlo := BitVec.ofNat 16 x.rlo
    rhi := BitVec.ofNat 16 x.rhi, chunk := BitVec.ofNat 24 x.chunk }

/-- Sends a slot to each endpoint of a list. -/
def sendSlot (kind : PktKind) (rod : Bool) (k n : Nat) (i : Instance) (x : Slot) : List Endpoint → State → State
  | [], s => s
  | e :: r, s =>
    let (seq, s1) := takeSeq s i.ctx
    let port := (fabricPort s1 i.ctx e.pkg.toNat).getD 0
    sendSlot kind rod k n i x r (sendPacket s1 i.ctx port (relayPacket s1 kind i x e seq) rod none (.slot k n))

/-- FWD and MCAST: the instance holds the slot until every packet has been acknowledged. They wait while their context
stops (17 R406). -/
def forward (kind : PktKind) (rod : Bool) (ka : BitVec 4) (hs : Instance → List Nat) (s : State) :
    Host.Outcome State Fault Refusal :=
  relayStep s fun k i s =>
    withData s i (kGet i ka) fun n x =>
      let es := (hs i).map fun h => (endpointOf s i.ctx h).filter fun e => (fabricPort s i.ctx e.pkg.toNat).isSome
      if !sourcesOpen s i.ctx then .wait
      else if es.any Option.isNone || es = [] then .fault s 7 none
      else
        let s1 := sendSlot kind rod k n i x (es.filterMap id) s
        .ended (updInstance s1 k fun i => { i with sending := true, blocked := true })

/-- DEDUCED (unsafe), log entry 61. -/
def execFwd (rod : Bool) (ka : BitVec 4) (h : BitVec 32) (s : State) : Host.Outcome State Fault Refusal :=
  forward .partialNode rod ka (fun _ => [h.toNat]) s

/-- DEDUCED (unsafe), log entry 61. -/
def execMcast (rod : Bool) (ka kb : BitVec 4) (n : BitVec 32) (s : State) : Host.Outcome State Fault Refusal :=
  forward .result rod ka (fun i => (List.range (Nat.min n.toNat 64)).map fun j => (kGet i kb).toNat + j) s

/-- The last acknowledgement of a slot that an instance sends: the slot is consumed and the instance goes on. -/
def sentDone (s : State) (k n : Nat) : State :=
  let waits := s.flights.any fun f => match f.owner with
    | .slot j m => j = k && m = n
    | .xfer .. | .fatom .. => false
  if waits || !((tblFind s.instances k).any fun i => i.sending) then s
  else
    wake (updInstance (consume s k n) k fun i =>
      { i with sending := false, blocked := false, pc := i.pc + 1, count := i.count + 1 })

/-- A negative acknowledgement to a packet's sender: a local stage is sent again, another package is told. -/
def refuseSlot (s : State) (x : Slot) : State :=
  if 96 ≤ x.port then
    { count s 28 x.engine 1 with bindings := tblMap s.bindings fun _ b =>
        if b.cid = x.cid && b.rank = x.rlo && b.ctx = x.sctx then
          { b with stages := b.stages.map fun g =>
              if g.epoch = x.epoch && g.chunk = x.chunk && g.seq = x.seq then { g with taken := false } else g }
        else b }
  else nackPort s x.engine x.port x.pkg x.sctx x.seq

def execNack (ka : BitVec 4) (s : State) : Host.Outcome State Fault Refusal :=
  relayStep s fun k i s =>
    withSlot s i (kGet i ka) fun n x => .go (consume (refuseSlot s x) k n)

/-! ### Emission (14 R320, R334 EMIT and BUMP) -/

/-- FP32 elements rounded to BF16 (14 R339). -/
def narrow : List Byte → List Byte
  | a :: b :: c :: d :: r => bytesOfNat 2 (roundTo bf16 .rne (valOf fp32 (natOfBytes [a, b, c, d]))) ++ narrow r
  | _ => []

/-- The offset of an emitted chunk in a member's result buffer, and the member's order of ranks with it. -/
def emitPlace (b : Binding) (x : Slot) : Nat × List Nat :=
  let C := chunkSize b
  let order := tblGet [] b.order x.epoch
  match b.kind with
  | 1 =>
    let win := if b.ity = 0x11 then 2 else 4
    let wout := if b.oty = 0x11 then 2 else 4
    (x.chunk * C / win * wout, order)
  | 2 => (x.rlo * b.len + x.chunk * C, order)
  | 3 =>
    let o := if order.contains x.rlo then order else order ++ [x.rlo]
    (o.idxOf x.rlo * b.len + x.chunk * C, o)
  | _ => (x.chunk * C, order)

/-- The bytes that a member receives. -/
def emitBytes (b : Binding) (x : Slot) : List Byte := if b.kind = 1 && b.oty = 0x11 then narrow x.data else x.data

/-- Emits a chunk to one member; the result says whether its writes succeeded. -/
def emitTo (s : State) (mfn : Nat) (b : Binding) (x : Slot) : State × Bool :=
  let (off, order) := emitPlace b x
  let s1 := updBinding s mfn fun b => { b with
    emits := tblPut b.emits x.epoch (tblGet 0 b.emits x.epoch + 1)
    order := if b.kind = 3 then tblPut b.order x.epoch order else b.order }
  if !b.recv || emitBytes b x = [] then (s1, true)
  else
    match vmWrite s1 (relayWho b) (b.resva + BitVec.ofNat 64 off) (emitBytes b x) .porterWrite with
    | .ok s2 => (s2, true)
    | .error e => (afterEng s1 (relayWho b) e, false)

/-- Emits a chunk to every local member. -/
def emitAll (x : Slot) : List (Nat × Binding) → State → State × Bool
  | [], s => (s, true)
  | (m, b) :: r, s =>
    match emitTo s m b x with
    | (s1, false) => (s1, false)
    | (s1, true) => emitAll x r s1

/-- Completes the epochs of every member; the first whose barrier object faulted. -/
def completeAll : List (Nat × Binding) → State → State × Option Nat
  | [], s => (s, none)
  | (m, _) :: r, s =>
    match completeEpochs 2 s m with
    | (s1, false) => (s1, some m)
    | (s1, true) => completeAll r s1

/-- A write of an emission is to a line of a directory slice that is being recovered, and is held (05 R132). -/
def emitHeld (s : State) (x : Slot) (b : Binding) : Bool :=
  let n := (emitBytes b x).length
  s.dirStatus.any (·.2.recov) &&
    ((piecesOf b.bova 24) ++ if b.recv then piecesOf (b.resva + BitVec.ofNat 64 (emitPlace b x).1) n else []).any fun p =>
      heldRequest s b.die (asidOf b.ctx p.1) (lineOf p.1.toNat) true

def execEmit (ka : BitVec 4) (s : State) : Host.Outcome State Fault Refusal :=
  relayStep s fun k i s =>
    withData s i (kGet i ka) fun n x =>
      match bindingFor s i with
      | none => .fault s 4 none
      | some b =>
        if (b.kind = 1 && !(x.rlo = 0 && x.rhi + 1 = b.nmem)) || ((b.kind = 2 || b.kind = 3) && x.rlo != x.rhi) then .fault s 4 none
        else if (members s i.cid).any fun m => emitHeld s x m.2 then .wait
        else
          match emitAll x (members s i.cid) s with
          | (s1, false) => .fault s1 8 none
          | (s1, true) =>
            match completeAll (members s1 i.cid) (consume s1 k n) with
            | (s2, some m) => .fault s2 8 (some m)
            | (s2, none) => .go (pumpAll s2)

/-- A member's counter, if its word lies in the die scratchpad: a block through which the slice is reached, and the
offset. -/
def bumpPlace (s : State) (b : Binding) : Option (Nat × Nat) :=
  match b.cntoff, tblFirst s.blocks (fun _ k => k.grid = b.grid && k.die = b.die && !k.saved) with
  | some off, some (blk, _) => if scratchSize s blk true < off + 8 then none else some (blk, off)
  | _, _ => none

/-- Adds a chunk's length to a member's counter, as a release of what the engine has written for it (08 R194, R201).
DEDUCED (unsafe), log entry 61. -/
def bumpTo (x : Slot) (s : State) (b : Binding) : State :=
  match bumpPlace s b with
  | some (blk, off) =>
    let sender := x.pkg * 2 ^ 16 + x.sctx
    let t := viewTimes s (relayCore b.engine) b.ctx b.die
    arrivalClose (arrivalAdd s blk true off x.len sender x.seq.toNat (paoridAgent b.ctx) t) blk true off sender x.seq.toNat
  | none => s

def execBump (ka : BitVec 4) (s : State) : Host.Outcome State Fault Refusal :=
  relayStep s fun _ i s =>
    withSlot s i (kGet i ka) fun _ x =>
      let ms := (members s i.cid).filter fun e => e.2.recv
      if !x.checked then .fault s 3 none
      else if ms.any fun e => (bumpPlace s e.2).any fun c => !monitorRoom s c.1 true c.2 then .wait
      else .go (ms.foldl (fun s e => bumpTo x s e.2) s)

/-! ### Values, branches and the end -/

/-- A field of a slot (14 R334 LDK.f). -/
def slotField (x : Slot) (n : Nat) : Nat :=
  match n with
  | 0 => x.rlo | 1 => x.rhi | 2 => x.epoch | 3 => x.chunk | 4 => x.len | 5 => x.port | _ => x.pkg

/-- A field of the binding (14 R334 LDK.b). -/
def bindField (s : State) (i : Instance) (n : Nat) : Nat :=
  let ranks := (members s i.cid).map (·.2.rank)
  match n with
  | 0 => s.ownPkg.toNat
  | 1 => ranks.length
  | 2 => ranks.foldl Nat.min (ranks.headD 0)
  | _ => ranks.foldl Nat.max 0

def execRelayLdk (mode : Fin 3) (kd ka : BitVec 4) (n : BitVec 32) (s : State) : Host.Outcome State Fault Refusal :=
  relayStep s fun k i s =>
    match mode with
    | 0 => .go (kSet s k kd n)
    | 1 => withSlot s i (kGet i ka) fun _ x => .go (kSet s k kd (BitVec.ofNat 32 (slotField x n.toNat)))
    | 2 => .go (kSet s k kd (BitVec.ofNat 32 (bindField s i n.toNat)))

def execAddk (imm : Bool) (kd ka kb : BitVec 4) (n : BitVec 32) (s : State) : Host.Outcome State Fault Refusal :=
  relayStep s fun k i s => .go (kSet s k kd (kGet i ka + if imm then n else kGet i kb))

def execBne (ka kb : BitVec 4) (target : BitVec 32) (s : State) : Host.Outcome State Fault Refusal :=
  relayStep s fun _ i s => .jump s (if kGet i ka != kGet i kb then target.toNat else i.pc + 1)

def execJmp (target : BitVec 32) (s : State) : Host.Outcome State Fault Refusal :=
  relayStep s fun _ _ s => .jump s target.toNat

def execRelayDone (s : State) : Host.Outcome State Fault Refusal :=
  relayStep s fun k i s =>
    let unused := (i.held ++ i.arrived).filter fun n =>
      (tblFind s.slots n).any fun x => !s.keys.contains (keyOf x)
    .ended (endInstance (count s 27 i.engine unused.length) k)

/-! ### Trace records (14 R335) -/

/-- Bytes 0x00-0x37 of a trace record. -/
def traceBytes (s : State) (i : Instance) (v tag : Word) : List Byte :=
  bytesOfNat 4 i.cid ++ bytesOfNat 4 i.epoch ++ bytesOfNat 4 i.chunk ++ bytesOfNat 4 v.toNat ++ bytesOfNat 4 tag.toNat ++
    bytesOfNat 1 i.engine ++ bytesOfNat 1 i.prog.num ++ bytesOfNat 2 0 ++ bytesOfNat 8 s.clock ++ bytesOfNat 24 0

/-- Writes a record into a context's trace ring, or drops it. -/
def traceWrite (s : State) (i : Instance) (r : Ring) (v tag : Word) : State :=
  let w := whoEngine s i.ctx
  let a := ringEntry r.base r.log2 r.next
  let setRing (s : State) (r : Ring) : State := updCtx s i.ctx fun c => { c with trace := some r }
  let drop (s : State) : State := setRing s { r with lost := r.lost + 1 }
  match engineRead s w (a + 0x38) 8 .load with
  | .error f => drop (afterFault s w f)
  | .ok (s1, bs) =>
    if natOfBytes bs != 0 then drop s1
    else
      match engineWrite s1 w a (traceBytes s i v tag) false with
      | .error f => drop (afterFault s1 w f)
      | .ok s2 =>
        match engineWrite s2 w (a + 0x38) (bytesOfNat 4 r.next ++ bytesOfNat 4 r.lost) true with
        | .error f => drop (afterFault s2 w f)
        | .ok s3 => setRing s3 { r with next := r.next % (2 ^ 32 - 1) + 1, lost := 0 }

def execTrace (ka : BitVec 4) (tag : BitVec 32) (s : State) : Host.Outcome State Fault Refusal :=
  relayStep s fun _ i s =>
    match (tblFind s.ctxs i.ctx).bind (·.trace) with
    | none => .go (count s 32 i.engine 1)
    | some r => .go (traceWrite s i r (kGet i ka) tag)

end Sys2Proof.Machine
end

