-- ==== Sys2Proof/Machine/Contexts.lean ====
section
/-! DEFINITION. Opcodes 0xD4-0xDD: contexts within contexts (18 R409-R431, R436, R477) and INVLVA (04 R109-R111), and the
operations on contexts that other agents share: frames that are taken and scrubbed, quadrants that change holder,
contexts that run and that are removed. -/

namespace Sys2Proof.Machine

/-! ### Requests (18 R411, R412) -/

/-- The status word: VALUE, DETAIL, STATUS. -/
def ctxWord (value detail status : Nat) : Long :=
  BitVec.ofNat 64 (value % 2 ^ 32 * 2 ^ 32 + detail % 2 ^ 24 * 2 ^ 8 + status)

/-- The answer to a request: the state, the status word, and the predicate that CTXQRY writes. -/
structure CtxReply where
  s : State
  word : Long

def ctxOk (s : State) (value : Nat) : CtxReply := ⟨s, ctxWord value 0 0⟩
def ctxNo (s : State) (status detail : Nat) : CtxReply := ⟨s, ctxWord 0 detail status⟩

/-- Sends a request to the context engine, which performs it, and acquires after its writes (18 R411).
DEDUCED (unsafe), log entry 49. -/
def ctxRequest (i : Instr) (d : Dst) (f : Ins → Nat → State → CtxReply) (s : State) : Host.Outcome State Fault Refusal :=
  issue i (fun c s =>
    if drainHeld s (ownStore s c.g) then .wait
    else
      let r := f c (ctxOf s c.g) (drainGroup s c.g)
      answered (hearEngine r.s c.gid) c d r.word) s

/-- A scalar operand. -/
def sNat (c : Ins) (a : Src) : Nat := (sGet c.g a.reg.toNat).toNat

/-- The live child that an operand names (18 R409). -/
def childOf (s : State) (ctx x : Nat) : Option Context := (tblFind s.ctxs x).filter fun k => k.parent = ctx && ctx != 0

/-- A request about a child. DEDUCED (unsafe), log entry 50. -/
def onChild (s : State) (ctx x : Nat) (f : Context → CtxReply) : CtxReply :=
  match childOf s ctx x with
  | some k => f k
  | none => ctxNo s 1 0

def under (s : State) (k c : Nat) : Bool := isUnder s k 16 c

/-- The contexts of a subtree. -/
def subtree (s : State) (k : Nat) : Tbl Context := s.ctxs.filter fun e => under s k e.1

/-- A context that has not stopped. -/
def ctxLive (k : Context) : Bool := k.state = .running || k.state = .stopping

/-- The first context of a subtree that has not stopped. -/
def notStopped (s : State) (k : Nat) : Option Nat := ((subtree s k).find? fun e => ctxLive e.2).map (·.1)

/-! ### Frames (04 R102-R107) -/

def frameBytes : Nat := 0x200000

/-- Zeroes a frame with fresh ECC (04 R105 step 6). -/
def zeroFrame (s : State) (mfn : Nat) : State :=
  { s with
    mem := s.mem.filter fun e => !(mfn * frameBytes ≤ e.1 && e.1 < (mfn + 1) * frameBytes)
    poison := s.poison.filter fun e => !(mfn * 32768 ≤ e.1 && e.1 < (mfn + 1) * 32768)
    rewritten := s.rewritten.filter fun e => !(mfn * 16384 ≤ e.1 && e.1 < (mfn + 1) * 16384) }

/-- Every translation that names the frame, and every line of it, leaves the caches (04 R105 steps 3-5).
DEDUCED (unsafe), log entry 51. -/
def expelFrame (s : State) (mfn : Nat) : State :=
  flushLines (purgeFrame s mfn) (fun _ _ ma => ma / frameBytes = mfn) fun _ _ => false

def scrubbing (s : State) (mfn : Nat) : Bool := (ownerOf s mfn).state = .scrubbing

/-- An entry of the issuer's map is lent: its frame's translations and lines go, so that the issuer cannot reach it
(log entry 51). DEDUCED (unsafe), log entry 51. -/
def lendFrame (s : State) (ctx cfn : Nat) (e : MapEntry) (holder : Nat) : State :=
  setOwner (expelFrame (setMapEntry s ctx cfn (some { e with state := .lent })) e.mfn) e.mfn
    { ownerOf s e.mfn with state := .held, holder := holder }

/-- What a frame that is to be lent finds: its entry, or a status (04 R106, 18 R412). -/
def frameToLend (s : State) (ctx cfn : Nat) : Except Nat MapEntry :=
  match mapEntry s ctx cfn with
  | none => .error 2
  | some e => if scrubbing s e.mfn then .error 3 else if e.state = .valid then .ok e else .error 2

/-- The frames of a range, or the first that cannot be lent with its status. -/
def framesToLend (s : State) (ctx first n : Nat) : Except (Nat × Nat) (List (Nat × MapEntry)) :=
  (List.range n).foldr (fun i r =>
    match frameToLend s ctx (first + i) with
    | .error st => .error (st, first + i)
    | .ok e =>
      match r with
      | .error x => .error x
      | .ok l => .ok ((first + i, e) :: l)) (.ok [])

/-- The scrub of a frame begins (04 R105 steps 1-5): no map below `k` names it any more, in the engine's records or in
the frames of the map. DEDUCED (unsafe), log entry 51. -/
def scrubFrame (s : State) (k mfn : Nat) : State :=
  let clear (c : Context) : Context := { c with
    mapFrames := c.mapFrames.filter fun m => m != mfn
    save := c.save.filter fun m => m != mfn }
  let named := (subtree s k).flatMap fun e => (e.2.map.filter fun m => m.2.mfn = mfn).map fun m => (e.1, m.1)
  let s1 := named.foldl (fun s x => setMapEntry s x.1 x.2 none) (setOwner s mfn { ownerOf s mfn with state := .scrubbing })
  expelFrame { s1 with ctxs := tblMap s1.ctxs fun x c => if under s k x then clear c else c } mfn

/-- The revoking context of a scrub: the deepest whose map still lists the frame as lent. -/
def revoker (s : State) (mfn : Nat) : Option (Nat × Nat) :=
  let names (c : Context) : Option Nat := (c.map.find? fun e => e.2.mfn = mfn && e.2.state = .lent).map (·.1)
  let best := s.ctxs.foldl (fun (b : Option (Nat × Nat × Nat)) e =>
    match names e.2 with
    | none => b
    | some cfn => if b.all fun x => x.2.2 < e.2.depth then some (e.1, cfn, e.2.depth) else b) none
  best.map fun b => (b.1, b.2.1)

/-- The scrub of a frame ends (04 R105 steps 6, 7). -/
def finishScrub (s : State) (mfn : Nat) : State :=
  if !scrubbing s mfn then s
  else
    let s1 := zeroFrame s mfn
    let o := ownerOf s mfn
    match revoker s mfn with
    | none => wake (setOwner s1 mfn { o with state := .held, holder := 1, scrubs := o.scrubs + 1 })
    | some (x, cfn) =>
      let e := ((tblFind s.ctxs x).bind fun c => tblFind c.map cfn).getD ⟨.valid, true, true, mfn⟩
      wake (setOwner (setMapEntry s1 x cfn (some { e with state := .valid })) mfn
        { o with state := .held, holder := x, scrubs := o.scrubs + 1 })

/-! ### Partitions (18 R419) -/

/-- The partition of a frame of stack DRAM. -/
def framePartition (s : State) (mfn : Nat) : Option Nat :=
  if regionOf s (mfn * frameBytes) = .stack then
    some (if s.mode = 1 then 0 else mfn / (if s.mode = 2 then 0x30000 else 0x18000))
  else none

/-- The partition that a subtree's quadrants and frames lie in. DEDUCED (unsafe), log entry 53. -/
def heldPartition (s : State) (k : Nat) : Option Nat :=
  match (List.range 640).find? fun q => under s k (quadHolder s q) with
  | some q => some (partitionOf s (dieOfQuad q))
  | none =>
    (subtree s k).findSome? fun e =>
      ((e.2.map.map fun m => m.2.mfn) ++ e.2.save).findSome? (framePartition s)

/-- A context's partition: its own, or the one that it shares with its parent. The root has none. -/
def ctxPartition (s : State) : Nat → Nat → Option Nat
  | 0, _ => none
  | n + 1, k =>
    if k ≤ 1 || s.mode = 1 then none
    else
      match heldPartition s k with
      | some p => some p
      | none => ctxPartition s n (((tblFind s.ctxs k).map (·.parent)).getD 0)

/-- A quadrant or frame of partition `p`, if it lies in one, may go to a context. -/
def partitionOk (s : State) (k : Nat) (p : Option Nat) : Bool :=
  match ctxPartition s 9 k, p with
  | some x, some y => x = y
  | _, _ => true

/-- Things of the listed partitions may go together to a context. -/
def partitionsOk (s : State) (k : Nat) (ps : List (Option Nat)) : Option Nat :=
  let first := ps.findSome? id
  (List.range ps.length).find? fun i =>
    let p := ps.getD i none
    !(partitionOk s k p && (s.mode = 1 || match p, first with | some a, some b => a = b | _, _ => true))

/-! ### The save need (18 R429) -/

def quadsOf (s : State) (k : Nat) : List Nat := (List.range 640).filter fun q => quadHolder s q = k

def saveNeed (quads : List Nat) (slots : Nat) : Nat :=
  0x190000 * quads.length + 0x2100000 * ((quads.map dieOfQuad).eraseDups).length + 0x800 * slots

/-- The need of a context with further quadrants and slots. -/
def needOf (s : State) (k : Nat) (c : Context) (more : List Nat) (slots : Nat) : Nat :=
  saveNeed (quadsOf s k ++ more) (c.relayG + c.relayCap + slots)

def savesFit (s : State) (k : Nat) (c : Context) (more : List Nat) (slots : Nat) : Bool :=
  needOf s k c more slots ≤ c.save.length * frameBytes

/-! ### Quadrants, queues and ports (18 R416, R417, R421) -/

/-- A quadrant goes clean to a new holder (18 R417, 12 R292).
DEDUCED (unsafe), log entry 52; DEDUCED (unsafe), log entry 65. -/
def moveQuad (s : State) (q holder : Nat) : State :=
  let x := quadOf s q
  let s1 := updQuad s q fun _ => { newQuad with
    fenced := x.fenced, faulty := x.faulty, stfail := x.stfail, lpois := x.lpois, lecc := x.lecc }
  { s1 with
    loft := s1.loft.filter fun e => !(loftKey q 0 ≤ e.1 && e.1 < loftKey (q + 1) 0)
    loftPoison := s1.loftPoison.filter fun e => !(q * 2 ^ 18 ≤ e.1 && e.1 < (q + 1) * 2 ^ 18)
    l1 := s1.l1.filter fun l => !(l.core = coreOfQuad q && l.way / 4 = q % 4)
    fetched := s1.fetched.filter fun f => f.quad != q
    quadHolder := tblSet 1 s1.quadHolder q holder }

/-- A quadrant in use: a resident group, the loft window of a block, an array that is held, or work of the array. -/
def quadBusy (s : State) (q : Nat) : Bool :=
  let x := quadOf s q
  s.groups.any (fun e => e.2.quad = q) || s.windows.any (fun w => w.quad = q) || x.holder.isSome || !x.pass.isEmpty || !x.fills.isEmpty

/-- A queue moves with its registers, disabled. -/
def moveQueue (s : State) (q holder : Nat) : State :=
  { updQueue s q fun x => { x with en := false } with queueHolder := tblSet 1 s.queueHolder q holder }

/-- A queue that is revoked: unconsumed entries are dropped, and what was accepted from it and has not started ends
cancelled (18 R421). DEDUCED (unsafe), log entry 52. -/
def revokeQueue (s : State) (child q holder : Nat) : State :=
  let s1 := moveQueue (updQueue s q fun x => { x with head := x.tail, pushed := [] }) q holder
  let mine := s1.grids.filter fun e => e.2.queue = q && e.2.state = .accepted && under s child e.2.ctx
  mine.foldl (fun s e => dropGrids (setGridState s e.1 .cancelled 0 0) e.1) s1

/-- An engine of a port that a window is bound to. -/
def portBound (s : State) (p : Nat) : Bool := s.bindings.any fun e => e.2.engine = 4 + p

def movePort (s : State) (p holder : Nat) : State := { s with portHolder := tblSet 1 s.portHolder p holder }

/-- The items that a first number and a 64-bit mask name, below a limit. -/
def maskItems (first mask limit : Nat) : Option (List Nat) :=
  let l := ((List.range 64).filter fun i => bit mask i).map (first + ·)
  if first < limit && l.all fun i => i < limit then some l else none

def countItems (first n limit : Nat) : Option (List Nat) :=
  if first < limit && 1 ≤ n && n ≤ limit - first then some ((List.range n).map (first + ·)) else none

/-- Lends items: each must be held by the issuer and free of use. DEDUCED (unsafe), log entry 50. -/
def lendItems (s : State) (ctx : Nat) (items : Option (List Nat)) (holder : Nat → Nat) (busy : Nat → Bool)
    (more : List Nat → Option Nat) (move : State → Nat → State) : CtxReply :=
  match items with
  | none => ctxNo s 5 0
  | some l =>
    match l.find? fun n => holder n != ctx || busy n with
    | some n => if holder n != ctx then ctxNo s 2 n else ctxNo s 3 0
    | none =>
      match more l with
      | some st => ctxNo s st 0
      | none => ctxOk (wake (l.foldl move s)) 0

/-- Takes items back: each must be held below the child, by a context that is stopped or new.
DEDUCED (unsafe), log entry 50. -/
def takeItems (s : State) (child : Nat) (items : Option (List Nat)) (holder : Nat → Nat) (busy : Nat → Bool)
    (move : State → Nat → State) : CtxReply :=
  match items with
  | none => ctxNo s 5 0
  | some l =>
    match l.find? fun n => !under s child (holder n) with
    | some _ => ctxNo s 2 0
    | none =>
      match l.find? fun n => (tblFind s.ctxs (holder n)).any ctxLive with
      | some n => ctxNo s 8 (holder n)
      | none => if l.any busy then ctxNo s 3 0 else ctxOk (wake (l.foldl move s)) 0

/-! ### CTXNEW (18 R415) -/

/-- The first field of a descriptor that is out of range. -/
def ctxDescBad (d : List Byte) : Option Nat :=
  let f (o n : Nat) : Nat := field d o n
  if f 0 8 % 4096 != 0 || 2 ^ 48 ≤ f 0 8 then some 0
  else if f 8 4 = 0 || 2 ^ 23 < f 8 4 then some 8
  else if f 0x0C 1 < 4 || 20 < f 0x0C 1 then some 0x0C
  else if f 0x0D 1 < 4 || 16 < f 0x0D 1 then some 0x0D
  else if 7 < f 0x0E 1 then some 0x0E
  else if 15 < f 0x0F 1 then some 0x0F
  else if f 0x10 8 % 64 != 0 then some 0x10
  else if f 0x18 8 % 64 != 0 then some 0x18
  else if f 0x20 8 % 64 != 0 then some 0x20
  else firstNonZero d 0x38 0x40

/-- A context as CTXNEW makes it. Its first transfer sequence number is 0. DESIGN CHOICE (unsafe), log entry 95. -/
def newContext (d : List Byte) (parent depth : Nat) (frames : List Nat) : Context where
  parent := parent
  depth := depth
  state := .new
  cause := 0
  stop := none
  troot := field d 0 8
  fmlen := field d 8 4
  map := []
  mapFrames := frames
  gbbase := BitVec.ofNat 64 (field d 0x10 8)
  gblog2 := field d 0x0C 1
  fq := ⟨BitVec.ofNat 64 (field d 0x18 8), field d 0x0D 1, 1, 0⟩
  notify := BitVec.ofNat 64 (field d 0x20 8)
  ceil := field d 0x0E 1
  rights := BitVec.ofNat 4 (field d 0x0F 1)
  debug := bit (field d 0x0F 1) 3
  nextSeq := Nat.max 1 (field d 0x30 8)
  lastQ := 0
  xferSeq := 0
  purse := 0
  used := 0
  granted := 0
  nano := 0
  relayG := 0
  relayCap := 0
  save := []
  saved := false
  slice := 0
  sliceD := 0
  sliceEnd := none
  ckseq := 0
  ndet := false
  trace := none
  endpoints := []

/-- The lowest free identity. DEDUCED (unsafe), log entry 73. -/
def freeIdentity (s : State) : Option Nat :=
  ((List.range (s.ctxs.length + 1)).map (2 + ·)).find? fun k => k < 65536 && (tblFind s.ctxs k).isNone

/-- The engine takes frames for a frame map: lent by the issuer, held by the engine, and zeroed (18 R415).
DESIGN CHOICE (unsafe), log entry 66. -/
def lendMap (s : State) (ctx : Nat) (l : List (Nat × MapEntry)) : State :=
  l.foldl (fun s e => zeroFrame (lendFrame s ctx e.1 e.2 0) e.2.mfn) s

/-- CTXNEW with the descriptor read. DEDUCED (unsafe), log entry 50. -/
def newChild (s : State) (ctx : Nat) (me : Context) (va : Long) (d : List Byte) : CtxReply :=
  let rights := BitVec.ofNat 4 (field d 0x0F 1)
  let n := (8 * field d 8 4 + frameBytes - 1) / frameBytes
  if va.toNat % 8 != 0 then ctxNo s 5 0
  else
    match ctxDescBad d with
    | some o => ctxNo s 5 o
    | none =>
      if 8 ≤ me.depth || !me.rights.getLsbD 2 then ctxNo s 4 0
      else if me.ceil < field d 0x0E 1 then ctxNo s 9 0
      else if rights &&& 7 &&& ~~~me.rights != 0 then ctxNo s 9 0
      else
        match framesToLend s ctx (field d 0x28 8) n, freeIdentity s with
        | .error (st, _), _ => ctxNo s st 0
        | .ok _, none => ctxNo s 7 0
        | .ok l, some id =>
          let s1 := lendMap s ctx l
          let k := newContext d ctx (me.depth + 1) (l.map fun e => e.2.mfn)
          ctxOk { s1 with ctxs := tblPut s1.ctxs id k } id

def execCtxnew (g : Guard) (d : Dst) (a : Src) (s : State) : Host.Outcome State Fault Refusal :=
  issue (.ctxnew g d a) (fun c s =>
    let va := sGet c.g a.reg.toNat
    let reply (r : CtxReply) : Act := answered (hearEngine r.s c.gid) c d r.word
    let ctx := ctxOf s c.g
    if drainHeld s (ownStore s c.g) then .wait
    else
      splitRead c (drainGroup s c.g) [va] (fun l s => vmRead s (whoOf s c.g) (l.getD 0 0) 64 .load)
        (fun _ s => reply (ctxNo s 5 0xFFFFFF)) fun l bs s =>
          match tblFind s.ctxs ctx with
          | none => reply (ctxNo s 1 0)
          | some me => reply (newChild s ctx me (l.getD 0 0) bs)) s

/-! ### CTXGRANT (18 R416): each kind, for an issuer, a child and the values of sB and sC -/

def grantQuad (s : State) (ctx x b cc : Nat) : CtxReply :=
  onChild s ctx x fun k =>
    lendItems s ctx (maskItems b cc 640) (quadHolder s) (quadBusy s)
      (fun l =>
        if (partitionsOk s x (l.map fun q => some (partitionOf s (dieOfQuad q)))).isSome then some 6
        else if ctxLive k && !savesFit s x k l 0 then some 10
        else none)
      fun s q => moveQuad s q x

def grantQueue (s : State) (ctx x b cc : Nat) : CtxReply :=
  onChild s ctx x fun _ =>
    lendItems s ctx (countItems b cc 4096) (queueHolder s) (fun q => (queueOf s q).en)
      (fun _ => none) fun s q => moveQueue s q x

def grantPort (s : State) (ctx x b cc : Nat) : CtxReply :=
  onChild s ctx x fun _ =>
    lendItems s ctx (maskItems b cc 96) (portHolder s) (portBound s) (fun _ => none)
      fun s p => movePort s p x

/-- The cap of a context: the root's is every slot (14 R340, 18 R409). -/
def capOf (ctx : Nat) (me : Context) : Nat := if ctx = 1 then relaySlots else me.relayCap

def grantRelay (s : State) (ctx x G cap : Nat) : CtxReply :=
  match tblFind s.ctxs ctx with
  | none => ctxNo s 1 0
  | some me =>
    onChild s ctx x fun k =>
      if !me.rights.getLsbD 1 then ctxNo s 9 0
      else if usableSlots s ctx < G then ctxNo s 2 0
      else if capOf ctx me < k.relayCap + cap then ctxNo s 9 0
      else if ctxLive k && !savesFit s x k [] (G + cap) then ctxNo s 10 0
      else
        ctxOk (wake (pumpAll (updCtx s x fun k =>
          { k with relayG := k.relayG + G, relayCap := k.relayCap + cap }))) 0

/-- A finished stop, or an exhausted purse, is told to the parent (18 R426). -/
def notice (s : State) (k : Nat) : State :=
  match tblFind s.ctxs k with
  | none => s
  | some c =>
    if c.notify = 0 then s
    else
      match boUpdate s (whoEngine s c.parent) c.notify .pkg fun o => { o with count := o.count + 1 } with
      | .ok s1 => wake s1
      | .error f => afterFault s (whoEngine s c.parent) f

/-- A purse that is not above zero stops its context (18 R433); one that was above zero in `before` is exhausted, which
the parent is told of (18 R426). DEDUCED (unsafe), log entry 55. -/
def exhaust (before s : State) (k : Nat) : State :=
  match tblFind s.ctxs k with
  | none => s
  | some c =>
    if 0 < c.purse then s
    else
      let s1 := if (tblFind before.ctxs k).any fun b => 0 < b.purse then notice s k else s
      if c.state = .running then stopTree s1 k 3 ⟨0, s.clock, false⟩ else s1

def grantPurse (s : State) (ctx x n : Nat) : CtxReply :=
  match tblFind s.ctxs ctx with
  | none => ctxNo s 1 0
  | some me =>
    onChild s ctx x fun _ =>
      if n = 0 || 0xFFFFFFFF < n then ctxNo s 5 0
      else if me.purse < (n : Int) then ctxNo s 2 0
      else
        let s1 := updCtx s ctx fun k => { k with purse := k.purse - n }
        let s2 := updCtx s1 x fun k => { k with purse := k.purse + n, granted := k.granted + n }
        ctxOk (wake (exhaust s s2 ctx)) 0

/-- Save frames stay in machine address order (18 R427). -/
def insertFrame (m : Nat) : List Nat → List Nat
  | [] => [m]
  | x :: r => if m < x then m :: x :: r else x :: insertFrame m r

def grantSave (s : State) (ctx x first n : Nat) : CtxReply :=
  onChild s ctx x fun _ =>
    if n = 0 || 4096 < n then ctxNo s 5 0
    else
      match framesToLend s ctx first n with
      | .error (st, cfn) => ctxNo s st (if st = 2 then cfn else 0)
      | .ok l =>
        if (partitionsOk s x (l.map fun e => framePartition s e.2.mfn)).isSome then ctxNo s 6 0
        else
          let s1 := l.foldl (fun s e => lendFrame s ctx e.1 e.2 x) s
          ctxOk (updCtx s1 x fun k => { k with save := l.foldl (fun t e => insertFrame e.2.mfn t) k.save }) 0

def grantRights (s : State) (ctx x b cc : Nat) : CtxReply :=
  let r : BitVec 4 := BitVec.ofNat 4 b
  match tblFind s.ctxs ctx with
  | none => ctxNo s 1 0
  | some me =>
    onChild s ctx x fun _ =>
      if r &&& 7 &&& ~~~me.rights != 0 || me.ceil < cc % 8 then ctxNo s 9 0
      else
        ctxOk (updCtx s x fun k => { k with
          rights := k.rights ||| r, debug := k.debug || r.getLsbD 3, ceil := Nat.max k.ceil (cc % 8) }) 0

def execCtxgrantQuad (g : Guard) (d : Dst) (a b cc : Src) (s : State) : Host.Outcome State Fault Refusal :=
  ctxRequest (.ctxgrantQuad g d a b cc) d (fun c ctx s => grantQuad s ctx (sNat c a) (sNat c b) (sNat c cc)) s

def execCtxgrantQueue (g : Guard) (d : Dst) (a b cc : Src) (s : State) : Host.Outcome State Fault Refusal :=
  ctxRequest (.ctxgrantQueue g d a b cc) d (fun c ctx s => grantQueue s ctx (sNat c a) (sNat c b) (sNat c cc)) s

def execCtxgrantPort (g : Guard) (d : Dst) (a b cc : Src) (s : State) : Host.Outcome State Fault Refusal :=
  ctxRequest (.ctxgrantPort g d a b cc) d (fun c ctx s => grantPort s ctx (sNat c a) (sNat c b) (sNat c cc)) s

def execCtxgrantRelay (g : Guard) (d : Dst) (a b cc : Src) (s : State) : Host.Outcome State Fault Refusal :=
  ctxRequest (.ctxgrantRelay g d a b cc) d (fun c ctx s => grantRelay s ctx (sNat c a) (sNat c b) (sNat c cc)) s

def execCtxgrantSave (g : Guard) (d : Dst) (a b cc : Src) (s : State) : Host.Outcome State Fault Refusal :=
  ctxRequest (.ctxgrantSave g d a b cc) d (fun c ctx s => grantSave s ctx (sNat c a) (sNat c b) (sNat c cc)) s

def execCtxgrantRights (g : Guard) (d : Dst) (a b cc : Src) (s : State) : Host.Outcome State Fault Refusal :=
  ctxRequest (.ctxgrantRights g d a b cc) d (fun c ctx s => grantRights s ctx (sNat c a) (sNat c b) (sNat c cc)) s

def execCtxgrantPurse (g : Guard) (d : Dst) (a b : Src) (s : State) : Host.Outcome State Fault Refusal :=
  ctxRequest (.ctxgrantPurse g d a b) d (fun c ctx s => grantPurse s ctx (sNat c a) (sNat c b)) s

/-! ### CTXMAP (18 R418) -/

/-- What entry i of a CTXMAP finds. -/
def mapCheck (s : State) (ctx x : Nat) (k : Context) (b c i : Nat) : Except Nat MapEntry :=
  match frameToLend s ctx (b + i) with
  | .error st => .error st
  | .ok e =>
    if k.fmlen ≤ c + i || (tblFind k.map (c + i)).isSome then .error 5
    else if !partitionOk s x (framePartition s e.mfn) then .error 6
    else .ok e

/-- Writes one entry of a child's map (04 R103, R107). DEDUCED (unsafe), log entry 51. -/
def mapFrame (lard fw fx : Bool) (ctx x : Nat) (s : State) (t : Nat × Nat × MapEntry) : State :=
  let (from_, dest, e) := t
  let put (s : State) : State :=
    setMapEntry s x dest (some ⟨if lard then .larder else .valid, e.fw && fw, e.fx && fx, e.mfn⟩)
  if regionOf s (e.mfn * frameBytes) = .regs then put s
  else
    let s1 := put (lendFrame s ctx from_ e x)
    if lard then
      let o := ownerOf s1 e.mfn
      setOwner (zeroFrame s1 e.mfn) e.mfn { o with state := .larder, scrubs := o.scrubs + 1 }
    else s1

/-- The checks of every i, the first failure winning. DEDUCED (unsafe), log entry 50. -/
def mapChecks (s : State) (ctx x : Nat) (k : Context) (b c : Nat) : Nat → Except (Nat × Nat) (List (Nat × Nat × MapEntry))
  | 0 => .ok []
  | n + 1 =>
    match mapChecks s ctx x k b c n with
    | .error e => .error e
    | .ok l =>
      match mapCheck s ctx x k b c n with
      | .error st => .error (st, n)
      | .ok e => .ok (l ++ [(b + n, c + n, e)])

def execCtxmap (g : Guard) (lard : Bool) (d : Dst) (a b cc : Src) (n1 : BitVec 13) (fw fx : Bool) (s : State) :
    Host.Outcome State Fault Refusal :=
  ctxRequest (.ctxmap g lard d a b cc n1 fw fx) d (fun c ctx s =>
    let x := sNat c a
    onChild s ctx x fun k =>
      match mapChecks s ctx x k (sNat c b) (sNat c cc) (n1.toNat + 1) with
      | .error (st, i) => ctxNo s st i
      | .ok l =>
        match partitionsOk s x (l.map fun t => framePartition s t.2.2.mfn) with
        | some i => ctxNo s 6 i
        | none => ctxOk (wake (l.foldl (mapFrame lard fw fx ctx x) s)) 0) s

/-! ### CTXREVOKE (18 R421, R477) -/

def execCtxrevokeQuad (g : Guard) (d : Dst) (a b cc : Src) (s : State) : Host.Outcome State Fault Refusal :=
  ctxRequest (.ctxrevokeQuad g d a b cc) d (fun c ctx s =>
    let x := sNat c a
    onChild s ctx x fun _ =>
      takeItems s x (maskItems (sNat c b) (sNat c cc) 640) (quadHolder s) (fun _ => false)
        fun s q => moveQuad s q ctx) s

def execCtxrevokeQueue (g : Guard) (d : Dst) (a b cc : Src) (s : State) : Host.Outcome State Fault Refusal :=
  ctxRequest (.ctxrevokeQueue g d a b cc) d (fun c ctx s =>
    let x := sNat c a
    onChild s ctx x fun _ =>
      takeItems s x (countItems (sNat c b) (sNat c cc) 4096) (queueHolder s) (fun _ => false)
        fun s q => revokeQueue s x q ctx) s

def execCtxrevokePort (g : Guard) (d : Dst) (a b cc : Src) (s : State) : Host.Outcome State Fault Refusal :=
  ctxRequest (.ctxrevokePort g d a b cc) d (fun c ctx s =>
    let x := sNat c a
    onChild s ctx x fun _ =>
      takeItems s x (maskItems (sNat c b) (sNat c cc) 96) (portHolder s) (portBound s)
        fun s p => movePort s p ctx) s

/-- Takes guarantee from a context and from its ancestors up to the child (18 R477 step 3). -/
def lowerG (child amount : Nat) : Nat → Nat → State → State
  | 0, _, s => s
  | n + 1, k, s =>
    let s1 := updCtx s k fun c => { c with relayG := c.relayG - amount }
    if k = child then s1 else lowerG child amount n (((tblFind s.ctxs k).map (·.parent)).getD 0) s1

/-- Contexts of a subtree in the order that R477 visits them. -/
def deepestFirst (s : State) (k : Nat) : List Nat :=
  ((List.range 9).reverse).flatMap fun dep => ((subtree s k).filter fun e => e.2.depth = dep).map (·.1)

/-- Takes G from the subtree, deepest first. -/
def takeSlots (child : Nat) : List Nat → Nat → State → State
  | [], _, s => s
  | k :: r, owed, s =>
    let n := Nat.min owed (usableSlots s k)
    takeSlots child r (owed - n) (lowerG child n 9 k s)

/-- Clamps each descendant's cap to its parent's, parents first. -/
def clampCaps (s : State) (child : Nat) : State :=
  ((deepestFirst s child).reverse).foldl (fun s k =>
    if k = child then s
    else
      updCtx s k fun c => { c with relayCap := Nat.min c.relayCap (((tblFind s.ctxs c.parent).map (·.relayCap)).getD 0) }) s

def execCtxrevokeRelay (g : Guard) (d : Dst) (a b cc : Src) (s : State) : Host.Outcome State Fault Refusal :=
  ctxRequest (.ctxrevokeRelay g d a b cc) d (fun c ctx s =>
    let x := sNat c a
    let G := sNat c b
    let cap := sNat c cc
    onChild s ctx x fun k =>
      match notStopped s x with
      | some y => ctxNo s 8 y
      | none =>
        if k.relayG < G || k.relayCap < cap then ctxNo s 2 0
        else
          let s1 := takeSlots x (deepestFirst s x) G s
          ctxOk (clampCaps (updCtx s1 x fun k => { k with relayCap := k.relayCap - cap }) x) 0) s

def execCtxrevokePurse (g : Guard) (d : Dst) (a b : Src) (s : State) : Host.Outcome State Fault Refusal :=
  ctxRequest (.ctxrevokePurse g d a b) d (fun c ctx s =>
    let x := sNat c a
    onChild s ctx x fun k =>
      let n := Nat.min (sNat c b) k.purse.toNat
      let s1 := updCtx s x fun k => { k with purse := k.purse - n, granted := k.granted - n }
      let s2 := updCtx s1 ctx fun k => { k with purse := k.purse + n }
      ctxOk (wake (exhaust s s2 x)) n) s

/-- A context holds saved state: it is stopped, or blocks that a stop has put away are not placed again (18 R421). -/
def holdsSaved (s : State) (k : Nat) (c : Context) : Bool := c.saved || unplaced s k

/-- A frame lent to a child's subtree: its MFN, or a status. -/
def frameToTake (s : State) (ctx x cfn : Nat) : Except Nat Nat :=
  match mapEntry s ctx cfn with
  | none => .error 2
  | some e =>
    let o := ownerOf s e.mfn
    let inMaps := (subtree s x).any fun k => k.2.mapFrames.contains e.mfn
    if e.state != .lent then .error 2
    else if o.state = .scrubbing then .error 3
    else if !(under s x o.holder || inMaps) then .error 2
    else if inMaps || (tblFind s.bindings e.mfn).isSome ||
        (subtree s x).any (fun k => k.2.save.contains e.mfn && holdsSaved s k.1 k.2) then .error 3
    else .ok e.mfn

/-- The frames of a range, all or none. DEDUCED (unsafe), log entry 51. -/
def framesToTake (s : State) (ctx x first n : Nat) : Except (Nat × Nat) (List Nat) :=
  (List.range n).foldr (fun i r =>
    match frameToTake s ctx x (first + i) with
    | .error st => .error (st, first + i)
    | .ok m =>
      match r with
      | .error e => .error e
      | .ok l => .ok (m :: l)) (.ok [])

def execCtxrevokeFrame (g : Guard) (d : Dst) (a b cc : Src) (s : State) : Host.Outcome State Fault Refusal :=
  ctxRequest (.ctxrevokeFrame g d a b cc) d (fun c ctx s =>
    let x := sNat c a
    onChild s ctx x fun _ =>
      match framesToTake s ctx x (sNat c b) (Nat.min (sNat c cc) 0x800000) with
      | .error (st, _) => ctxNo s st 0
      | .ok l => ctxOk (wake (l.foldl (fun s m => scrubFrame s x m) s)) 0) s

def execCtxrevokeSave (g : Guard) (d : Dst) (a b cc : Src) (s : State) : Host.Outcome State Fault Refusal :=
  ctxRequest (.ctxrevokeSave g d a b cc) d (fun c ctx s =>
    let x := sNat c a
    let n := sNat c cc
    onChild s ctx x fun k =>
      if n = 0 || 4096 < n then ctxNo s 5 0
      else if holdsSaved s x k then ctxNo s 3 0
      else
        match framesToTake s ctx x (sNat c b) n with
        | .error (st, _) => ctxNo s st 0
        | .ok l =>
          if l.all k.save.contains then ctxOk (l.foldl (fun s m => scrubFrame s x m) s) 0 else ctxNo s 2 0) s

/-- The blocks of a context, with all that they hold, are gone. -/
def dropBlocks (s : State) (k : Nat) : State :=
  let mineGrid (g : Nat) : Bool := (tblFind s.grids g).any fun x => x.ctx = k
  let mineBlock (b : Nat) : Bool := (tblFind s.blocks b).any fun x => mineGrid x.grid
  let mine (gid : Nat) : Bool := (tblFind s.groups gid).any fun x => mineGrid x.grid
  let clean (x : Quad) : Quad := { x with
    queue := x.queue.filter fun o => !mine o.gid
    pass := x.pass.filter fun o => !mine o.gid
    tests := x.tests.filter fun o => !mine o.gid
    fills := x.fills.filter fun o => !mine o.gid
    facts := x.facts.filter fun o => !mine o.gid
    holder := if x.holder.any mineBlock then none else x.holder
    releasing := x.releasing && !x.holder.any mineBlock }
  let gone := s.windows.filter fun w => mineBlock w.block
  let inGone (a : Nat) : Bool := gone.any fun w => loftKey w.quad w.off ≤ a && a < loftKey w.quad w.off + w.size
  { s with
    groups := s.groups.filter fun e => !mine e.1
    blocks := s.blocks.filter fun e => !mineBlock e.1
    windows := s.windows.filter fun w => !mineBlock w.block
    loft := s.loft.filter fun e => !inGone e.1
    loftPoison := s.loftPoison.filter fun e => !inGone (4 * e.1)
    producers := s.producers.filter fun e => !mine e.2.gid
    porterOps := s.porterOps.filter fun e => e.2.ctx != k
    porters := s.porters.filter fun e => !((tblFind s.porterOps e.2).any fun o => o.ctx = k)
    quads := (s.quads.map fun e => (e.1, clean e.2)).filter fun e => decide (e.2 ≠ newQuad)
    chunkQ := (s.chunkQ.map fun e => (e.1, e.2.filter fun x => !mine x.1)).filter fun e => !e.2.isEmpty
    ios := s.ios.filter fun e => !mine e.2.gid
    requests := s.requests.filter fun r => !((tblFind s.ios r.io).any fun e => mine e.gid)
    stalled := s.stalled.filter fun e => !mine e.1
    answers := s.answers.filter fun e => !mine e.1
    slices := s.slices.filter fun x => !mineGrid x.grid
    inns := s.inns.filter fun e => !mineGrid e.2.grid
    grids := s.grids.filter fun e => !mineGrid e.1
    heldRecs := s.heldRecs.filter fun r => r.ctx != k }

/-- The relay state of a context is gone: its windows, instances, slots and packets. -/
def dropRelay (s : State) (k : Nat) : State :=
  let s1 := (s.bindings.filter fun e => e.2.ctx = k).foldl (fun s e =>
    unbindWindow (updBinding s e.1 fun b => { b with stages := [], held := [] }) e.1) s
  let s2 := (s1.instances.filter fun e => e.2.ctx = k).foldl (fun s e => endInstance s e.1) s1
  pumpAll { s2 with
    slots := s2.slots.filter fun e => e.2.ctx != k
    flights := s2.flights.filter fun f => f.ctx != k }

/-- Nothing is cached for a context any more (04 R92). -/
def dropCaches (s : State) (k : Nat) : State :=
  let s1 := flushLines (purgeRange s k true 0 0) (fun asid _ _ => asid = k) fun asid _ => asid = k
  { s1 with
    l1 := s1.l1.filter fun l => l.ctx != k
    parts := s1.parts.filter fun p => p.ctx != k
    sq := s1.sq.filter fun e => e.ctx != k
    late := s1.late.filter fun e => e.ctx != k
    written := s1.written.filter fun e => e.1 / 2 ^ 57 != k
    fetched := s1.fetched.filter fun f => f.asid != k }

/-- Removes one context whose children are gone: what it holds goes to `issuer`, its purse to its parent.
DEDUCED (unsafe), log entry 52; DEDUCED (unsafe), log entry 55. -/
def removeContext (issuer : Nat) (s : State) (k : Nat) : State :=
  match tblFind s.ctxs k with
  | none => s
  | some c =>
    let s1 := dropCaches (dropRelay (dropBlocks s k) k) k
    let s2 := (quadsOf s1 k).foldl (fun s q => moveQuad s q issuer) s1
    let s3 := (s2.queueHolder.filter fun e => e.2 = k).foldl (fun s e => revokeQueue s k e.1 issuer) s2
    let s4 := (s3.portHolder.filter fun e => e.2 = k).foldl (fun s e => movePort s e.1 issuer) s3
    let s5 := updCtx s4 c.parent fun p => { p with purse := p.purse + (c.purse.toNat : Int) }
    { s5 with ctxs := tblDel s5.ctxs k }

/-- The frames that a subtree holds, or that hold its maps. -/
def subtreeFrames (s : State) (x : Nat) : List Nat :=
  ((s.owners.filter fun e => e.2.state != .scrubbing && e.2.state != .global && under s x e.2.holder).map (·.1)) ++
    ((subtree s x).flatMap fun e => e.2.mapFrames).filter fun m => !scrubbing s m

/-- The commands of a context that are in no final state end cancelled (16 R379). DEDUCED (unsafe), log entry 52. -/
def cancelGrids (s : State) (k : Nat) : State :=
  (s.grids.filter fun e => e.2.ctx = k && !gridFinal e.2.state).foldl (fun s e => setGridState s e.1 .cancelled 0 0) s

/-- The whole subtree of a child returns to `issuer` (18 R421 `.all`). DEDUCED (unsafe), log entry 52. -/
def removeTree (s : State) (issuer x : Nat) : State :=
  let order := deepestFirst s x
  let s0 := order.foldl cancelGrids s
  let s1 := (subtreeFrames s0 x).foldl (fun s m => scrubFrame s x m) s0
  wake (order.foldl (removeContext issuer) s1)

def execCtxrevokeAll (g : Guard) (d : Dst) (a : Src) (s : State) : Host.Outcome State Fault Refusal :=
  ctxRequest (.ctxrevokeAll g d a) d (fun c ctx s =>
    let x := sNat c a
    onChild s ctx x fun _ =>
      match notStopped s x with
      | some y => ctxNo s 8 y
      | none => ctxOk (removeTree s ctx x) 0) s

/-! ### CTXRUN, CTXSTOP and CTXSW (18 R422-R425) -/

/-- A context runs again when `x` does (18 R422): `x` itself, and descendants that an ancestor's stop stopped. -/
def resumesWith (s : State) (x : Nat) : Nat → Nat → Bool
  | 0, k => k = x
  | n + 1, k =>
    k = x ||
    match tblFind s.ctxs k with
    | some c => c.state = .stopped && c.cause = 4 && resumesWith s x n c.parent
    | none => false

/-- An answer to a held group: its lanes exit, or it takes its trap (18 R431). DEDUCED (unsafe), log entry 56. -/
def answerHeld (s : State) (gid : Nat) : Option Trap → State
  | none => killGroup s gid 0x22
  | some t => enterHandler s gid t

/-- The answers that a context's held groups have waited with take effect as it runs (18 R431).
DEDUCED (unsafe), log entry 56. -/
def takeAnswers (s : State) (k : Nat) : State :=
  let due (e : Nat × Option Trap) : Bool := (tblFind s.groups e.1).any fun g => ctxOf s g = k
  (s.answers.filter due).foldl (fun s e => answerHeld s e.1 e.2) { s with answers := s.answers.filter fun e => !due e }

/-- A context takes state running, with its slice; the curfews of its inns go on, and its relay packets without an
acknowledgement are sent again (14 R349). -/
def startCtx (s : State) (slice D : Nat) (k : Nat) : State :=
  let s1 := updCtx s k fun c => { c with
    state := .running, cause := 0, stop := none, saved := false, slice := slice, sliceD := D
    sliceEnd := if slice = 0 then none else some (s.clock + slice) }
  let s2 := resendAfter s1 fun f => f.ctx = k && !(s.porterOps.any fun e => ofOp e.1 f)
  takeAnswers { s2 with inns := tblMap s2.inns fun _ x =>
      if (tblFind s.grids x.grid).any fun g => g.ctx = k then { x with timer := x.timer.map (s.clock + ·) } else x } k

/-- A child runs, with its descendants that run again; one whose purse is not above zero stops at once (18 R433).
DEDUCED (unsafe), log entry 49. -/
def runTree (s : State) (x slice D : Nat) : State :=
  let l := (s.ctxs.filter fun e => e.1 != x && resumesWith s x 9 e.1).map (·.1)
  let s1 := l.foldl (fun s k =>
    match tblFind s.ctxs k with
    | some c => startCtx s c.slice c.sliceD k
    | none => s) (startCtx s slice D x)
  wake (pumpAll (l.foldl (fun s k => exhaust s s k) s1))

/-- What refuses to run a child (18 R422, R425, R429): it would hold further quadrants.
DEDUCED (unsafe), log entry 50. -/
def runRefusal (s : State) (x : Nat) (k : Context) (more : List Nat) : Option Nat :=
  if ctxLive k then some 8
  else if k.purse ≤ 0 then some 12
  else if (partitionsOk s x (more.map fun q => some (partitionOf s (dieOfQuad q)))).isSome then some 6
  else if !savesFit s x k more 0 then some 10
  else none

/-- A context is running. -/
def ctxRuns (s : State) (k : Nat) : Bool := (tblFind s.ctxs k).any fun c => c.state = .running

/-- A child runs, unless the issuer itself is stopping (18 R412). DEDUCED (unsafe), log entry 49. -/
def execCtxrun (g : Guard) (d : Dst) (a b : Src) (deadline : BitVec 32) (s : State) :
    Host.Outcome State Fault Refusal :=
  ctxRequest (.ctxrun g d a b deadline) d (fun c ctx s =>
    let x := sNat c a
    onChild s ctx x fun k =>
      match runRefusal s x k [] with
      | some st => ctxNo s st 0
      | none =>
        if s.busy then ctxNo s 8 0
        else if !ctxRuns s ctx then ctxNo s 3 0
        else ctxOk (runTree s x (sNat c b) deadline.toNat) 0) s

/-- CTXSTOP `.ckpt` records the checkpoint (18 R437). DEDUCED (unsafe), log entry 47. -/
def recordCkpt (s : State) (x : Nat) (k : Context) : State :=
  if k.state = .new then s else updCtx s x fun c => { c with ckseq := c.nextSeq - 1, ndet := false }

/-- DEDUCED (unsafe), log entry 47; DEDUCED (unsafe), log entry 49. -/
def execCtxstop (g : Guard) (save ckpt : Bool) (d : Dst) (a : Src) (deadline : BitVec 32) (s : State) :
    Host.Outcome State Fault Refusal :=
  issue (.ctxstop g save ckpt d a deadline) (fun c s =>
    let reply (s : State) (w : Long) : Act := answered (hearEngine s c.gid) c d w
    match c.p.await with
    | some (.answer x) => if treeStopping s x.toNat then .wait else reply s 0
    | _ =>
      if drainHeld s (ownStore s c.g) then .wait
      else
      let s := drainGroup s c.g
      let x := sNat c a
      match childOf s (ctxOf s c.g) x with
      | none => reply s 1
      | some k =>
        if k.state = .stopping then reply s 3
        else
          let s1 := if ckpt then recordCkpt s x k else s
          if k.state != .running then reply s1 0
          else
            awaiting (wake (stopTree s1 x 1 ⟨deadline.toNat, s.clock, save || ckpt⟩)) c d
              (.answer (BitVec.ofNat 64 x))) s

/-- The guestbook entry of a sequence number holds no command that is not final (16 R378). -/
def bookFree (s : State) (ctx : Nat) (c : Context) : Bool :=
  s.grids.all fun e => e.2.ctx != ctx || gridFinal e.2.state || (e.2.seq + 2 ^ c.gblog2 - c.nextSeq) % 2 ^ c.gblog2 != 0

/-- The guestbook's record of a CTXSW (18 R425). -/
def switchGrid (ctx seq out inc : Nat) : Grid where
  ctx := ctx
  seq := seq
  state := .accepted
  cause := 0
  detail := 0
  queue := 0xFFFF
  qidx := 0
  launched := false
  parent := 0
  parentBlock := 0
  depth := 0
  image := BitVec.ofNat 64 (out % 2 ^ 16 + inc % 2 ^ 16 * 2 ^ 16)
  desc := parseDesc []
  hdr := noHeader
  cls := 0
  ready := false
  admitted := false
  nextBlock := 0
  coaches := 0
  runs := 0
  runClocks := 0
  failure := none
  energy := 0
  start := Times.zero
  ends := Times.zero

/-- Steps 2 and 3 of a switch. -/
def switchTree (s : State) (ctx out inc slice D : Nat) (me : Context) : CtxReply :=
  let id := s.fresh
  let s1 : State := { updCtx s ctx fun k => { k with nextSeq := k.nextSeq + 1 } with
    fresh := id + 1, grids := tblPut s.grids id (switchGrid ctx me.nextSeq out inc) }
  let s2 := guestbookWrite s1 id
  let drop (s : State) : State := { s with grids := tblDel s.grids id }
  if !ctxRuns s2 ctx then
    ctxNo (drop (setGridState s2 id .cancelled 0 0)) 3 1
  else
    let s3 := (quadsOf s2 out).foldl (fun s q => moveQuad s q inc) s2
    ctxOk (drop (setGridState (runTree s3 inc slice D) id .complete 0 0)) 0

/-- A switch waits for a free entry of the issuer's guestbook, with the operands of its issue. When the issuer's sources
close before there is one, it ends with nothing done (18 R425). DEDUCED (unsafe), log entry 49. -/
def execCtxsw (g : Guard) (d : Dst) (a b cc : Src) (deadline : BitVec 32) (s : State) :
    Host.Outcome State Fault Refusal :=
  issue (.ctxsw g d a b cc deadline) (fun c s =>
    let ctx := ctxOf s c.g
    let begun : Option Nat := match c.p.await with
      | some (.io k) => some k
      | _ => none
    let args : List Long := match begun.bind (tblFind s.ios) with
      | some io => io.args
      | none => [sGet c.g a.reg.toNat, sGet c.g b.reg.toNat, sGet c.g cc.reg.toNat]
    let arg (i : Nat) : Nat := (args.getD i 0).toNat
    let out : Nat := arg 0
    let inc : Nat := arg 1
    let ended (s : State) : State := { s with ios := match begun with | some k => tblDel s.ios k | none => s.ios }
    let reply (r : CtxReply) : Act := answered (hearEngine (ended r.s) c.gid) c d r.word
    if drainHeld s (ownStore s c.g) then .wait
    else
    let s := drainGroup s c.g
    match tblFind s.ctxs ctx, childOf s ctx out, childOf s ctx inc with
    | some me, some o, some n =>
      if begun.isSome && !ctxRuns s ctx then reply (ctxNo s 3 1) else
      let onward := (subtree s out).any fun e => e.1 != out && quadsOf s e.1 != []
      if o.state != .stopped || onward then reply (ctxNo s 8 0)
      else
        match runRefusal s inc n (if out = inc then [] else quadsOf s out) with
        | some st => reply (ctxNo s st 0)
        | none =>
          if s.busy then reply (ctxNo s 8 0)
          else if bookFree s ctx me then reply (switchTree s ctx out inc (arg 2) deadline.toNat me)
          else if !ctxRuns s ctx then reply (ctxNo s 3 1)
          else if begun.isSome then .wait
          else awaiting { s with fresh := s.fresh + 1, ios := tblPut s.ios s.fresh ⟨c.gid, 0, [], [], args, []⟩ } c d (.io s.fresh)
    | _, _, _ => reply (ctxNo s 1 0)) s

/-! ### CTXQRY (18 R436) -/

def stateNum : CtxState → Nat
  | .new => 0 | .running => 1 | .stopping => 2 | .stopped => 3

/-- The owner-table entry of a frame (04 R104). -/
def ownerWord (o : Owner) : Nat :=
  (match o.state with | .held => 0 | .scrubbing => 1 | .larder => 2 | .global => 3) * 2 ^ 62 + o.holder % 2 ^ 16 * 2 ^ 16 +
    o.scrubs.toNat

/-- Frames that the machine's address map populates (01 R25). DEDUCED (unsafe), log entry 53. -/
def populatedCount (s : State) : Nat := 393216 + s.secondTier + 524288 + 524288 + 8192 + 128

/-- Valid entries of a context's frame map. DEDUCED (unsafe), log entry 53. -/
def validEntries (s : State) (k : Nat) (c : Context) : Nat :=
  if k = 1 then
    populatedCount s - (c.map.filter fun e => e.2.state != .valid).length - c.save.length
  else (c.map.filter fun e => e.2.state = .valid).length

/-- A field of a context, for an issuer that names it. DEDUCED (unsafe), log entry 53. -/
def queryField (s : State) (ctx k : Nat) (c : Context) (fld b : Nat) : Option Nat :=
  match fld with
  | 0 => some (c.depth * 2 ^ 40 + c.cause * 2 ^ 32 + c.parent % 2 ^ 16 * 2 ^ 16 + stateNum c.state)
  | 1 => some (quadsOf s k).length
  | 2 =>
    if b % 64 != 0 then none
    else some ((List.range 64).foldl (fun n i => n + (if b + i < 640 && quadHolder s (b + i) = k then 2 ^ i else 0)) 0)
  | 3 => some (validEntries s k c)
  | 4 => some (c.map.filter fun e => e.2.state = .larder).length
  | 5 => some (c.save.length * 2 ^ 32 + needOf s k c [] 0 / 4096 % 2 ^ 32)
  | 6 => some (capOf k c * 2 ^ 32 + c.relayG)
  | 7 => some (one c.ndet * 2 ^ 63 + c.ckseq % 2 ^ 63)
  | 8 => (mapEntry s ctx b).map fun e => ownerWord (ownerOf s e.mfn)
  | 9 => some (s.ctxs.filter fun e => e.2.parent = k).length
  | _ => none

def execCtxqry (g : Guard) (d : Dst) (a b : Src) (fld : BitVec 8) (pd : BitVec 3) (s : State) :
    Host.Outcome State Fault Refusal :=
  issue (.ctxqry g d a b fld pd) (fun c s =>
    if drainHeld s (ownStore s c.g) then .wait
    else
    let s := drainGroup s c.g
    let ctx := ctxOf s c.g
    let x := sNat c a
    let k := if x = 0 then ctx else x
    let t := if x = 0 then tblFind s.ctxs ctx else childOf s ctx x
    let r := t.bind fun rec_ => queryField s ctx k rec_ fld.toNat (sNat c b)
    let s1 := updGroup s c.gid fun g => pSet g pd.toNat c.act (if r.isSome then allLanes else 0)
    answered (hearEngine s1 c.gid) c d (BitVec.ofNat 64 (r.getD 0))) s

/-! ### CTXREFL (18 R431) -/

/-- The held group of a context with a serial number. DEDUCED (unsafe), log entry 45. -/
def heldGroup (s : State) (k : Nat) (serial : Long) : Option (Nat × Group × Trap) :=
  s.groups.findSome? fun e =>
    match e.2.held with
    | some t => if ctxOf s e.2 = k && e.2.serial = serial then some (e.1, e.2, t) else none
    | none => none

/-- The group goes on at its trap, as RTE does, at the PC that was recorded, which is not checked (02 R31).
DEDUCED (unsafe), log entry 56. -/
def retryHeld (s : State) (gid : Nat) (g : Group) (t : Trap) : State :=
  let s1 : State :=
    if t.cls = 0x13 then
      { s with fetched := s.fetched.filter fun f =>
          !(f.quad = g.quad && f.asid = asidOf (ctxOf s g) t.pc && f.va = t.pc.toNat / 64 * 64) }
    else s
  updGroup s1 gid fun g => { updPath g t.path fun p =>
      let p := { p with checked := false }
      if t.cls = 0x0A then { p with replay := some t.mask }
      else { p with pc := t.pc, enter := p.enter || p.pc != t.pc } with held := none }

/-- The trap that a reflected group's handler sees: the records that the parent received.
DEDUCED (unsafe), log entry 56. -/
def reflected (t : Trap) : Trap :=
  if t.cls = 0x0A then
    { t with
      recs := parentRecs t
      cause := match parentRecs t with
        | e :: _ => bits e.2.toNat 135 128
        | [] => t.cause }
  else t

/-- A held group's answer takes effect: at once, or for a stopped child when it runs (18 R431).
DEDUCED (unsafe), log entry 56. -/
def endHold (s : State) (child : Context) (gid : Nat) (t : Option Trap) : State :=
  let s1 := updGroup s gid fun g => { g with held := none }
  if child.state = .stopped then { s1 with answers := tblPut s1.answers gid t } else answerHeld s1 gid t

/-- DEDUCED (unsafe), log entry 45; DEDUCED (unsafe), log entry 56. -/
def execCtxrefl (g : Guard) (k : ReflKind) (d : Dst) (a b : Src) (s : State) : Host.Outcome State Fault Refusal :=
  ctxRequest (.ctxrefl g k d a b) d (fun c ctx s =>
    let x := sNat c a
    onChild s ctx x fun child =>
      match heldGroup s x (sGet c.g b.reg.toNat) with
      | none => ctxNo s 11 0
      | some (gid, grp, t) =>
        match k with
        | .retry => ctxOk (wake (retryHeld s gid grp t)) 0
        | .refl => ctxOk (wake (endHold s child gid (some (reflected t)))) 0
        | .kill => ctxOk (wake (endHold s child gid none)) 0) s

/-! ### INVLVA (04 R110) -/

/-- Purges translations, and with `lines` the cached lines, of an ASID in [lo, hi) or all of them. -/
def invalidate (s : State) (asid : Nat) (all lines : Bool) (lo hi : Nat) : State :=
  let s1 := purgeRange s asid all lo hi
  let at_ (a va n : Nat) : Bool := a = asid && (all || (lo < va + n && va < hi))
  if !lines then s1
  else
    let s2 := flushLines s1 (fun a va _ => at_ a va 128) fun a va => at_ a va 128
    { s2 with l1 := s2.l1.filter fun l => !at_ l.asid l.va 128 }

/-- The effect of INVLVA and its status. -/
def invalidateVa (s : State) (ctx : Nat) (sel : InvSel) (lines : Bool) (a len : Long) : State × Nat :=
  let last := a + len - 1
  match sel with
  | .asid => (invalidate s ctx true lines 0 0, 0)
  | .range | .glob =>
    let glob := sel = .glob
    if len = 0 then (s, 0)
    else if !canonical a || !canonical last || isGlobal a != isGlobal last || isGlobal a != glob then (s, 2)
    else if glob && ctx != 1 then (s, 3)
    else
      let all := !glob && 2 ^ 39 < len.toNat
      let lo := a.toNat / 4096 * 4096
      let hi := (a.toNat + len.toNat + 4095) / 4096 * 4096
      (invalidate s (if glob then 0 else ctx) all lines lo hi, one all)

def execInvlva (g : Guard) (sel : InvSel) (lines : Bool) (d : Dst) (a b : Option Src) (s : State) :
    Host.Outcome State Fault Refusal :=
  issue (.invlva g sel lines d a b) (fun c s =>
    let v (x : Option Src) : Long := match x with
      | some r => sGet c.g r.reg.toNat
      | none => 0
    if drainHeld s (ownStore s c.g) then .wait
    else
    let (s1, st) := invalidateVa (drainGroup s c.g) (ctxOf s c.g) sel lines (v a) (v b)
    answered s1 c d (BitVec.ofNat 64 st)) s

end Sys2Proof.Machine
end

