-- ==== Sys2Proof/Machine/Transcend.lean ====
section
/-! DEFINITION. The exact mathematical functions of 11 R258, correctly rounded: integer arithmetic at scale 2^P whose
error stays below 2^32 units, with P doubled until both ends of the error interval round to the same bits. -/

namespace Sys2Proof.Machine

/-- Error bound, in units of 2^-P, of every approximation of this file. -/
def approxErr : Int := 2 ^ 32

/-- x / 2^P times 2^e as a value. -/
def fixVal (x : Int) (P : Nat) (e : Int) : Val := scale2 (decide (x < 0)) x.natAbs (2 ^ P) e

/-- Rounds a function known by approximations: `f P` is within the bound of the function's value times 2^(P-e).
DEDUCED (safe), log entry 19. -/
def roundApprox (fm : FloatFmt) (f : Nat → Int × Int) : List Nat → Nat
  | [] => 0
  | P :: r =>
    let (x, e) := f P
    let lo := roundTo fm .rne (fixVal (x - approxErr) P e)
    let hi := roundTo fm .rne (fixVal (x + approxErr) P e)
    if lo = hi || r.isEmpty then lo else roundApprox fm f r

/-- The scales that are tried in turn. DEDUCED (safe), log entry 19. -/
def approxScales : List Nat := [256, 512, 1024, 2048]

/-! ### Series -/

/-- The alternating sum of S / (k^(2i+1) (2i+1)): the arc tangent of 1/k, `t` being S / k^(2i+1). -/
def atanTerms (kk : Nat) : Nat → Nat → Nat → Int
  | 0, _, _ => 0
  | n + 1, t, i => if t = 0 then 0 else ((t / (2 * i + 1) : Nat) : Int) - atanTerms kk n (t / kk) (i + 1)

/-- π at scale 2^P, by Machin's formula. -/
def piFix (P : Nat) : Nat :=
  let S := 2 ^ P
  (16 * atanTerms 25 P (S / 5) 0 - 4 * atanTerms 57121 P (S / 239) 0).toNat

/-- The sum of t / (2i+1) with t shrinking by z^2 / 2^(2P): the inverse hyperbolic tangent of z / 2^P. -/
def atanhTerms (P zz : Nat) : Nat → Nat → Nat → Nat
  | 0, _, _ => 0
  | n + 1, t, i => if t = 0 then 0 else t / (2 * i + 1) + atanhTerms P zz n (t * zz / 2 ^ P) (i + 1)

/-- ln((2^P + z) / (2^P - z)) at scale 2^P. -/
def lnRatio (P z : Nat) : Nat := 2 * atanhTerms P (z * z / 2 ^ P) P z 0

/-- ln 2 at scale 2^P. -/
def ln2Fix (P : Nat) : Nat := lnRatio P (2 ^ P / 3)

/-- The sum of y^i / i! from the term t on. -/
def expTerms (P y : Nat) : Nat → Nat → Nat → Nat
  | 0, _, _ => 0
  | n + 1, t, i => if t = 0 then 0 else t + expTerms P y n (t * y / 2 ^ P / (i + 1)) (i + 1)

/-- e^(y / 2^P) at scale 2^P, for y below 2^(P+1). -/
def expFix (P y : Nat) : Nat := expTerms P y (P + 64) (2 ^ P) 0

/-- e^(-y / 2^P) at scale 2^P. -/
def expNegFix (P y : Nat) : Nat :=
  let l2 := ln2Fix P
  let m := y / l2
  4 ^ P / expFix P (y % l2) / 2 ^ m

/-- The alternating sum of t shrinking by y^2 / ((i+1)(i+2)). -/
def trigTerms (P yy : Nat) : Nat → Nat → Nat → Int
  | 0, _, _ => 0
  | n + 1, t, i => if t = 0 then 0 else (t : Int) - trigTerms P yy n (t * yy / 2 ^ P / ((i + 1) * (i + 2))) (i + 2)

def sinFix (P y : Nat) : Int := trigTerms P (y * y / 2 ^ P) (P + 64) y 1
def cosFix (P y : Nat) : Int := trigTerms P (y * y / 2 ^ P) (P + 64) (2 ^ P) 0

/-- The sum of x (2 x^2)^i / (1 3 5 ... (2i+1)). -/
def erfTerms (P xx : Nat) : Nat → Nat → Nat → Nat
  | 0, _, _ => 0
  | n + 1, t, i => if t = 0 then 0 else t + erfTerms P xx n (2 * t * xx / 2 ^ P / (2 * i + 3)) (i + 1)

/-! ### The functions of a positive n/d -/

/-- n/d at scale 2^P. -/
def fixOf (P n d : Nat) : Nat := n * 2 ^ P / d

/-- 2^x, by the whole and the fractional part of x. -/
def exp2Approx (neg : Bool) (n d P : Nat) : Int × Int :=
  let x := fixOf P n d
  let (w, f) : Int × Nat :=
    if neg then
      let c := (x + 2 ^ P - 1) / 2 ^ P
      (-(c : Int), c * 2 ^ P - x)
    else (((x / 2 ^ P : Nat) : Int), x % 2 ^ P)
  (expFix P (f * ln2Fix P / 2 ^ P), w)

def log2Approx (n d P : Nat) : Int × Int :=
  let e := floorLog2 n d
  -- m = n / (d 2^e) lies in [1, 2); (m - 1) / (m + 1) is a ratio of integers
  let N := if 0 ≤ e then n else n * 2 ^ (-e).toNat
  let D := if 0 ≤ e then d * 2 ^ e.toNat else d
  let l := lnRatio P ((N - D) * 2 ^ P / (N + D))
  (e * 2 ^ P + ((l * 2 ^ P / ln2Fix P : Nat) : Int), 0)

def tanhApprox (n d P : Nat) : Int × Int :=
  if 64 * d ≤ n then (2 ^ P - 2 ^ (P - 90), 0)
  else
    let u := expNegFix P (2 * fixOf P n d)
    ((((2 ^ P - u) * 2 ^ P / (2 ^ P + u) : Nat) : Int), 0)

def erfApprox (n d P : Nat) : Int × Int :=
  if 8 * d ≤ n then (2 ^ P - 2 ^ (P - 90), 0)
  else
    let Q := P + 128
    let x := fixOf Q n d
    let xx := x * x / 2 ^ Q
    let sum := erfTerms Q xx (2 * Q) x 0
    let root := isqrt (piFix Q * 2 ^ Q)
    (((2 * sum * expNegFix Q xx / root / 2 ^ (Q - P) : Nat) : Int), 0)

/-- The sine of n/d, or with `quarter` 1 the cosine: the argument is reduced by π/2 exactly (11 R258). -/
def trigApprox (quarter n d P : Nat) : Int × Int :=
  let Q := P + 192
  let x := fixOf Q n d
  let h := piFix Q / 2
  let y := x % h / 2 ^ (Q - P)
  let v : Int :=
    match (x / h + quarter) % 4 with
    | 0 => sinFix P y
    | 1 => cosFix P y
    | 2 => -(sinFix P y)
    | _ => -(cosFix P y)
  (v, 0)

/-! ### The instructions' functions, with their special operands (11 R258) -/

inductive Trans where
  | exp2 | log2 | tanh | erf | sin | cos
  deriving DecidableEq, Repr

/-- ±1. -/
def oneBits (f : FloatFmt) (neg : Bool) : Nat := roundTo f .rne (.fin neg 1 1)

/-- One result of a transcendental instruction (11 R258).
DEDUCED (unsafe), log entry 18; DEDUCED (safe), log entry 19. -/
def transcend (t : Trans) (f : FloatFmt) (y : Nat) : Nat :=
  let signed (neg : Bool) (g : Nat → Int × Int) : Nat :=
    roundApprox f (fun P => let (x, e) := g P; (if neg then -x else x, e)) approxScales
  match t, valOf f y with
  | _, .nan => f.nanb
  | .exp2, .inf neg => if neg then 0 else overflow f false .rne
  | .log2, .inf neg => if neg then f.nanb else overflow f false .rne
  | .tanh, .inf neg | .erf, .inf neg => oneBits f neg
  | .sin, .inf _ | .cos, .inf _ => f.nanb
  | .exp2, .fin neg n d =>
    if n = 0 then oneBits f false
    else if 1000 * d ≤ n then (if neg then 0 else overflow f false .rne)
    else if n % d = 0 then roundTo f .rne (scale2 false 1 1 (if neg then -((n / d : Nat) : Int) else ((n / d : Nat) : Int)))
    else roundApprox f (exp2Approx neg n d) approxScales
  | .log2, .fin neg n d =>
    if n = 0 then overflow f true .rne
    else if neg then f.nanb
    else if n = d then 0
    else roundApprox f (log2Approx n d) approxScales
  | .tanh, .fin neg n d => if n = 0 then y % 2 ^ f.width else signed neg (tanhApprox n d)
  | .erf, .fin neg n d => if n = 0 then y % 2 ^ f.width else signed neg (erfApprox n d)
  | .sin, .fin neg n d => if n = 0 then y % 2 ^ f.width else signed neg (trigApprox 0 n d)
  | .cos, .fin _ n d => if n = 0 then oneBits f false else roundApprox f (trigApprox 1 n d) approxScales

end Sys2Proof.Machine
end

