-- ==== Sys2Proof/Machine/Float.lean ====
section
/-! DEFINITION. Opcodes 0x58-0x72: floating point, conversion and group quantisation (11 R250-R265). -/

namespace Sys2Proof.Machine

/-! ### Operands and results (11 R250, R251) -/

/-- The element format of a floating TYPE. -/
def elemFmt (t : Fmt) : FloatFmt := (floatFmt t).getD fp32

/-- The bits that a packed or unpacked register takes: element i is `f i`. -/
def packWith (t : Fmt) (f : Nat → Nat) : Nat := packElems (elemBits t) ((List.range t.elems).map f)

/-- An FP32 immediate rounded to the element format and replicated (11 R250). -/
def immElems (t : Fmt) (v : BitVec 32) : Nat := packWith t fun _ => roundTo (elemFmt t) .rne (valOf fp32 v.toNat)

/-- The register bits of a float source in a lane. -/
def fltA (c : Ins) (a : Src) (l : Nat) : Nat := (srcVal c.g c.p a 1 l).toNat % 2 ^ 32
def fltB (c : Ins) (t : Fmt) (b : BOpd) (l : Nat) : Nat :=
  match b with
  | .reg x => fltA c x l
  | .imm v => immElems t v

/-- Bits of an element, and their value. -/
def elemVal (t : Fmt) (x i : Nat) : Val := valOf (elemFmt t) (elemOf t x i)

/-- A result of float elements: `f l i` are the bits of element i in lane l. -/
def fltResult (c : Ins) (s : State) (t : Fmt) (d : Dst) (f : Nat → Nat → Nat) : Act :=
  result c s d 1 fun l => BitVec.ofNat 64 (packWith t (f l))

/-- A mode that rounds an exact zero sum to −0. -/
def isDown (rm : RMode) : Bool := rm = .rdn

/-- An operation on the values of two sources, rounded once. DEDUCED (unsafe), log entry 24. -/
def fltTwo (c : Ins) (s : State) (t : Fmt) (rm : RMode) (d : Dst) (a : Src) (b : BOpd) (op : Val → Val → Val) : Act :=
  fltResult c s t d fun l i =>
    roundIeee (elemFmt t) (rndOf rm) (op (elemVal t (fltA c a l) i) (elemVal t (fltB c t b l) i))

/-- An operation on the value of one source, rounded once. DEDUCED (unsafe), log entry 24. -/
def fltOne (c : Ins) (s : State) (t : Fmt) (rm : RMode) (d : Dst) (a : Src) (op : Val → Val) : Act :=
  fltResult c s t d fun l i => roundIeee (elemFmt t) (rndOf rm) (op (elemVal t (fltA c a l) i))

/-- A transcendental of each element. -/
def fltTrans (c : Ins) (s : State) (t : Fmt) (d : Dst) (a : Src) (k : Trans) : Act :=
  fltResult c s t d fun l i => transcend k (elemFmt t) (elemOf t (fltA c a l) i)

/-! ### Arithmetic (11 R255) -/

def execFadd (g : Guard) (rm : RMode) (ty : Fmt) (d : Dst) (a : Src) (b : BOpd) (s : State) :
    Host.Outcome State Fault Refusal :=
  issue (.fadd g rm ty d a b) (fun c s => fltTwo c s ty rm d a b (vAdd (isDown rm))) s

def execFsub (g : Guard) (rm : RMode) (ty : Fmt) (d : Dst) (a : Src) (b : BOpd) (s : State) :
    Host.Outcome State Fault Refusal :=
  issue (.fsub g rm ty d a b) (fun c s => fltTwo c s ty rm d a b fun x y => vAdd (isDown rm) x (vNeg y)) s

def execFmul (g : Guard) (rm : RMode) (ty : Fmt) (d : Dst) (a : Src) (b : BOpd) (s : State) :
    Host.Outcome State Fault Refusal :=
  issue (.fmul g rm ty d a b) (fun c s => fltTwo c s ty rm d a b vMul) s

def execFfma (g : Guard) (rm : RMode) (ty : Fmt) (d : Dst) (a : Src) (b : BOpd) (cc : Src) (s : State) :
    Host.Outcome State Fault Refusal :=
  issue (.ffma g rm ty d a b cc) (fun c s => fltResult c s ty d fun l i =>
    roundIeee (elemFmt ty) (rndOf rm)
      (vAdd (isDown rm) (vMul (elemVal ty (fltA c a l) i) (elemVal ty (fltB c ty b l) i)) (elemVal ty (fltA c cc l) i))) s

def execFdiv (g : Guard) (rm : RMode) (ty : Fmt) (d : Dst) (a : Src) (b : BOpd) (s : State) :
    Host.Outcome State Fault Refusal :=
  issue (.fdiv g rm ty d a b) (fun c s => fltTwo c s ty rm d a b vDiv) s

/-- A value times 2^k. Beyond 2^±1000 every format here has rounded alike. -/
def scaleBy (k : Int) : Val → Val
  | .nan => .nan
  | .inf neg => .inf neg
  | .fin neg n d =>
    let e := clampInt k (-1000) 1000
    if 0 ≤ e then .fin neg (n * 2 ^ e.toNat) d else .fin neg n (d * 2 ^ (-e).toNat)

def execFscale (g : Guard) (rm : RMode) (ty : Fmt) (d : Dst) (a : Src) (b : BOpd) (s : State) :
    Host.Outcome State Fault Refusal :=
  issue (.fscale g rm ty d a b) (fun c s => fltResult c s ty d fun l i =>
    roundIeee (elemFmt ty) (rndOf rm)
      (scaleBy (intOf 32 true (bVal c.g c.p b 1 false l).toNat) (elemVal ty (fltA c a l) i))) s

/-- The integer nearest in the direction of the mode; a zero keeps the sign (11 R255). -/
def vRound (m : Rnd) : Val → Val
  | .nan => .nan
  | .inf neg => .inf neg
  | .fin neg n d => .fin neg (roundInt m neg n d) 1

/-- DEDUCED (unsafe), log entry 24. -/
def execFrnd (g : Guard) (rm : RMode) (ty : Fmt) (d : Dst) (a : Src) (s : State) : Host.Outcome State Fault Refusal :=
  issue (.frnd g rm ty d a) (fun c s => fltResult c s ty d fun l i =>
    let f := elemFmt ty
    match elemVal ty (fltA c a l) i with
    | .inf _ => elemOf ty (fltA c a l) i
    | v => roundIeee f (rndOf rm) (vRound (rndOf rm) v)) s

/-! ### Minimum, maximum, sign, comparison and class (11 R256, R257) -/

/-- FMIN and FMAX of bit patterns. -/
def fltPick (f : FloatFmt) (num : Bool) (second : Val → Val → Bool) (x y : Nat) : Nat :=
  let a := valOf f x
  let b := valOf f y
  if vIsNan a && vIsNan b then f.nanb
  else if vIsNan a then (if num then y else f.nanb)
  else if vIsNan b then (if num then x else f.nanb)
  else if second a b then y else x

def execFmin (g : Guard) (num : Bool) (ty : Fmt) (d : Dst) (a : Src) (b : BOpd) (s : State) :
    Host.Outcome State Fault Refusal :=
  issue (.fmin g num ty d a b) (fun c s => fltResult c s ty d fun l i =>
    fltPick (elemFmt ty) num (fun x y => vBelow y x) (elemOf ty (fltA c a l) i) (elemOf ty (fltB c ty b l) i)) s

def execFmax (g : Guard) (num : Bool) (ty : Fmt) (d : Dst) (a : Src) (b : BOpd) (s : State) :
    Host.Outcome State Fault Refusal :=
  issue (.fmax g num ty d a b) (fun c s => fltResult c s ty d fun l i =>
    fltPick (elemFmt ty) num (fun x y => vBelow x y) (elemOf ty (fltA c a l) i) (elemOf ty (fltB c ty b l) i)) s

def execFcpys (g : Guard) (m : SignMode) (ty : Fmt) (d : Dst) (a : Src) (b : BOpd) (s : State) :
    Host.Outcome State Fault Refusal :=
  issue (.fcpys g m ty d a b) (fun c s => fltResult c s ty d fun l i =>
    let w := (elemFmt ty).width
    let x := elemOf ty (fltA c a l) i
    let sb := bit (elemOf ty (fltB c ty b l) i) (w - 1)
    let neg := match m with
      | .cpy => sb
      | .neg => !sb
      | .xor => bit x (w - 1) != sb
    x % 2 ^ (w - 1) + one neg * 2 ^ (w - 1)) s

def cmpFlt (cc : FCmp) (a b : Val) : Bool :=
  let num := !vIsNan a && !vIsNan b
  match cc with
  | .eq => num && vEq a b
  | .ne => !num || !vEq a b
  | .lt => num && vLt a b
  | .le => num && (vLt a b || vEq a b)
  | .gt => num && vLt b a
  | .ge => num && (vLt b a || vEq a b)
  | .num => num
  | .nan => !num

def execFcmp (g : Guard) (cc : FCmp) (ty : Fmt) (a : Src) (b : BOpd) (w : PredWrite) (s : State) :
    Host.Outcome State Fault Refusal :=
  issue (.fcmp g cc ty a b w) (fun c s => predWrite c s w fun l =>
    cmpFlt cc (elemVal ty (fltA c a l) 0) (elemVal ty (fltB c ty b l) 0)) s

/-- The class bit of an element (11 R257). -/
def fltClass (f : FloatFmt) (y : Nat) : Nat :=
  match valOf f y with
  | .nan => 0
  | .inf neg => if neg then 1 else 8
  | .fin neg n _ =>
    if n = 0 then (if neg then 4 else 5)
    else if isSubnormal f y then (if neg then 3 else 6)
    else (if neg then 2 else 7)

def execFclass (g : Guard) (ty : Fmt) (a : Src) (b : BOpd) (w : PredWrite) (s : State) :
    Host.Outcome State Fault Refusal :=
  issue (.fclass g ty a b w) (fun c s => predWrite c s w fun l =>
    (List.range ty.elems).any fun i =>
      bit (bVal c.g c.p b 1 false l).toNat (fltClass (elemFmt ty) (elemOf ty (fltA c a l) i))) s

/-! ### Division, roots and transcendentals (11 R258) -/

def execFrcp (g : Guard) (rm : RMode) (ty : Fmt) (d : Dst) (a : Src) (s : State) : Host.Outcome State Fault Refusal :=
  issue (.frcp g rm ty d a) (fun c s => fltOne c s ty rm d a (vDiv vOne)) s

/-- 1/√ with its special operands: the root of the reciprocal, which keeps one rounding. -/
def vRsqrt : Val → Val
  | .nan => .nan
  | .inf neg => if neg then .nan else .fin false 0 1
  | .fin neg n d => if n = 0 then .inf neg else if neg then .nan else sqrtVal d n

def execFrsq (g : Guard) (rm : RMode) (ty : Fmt) (d : Dst) (a : Src) (s : State) : Host.Outcome State Fault Refusal :=
  issue (.frsq g rm ty d a) (fun c s => fltOne c s ty rm d a vRsqrt) s

def execFsqrt (g : Guard) (rm : RMode) (ty : Fmt) (d : Dst) (a : Src) (s : State) : Host.Outcome State Fault Refusal :=
  issue (.fsqrt g rm ty d a) (fun c s => fltOne c s ty rm d a vSqrt) s

def execFexp2 (g : Guard) (ty : Fmt) (d : Dst) (a : Src) (s : State) : Host.Outcome State Fault Refusal :=
  issue (.fexp2 g ty d a) (fun c s => fltTrans c s ty d a .exp2) s

def execFlog2 (g : Guard) (ty : Fmt) (d : Dst) (a : Src) (s : State) : Host.Outcome State Fault Refusal :=
  issue (.flog2 g ty d a) (fun c s => fltTrans c s ty d a .log2) s

def execFtanh (g : Guard) (ty : Fmt) (d : Dst) (a : Src) (s : State) : Host.Outcome State Fault Refusal :=
  issue (.ftanh g ty d a) (fun c s => fltTrans c s ty d a .tanh) s

def execFerf (g : Guard) (ty : Fmt) (d : Dst) (a : Src) (s : State) : Host.Outcome State Fault Refusal :=
  issue (.ferf g ty d a) (fun c s => fltTrans c s ty d a .erf) s

def execFsin (g : Guard) (ty : Fmt) (d : Dst) (a : Src) (s : State) : Host.Outcome State Fault Refusal :=
  issue (.fsin g ty d a) (fun c s => fltTrans c s ty d a .sin) s

def execFcos (g : Guard) (ty : Fmt) (d : Dst) (a : Src) (s : State) : Host.Outcome State Fault Refusal :=
  issue (.fcos g ty d a) (fun c s => fltTrans c s ty d a .cos) s

/-! ### Short dot products (11 R259) -/

/-- The exact sum of c and n products, rounded once. -/
def dotShort (w : Word) (nbv : Nat) (ta tb : Fmt) (a b c : Nat) : Nat :=
  let x (t : Fmt) (y i : Nat) : Val := valOf (elemFmt t) (flushFor w nbv t (elemOf t y i))
  roundTo fp32 .rne ((List.range ta.elems).foldl (fun s i => vAdd false s (vMul (x ta a i) (x tb b i))) (valOf fp32 c))

def execFdot2 (g : Guard) (ty : Fmt) (d : Dst) (a b cc : Src) (s : State) : Host.Outcome State Fault Refusal :=
  issue (.fdot2 g ty d a b cc) (fun c s => result c s d 1 fun l =>
    BitVec.ofNat 64 (dotShort c.p.fmt c.g.nbv ty ty (fltA c a l) (fltA c b l) (fltA c cc l))) s

/-- The format of B in FDOT4 `.mix`. -/
def otherFp8 : Fmt → Fmt
  | .e4m3x4 => .e5m2x4
  | _ => .e4m3x4

def execFdot4 (g : Guard) (mix : Bool) (ty : Fmt) (d : Dst) (a b cc : Src) (s : State) :
    Host.Outcome State Fault Refusal :=
  issue (.fdot4 g mix ty d a b cc) (fun c s => result c s d 1 fun l =>
    BitVec.ofNat 64 (dotShort c.p.fmt c.g.nbv ty (if mix then otherFp8 ty else ty) (fltA c a l) (fltA c b l) (fltA c cc l))) s

/-! ### Conversion (11 R260-R262) -/

/-- The mode that `fmt` gives an element (03 R74). -/
def fmtMode (w : Word) (seed lane i : Nat) : Rnd :=
  if fmtSr w then .sr (srhash (seed % 2 ^ 32) lane i / 2 ^ 8) else fmtCrnd w

/-- The bits of a converted value in its register: an integer narrower than the register is extended (03 R61). -/
def convBits (t : Fmt) (y : Nat) : Long :=
  match intFmt t with
  | some (n, sg) => if t.elems = 1 then extInt n sg y else BitVec.ofNat 64 y
  | none => BitVec.ofNat 64 y

def execCvt (g : Guard) (m : CvtMode) (sat : Bool) (elt : BitVec 2) (dt st : Fmt) (d : Dst) (a : Src) (s : State) :
    Host.Outcome State Fault Refusal :=
  issue (.cvt g m sat elt dt st d a) (fun c s =>
    result c s d dt.regs fun l =>
      let x := (srcVal c.g c.p a st.regs l).toNat
      let mode (i : Nat) : Rnd :=
        match m with
        | .fixed rm => rndOf rm
        | .fmt seed => fmtMode c.p.fmt (srcVal c.g c.p seed 1 l).toNat l i
      let sat1 := match m with
        | .fixed _ => sat
        | .fmt _ => sat || fmtSat c.p.fmt
      let elem (i : Nat) : Nat :=
        let j := if dt.elems = 1 then elt.toNat else i
        convertVal dt (mode i) sat1 (intFmt st).isSome (valAs st (flushFor c.p.fmt c.g.nbv st (elemOf st x j)))
      if dt.elems = 1 then convBits dt (elem 0) else BitVec.ofNat 64 (packWith dt elem)) s

/-- Element i of a block of lane registers, or of the pair that a latch holds. -/
def blockElem (c : Ins) (a : Src) (i l : Nat) : Nat :=
  if a.file = .lane then (vGet c.g (a.reg.toNat + i) l).toNat
  else (srcVal c.g c.p a 2 l).toNat / 2 ^ (32 * i) % 2 ^ 32

/-- DEDUCED (unsafe), log entry 17. -/
def execCvtn (g : Guard) (k : BitVec 3) (ty : Fmt) (d : Dst) (a seed : Src) (s : State) :
    Host.Outcome State Fault Refusal :=
  issue (.cvtn g k ty d a seed) (fun c s =>
    let scale := valOf fp32 (tblGet 0x3F800000 c.g.scl k.toNat).toNat
    result c s d 1 fun l =>
      let sd := (srcVal c.g c.p seed 1 l).toNat
      BitVec.ofNat 64 (packWith ty fun i =>
        convertVal ty (fmtMode c.p.fmt sd l i) (fmtSat c.p.fmt) false
          (vMul (valOf fp32 (blockElem c a i l)) scale))) s

/-! ### Group quantisation (11 R263-R265; 03 R66, R67) -/

/-- Bits of an element, least and greatest value of a group-scaled format. -/
def groupBits (t : Fmt) : Nat := if t = .int3g then 3 else 4
def groupLo (t : Fmt) : Int := if t = .int3g then -4 else if t = .uint4g then 0 else -8
def groupHi (t : Fmt) : Int := if t = .int3g then 3 else if t = .uint4g then 15 else 7

/-- A number clamped after an exact rounding; an infinity goes to an end. -/
def clampRound (m : Rnd) (z lo hi : Int) : Val → Int
  | .nan => z
  | .inf neg => if neg then lo else hi
  | .fin neg n d =>
    let r : Int := roundInt m neg n d
    clampInt ((if neg then -r else r) + z) lo hi

/-- One quantised element (11 R263). -/
def quantise (t : Fmt) (m : Rnd) (z : Nat) (s a : Val) : Int :=
  if vIsNan s || vIsInf s || vIsZero s || vIsNan a then z else clampRound m z (groupLo t) (groupHi t) (vDiv a s)

/-- A scale in SFMT encoding, as a register or an immediate holds it. -/
def sfmtVal (w : Word) (x : Nat) : Val :=
  let t := fmtSfmt w
  valAs t (x % 2 ^ elemBits t)

/-- The scale and the zero point of QNTG `.scale` (11 R264). -/
def groupScale (t sf : Fmt) (a b : Val) : Nat × Nat :=
  let bad (v : Val) : Bool := vIsNan v || vIsInf v
  if bad a || (t = .uint4g && bad b) then ((floatFmt sf).map (·.nanb) |>.getD 255, 0)
  else
    let r : Val :=
      if t = .uint4g then vDiv (vAdd false a (vNeg b)) (vInt 15)
      else vDiv (vAbs a) (vInt (if t = .int3g then 3 else 7))
    let low := vIsZero r || vNegSign r
    let s := convertVal sf .rup true false (if low then vOne else r)
    (s, if t = .uint4g then (clampRound .rne 0 0 15 (vDiv (vNeg b) (valAs sf s))).toNat else 0)

/-- Writes n consecutive lane registers. -/
def writeBlock (g : Group) (base n : Nat) (act : Lanes) (f : Nat → Nat → Nat) : Group :=
  (laneList act).foldl (fun g l => (List.range n).foldl (fun g k => vSet g (base + k) l (BitVec.ofNat 32 (f l k))) g) g

def execQntg (g : Guard) (scale : Bool) (rm : RMode) (ty : Fmt) (d : Dst) (a : Src) (b cc : Option Src) (s : State) :
    Host.Outcome State Fault Refusal :=
  issue (.qntg g scale rm ty d a b cc) (fun c s =>
    let opt (x : Option Src) (l : Nat) : Nat :=
      match x with
      | some x => fltA c x l
      | none => 0
    if scale then
      let r (l : Nat) : Nat × Nat := groupScale ty (fmtSfmt c.p.fmt) (valOf fp32 (fltA c a l)) (valOf fp32 (opt b l))
      groupDone s c fun g => writeBlock g d.reg.toNat 2 c.act fun l k => if k = 0 then (r l).1 else (r l).2
    else
      let n := if ty = .int3g then 32 else 8
      let word (l : Nat) : Nat :=
        packElems (groupBits ty) ((List.range n).map fun i =>
          truncInt (groupBits ty) (quantise ty (rndOf rm) (if ty = .uint4g then opt cc l % 16 else 0)
            (sfmtVal c.p.fmt (opt b l)) (valOf fp32 (vGet c.g (a.reg.toNat + i) l).toNat)))
      groupDone s c fun g =>
        writeBlock g d.reg.toNat (if ty = .int3g then 3 else 1) c.act fun l k => word l / 2 ^ (32 * k)) s

/-- `expand` of 03 R67: the code of element i of a unit. -/
def expandElem (t : Fmt) (unit i z : Nat) : Int :=
  let n := groupBits t
  intOf n (t != .uint4g) (unit / 2 ^ (n * i)) - (if t = .uint4g then (z % 16 : Int) else 0)

/-- One expanded weight (11 R265): a zero weight times a finite scale is +0. -/
def dequantise (q : Int) (s : Val) : Nat :=
  if q = 0 && !vIsNan s && !vIsInf s then 0 else roundTo fp32 .rne (vMul (vInt q) s)

def execDqnt (g : Guard) (grp : BitVec 2) (ty : Fmt) (d : Dst) (a b : Src) (cc : Option Src) (s : State) :
    Host.Outcome State Fault Refusal :=
  issue (.dqnt g grp ty d a b cc) (fun c s =>
    groupDone s c fun g => writeBlock g d.reg.toNat 8 c.act fun l k =>
      let unit :=
        if ty = .int3g then packElems 32 ((List.range 3).map fun i => (vGet c.g (a.reg.toNat + i) l).toNat)
        else fltA c a l
      let z := match cc with
        | some x => fltA c x l
        | none => 0
      dequantise (expandElem ty unit (8 * grp.toNat + k) z) (sfmtVal c.p.fmt (fltA c b l))) s

end Sys2Proof.Machine
end

