-- ==== Sys2Proof/Machine/CrossLane.lean ====
section
/-! DEFINITION. Opcodes 0x78-0x80: the cross-lane instructions (10 R238-R249). -/

namespace Sys2Proof.Machine

/-! ### Shuffle, vote, match (10 R241, R242) -/

/-- The source lane of SHFL, if one of 0-31. -/
def shflLane (m : ShflMode) (l : Nat) (b : Long) : Option Nat :=
  let k := b.toNat % 2 ^ 32
  match m with
  | .idx => some (k % 32)
  | .up => if k ≤ l then some (l - k) else none
  | .down => if l + k < 32 then some (l + k) else none
  | .xor => some (Nat.xor l (k % 32))

/-- DEDUCED (unsafe), log entry 25. -/
def execShfl (g : Guard) (m : ShflMode) (ty : Fmt) (d : Dst) (a : Src) (b : BOpd) (pv : Option (BitVec 3)) (s : State) :
    Host.Outcome State Fault Refusal :=
  issue (.shfl g m ty d a b pv) (fun c s =>
    let src (l : Nat) : Option Nat := (shflLane m l (bVal c.g c.p b 1 false l)).filter fun k => c.act.getLsbD k
    groupDone s c fun g =>
      let g1 := writeDst g d ty.regs c.act fun l => srcVal c.g c.p a ty.regs ((src l).getD l)
      match pv with
      | none => g1
      | some p => pSet g1 p.toNat c.act (laneMask fun l => (src l).isSome)) s

def execVote (g : Guard) (m : VoteMode) (q : Pred) (pd : BitVec 3) (ballot : Option Dst) (s : State) :
    Host.Outcome State Fault Refusal :=
  issue (.vote g m q pd ballot) (fun c s =>
    let x := predLanes c.g q &&& c.act
    match ballot with
    | some d => result c s d 1 fun _ => x.setWidth 64
    | none =>
      let r : Bool := match m with
        | .all => x = c.act
        | .any => x != 0
        | .uni => x = c.act || x = 0
      groupDone s c fun g => pSet g pd.toNat c.act (if r then allLanes else 0)) s

/-- DEDUCED (unsafe), log entry 25. -/
def execLmatch (g : Guard) (ty : Fmt) (d : Dst) (a : Src) (s : State) : Host.Outcome State Fault Refusal :=
  issue (.lmatch g ty d a) (fun c s =>
    let x (l : Nat) : Nat := readNat (if ty.wide then .u64 else .u32) (srcVal c.g c.p a ty.regs l)
    result c s d ty.regs fun l => (laneMask fun p => c.act.getLsbD p && x p = x l).setWidth 64) s

/-! ### Scans and reductions (10 R242, R243) -/

/-- Minimum or maximum of FP32 patterns. -/
def fminBits (x y : Nat) : Nat := fltPick fp32 false (fun a b => vBelow b a) x y
def fmaxBits (x y : Nat) : Nat := fltPick fp32 false (fun a b => vBelow a b) x y
def faddBits (x y : Nat) : Nat := roundTo fp32 .rne (vAdd false (valOf fp32 x) (valOf fp32 y))

/-- One op on bits of the TYPE. -/
def redOp (op : RedOp) (t : Fmt) (x y : Nat) : Nat :=
  let n := intN t
  let a := intOf n (intSigned t) x
  let b := intOf n (intSigned t) y
  match op with
  | .add => if t = .f32 then faddBits x y else truncInt n (a + b)
  | .min => if t = .f32 then fminBits x y else truncInt n (min a b)
  | .max => if t = .f32 then fmaxBits x y else truncInt n (max a b)
  | .and => x &&& y
  | .or => x ||| y
  | .xor => Nat.xor x y

/-- The identity of `.excl` (10 R242). -/
def redIdentity (op : RedOp) (t : Fmt) : Nat :=
  let n := intN t
  match op with
  | .add | .or | .xor => 0
  | .and => 2 ^ n - 1
  | .min => if t = .f32 then 0x7F800000 else truncInt n (intMax n (intSigned t))
  | .max => if t = .f32 then 0xFF800000 else truncInt n (intMin n (intSigned t))

/-- The source bits of the participating lanes, ascending. -/
def redVals (c : Ins) (t : Fmt) (a : Src) : List (Nat × Nat) :=
  (laneList c.act).map fun l => (l, (srcVal c.g c.p a t.regs l).toNat % 2 ^ intN t)

/-- Running results in order: lane, result. -/
def scanVals (f : Nat → Nat → Nat) : Option Nat → List (Nat × Nat) → List (Nat × Nat)
  | _, [] => []
  | none, (l, x) :: r => (l, x) :: scanVals f (some x) r
  | some y, (l, x) :: r => (l, f y x) :: scanVals f (some (f y x)) r

/-- The results moved up by one lane. -/
def exclVals (z : Nat) : List (Nat × Nat) → List (Nat × Nat)
  | [] => []
  | (l, y) :: r => (l, z) :: exclVals y r

/-- The result of TYPE t as a register holds it (03 R61). -/
def redBits (t : Fmt) (x : Nat) : Long := extInt (intN t) (intSigned t) x

def execScan (g : Guard) (op : RedOp) (excl : Bool) (ty : Fmt) (d : Dst) (a : Src) (s : State) :
    Host.Outcome State Fault Refusal :=
  issue (.scan g op excl ty d a) (fun c s =>
    let ys := scanVals (redOp op ty) none (redVals c ty a)
    let zs := if excl then exclVals (redIdentity op ty) ys else ys
    result c s d ty.regs fun l => redBits ty (tblGet 0 zs l)) s

/-- One level of the balanced pairwise tree (10 R243). -/
def pairUp (f : Nat → Nat → Nat) : List Nat → List Nat
  | x :: y :: r => f x y :: pairUp f r
  | r => r

def treeFold (f : Nat → Nat → Nat) : Nat → List Nat → Nat
  | 0, xs => xs.headD 0
  | n + 1, xs => if xs.length ≤ 1 then xs.headD 0 else treeFold f n (pairUp f xs)

def execLred (g : Guard) (op : RedOp) (ty : Fmt) (d : Dst) (a : Src) (s : State) : Host.Outcome State Fault Refusal :=
  issue (.lred g op ty d a) (fun c s =>
    let y := treeFold (redOp op ty) 6 ((redVals c ty a).map (·.2))
    result c s d ty.regs fun _ => redBits ty y) s

/-! ### Sorting and selection (10 R244-R248) -/

/-- The place of a key in the order of its TYPE: NaN lowest, −0 with +0. -/
def keyRank (t : Fmt) (k : Nat) : Int :=
  if t = .f32 then
    let mag : Nat := k % 0x80000000
    if 0x7F800000 < mag then -4294967296 else if bit k 31 then -(mag : Int) else (mag : Int)
  else intOf 32 (t = .i32) k

/-- A lane's key and payload. -/
structure SortItem where
  lane : Nat
  key : Nat
  payload : Nat
  deriving DecidableEq, Repr

/-- x goes before y; between equal keys the lower lane does (10 R244). -/
def sortBefore (t : Fmt) (desc : Bool) (x y : SortItem) : Bool :=
  let a := keyRank t x.key
  let b := keyRank t y.key
  if a = b then x.lane < y.lane else if desc then b < a else a < b

def sortInsert (p : SortItem → SortItem → Bool) (x : SortItem) : List SortItem → List SortItem
  | [] => [x]
  | y :: r => if p x y then x :: y :: r else y :: sortInsert p x r

def sortItems (p : SortItem → SortItem → Bool) (xs : List SortItem) : List SortItem := xs.foldr (sortInsert p) []

/-- The participating lanes of a segment of S lanes, ascending. DEDUCED (unsafe), log entry 23. -/
def segItems (c : Ins) (a b : Src) (S j : Nat) : List SortItem :=
  ((laneList c.act).filter fun l => l / S = j).map fun l => ⟨l, fltA c a l, fltA c b l⟩

/-- The position of the lane in a list of items. -/
def rankOf (l : Nat) : List SortItem → Nat
  | [] => 0
  | x :: r => if x.lane = l then 0 else rankOf l r + 1

/-- What TOPK and BSORT need of a lane: the sorted items of its segment and its place among the segment's lanes. -/
def segOf (c : Ins) (t : Fmt) (desc : Bool) (a b : Src) (S l : Nat) : List SortItem × Nat :=
  let xs := segItems c a b S (l / S)
  (sortItems (sortBefore t desc) xs, rankOf l xs)

/-- Weights of the selected keys, in rank order (10 R247). -/
def topkWeights (K : Nat) (xs : List SortItem) : List Nat :=
  let sel := (xs.map (·.key)).take K
  let isInf (k : Nat) : Bool := k = 0x7F800000
  let finite (k : Nat) : Bool := k % 2 ^ 31 < 0x7F800000
  if sel.any isInf then
    (List.range xs.length).map fun r => if r < K && sel.findIdx isInf = r then 0x3F800000 else 0
  else
    match sel.find? finite with
    | none => xs.map fun _ => 0
    | some x0 =>
      let e (k : Nat) : Nat :=
        let d := faddBits k (Nat.xor x0 (2 ^ 31))
        if d % 2 ^ 31 = 0 then 0x3F800000
        else transcend .exp2 fp32 (roundTo fp32 .rne (vMul (valOf fp32 d) (valOf fp32 0x3FB8AA3B)))
      let sum := (sel.filter finite).foldl (fun t k => match t with
        | none => some (e k)
        | some y => some (faddBits y (e k))) (none : Option Nat)
      (List.range xs.length).map fun r =>
        match sel[r]? with
        | some k => if finite k then roundTo fp32 .rne (vDiv (valOf fp32 (e k)) (valOf fp32 (sum.getD 0))) else 0
        | none => 0

/-- The writes of a producer into n consecutive lane registers. -/
def blockWrites (base n : Nat) (act : Lanes) (f : Nat → Nat → Nat) : List RegWrite :=
  (List.range n).map fun k => ⟨.lane, base + k, act, (List.range 32).map fun l => BitVec.ofNat 64 (f l k)⟩

/-- A sort starts: its destination is empty until it completes (10 R248). DEDUCED (unsafe), log entry 23. -/
def startSort (c : Ins) (s : State) (d : Dst) (n : Nat) (f : Nat → Nat → Nat) (ps : List (Nat × Lanes × Lanes)) : Act :=
  .done (produce s c.gid ((List.range n).map fun k => regKey .lane (d.reg.toNat + k)) (blockWrites d.reg.toNat n c.act f) ps)

/-- TOPK (10 R244-R248). The sticky flag is set at the completion, and never cleared.
DEDUCED (unsafe), log entry 23. -/
def execTopk (g : Guard) (w : Bool) (ty : Fmt) (d : Dst) (a b : Src) (k : BitVec 4) (seg : BitVec 3)
    (pf : Option (BitVec 3)) (s : State) : Host.Outcome State Fault Refusal :=
  issue (.topk g w ty d a b k seg pf) (fun c s =>
    let S := segLanes seg.toNat
    let val (l r : Nat) : Nat :=
      let (xs, i) := segOf c ty true a b S l
      match r with
      | 0 => ((xs[i]?).map (·.key)).getD 0
      | 1 => ((xs[i]?).map (·.payload)).getD 0
      | 2 => if w then (topkWeights k.toNat xs).getD i 0 else 0
      | _ => rankOf l xs
    let sticky (l : Nat) : Bool :=
      (segItems c a b S (l / S)).any fun x => ty = .f32 && 0x7F800000 ≤ x.key % 2 ^ 31
    startSort c s d 4 val
      (match pf with
        | none => []
        | some p => [(p.toNat, c.act &&& laneMask sticky, allLanes)])) s

def execBsort (g : Guard) (desc : Bool) (ty : Fmt) (d : Dst) (a b : Src) (seg : BitVec 3) (s : State) :
    Host.Outcome State Fault Refusal :=
  issue (.bsort g desc ty d a b seg) (fun c s =>
    startSort c s d 2 (fun l r =>
      let (xs, i) := segOf c ty desc a b (segLanes seg.toNat) l
      ((xs[i]?).map fun x => if r = 0 then x.key else x.payload).getD 0) []) s

/-! ### Compaction and histograms (10 R249) -/

def execCompact (g : Guard) (d : Dst) (a : Src) (q : Pred) (s : State) : Host.Outcome State Fault Refusal :=
  issue (.compact g d a q) (fun c s =>
    let sel := laneList (c.act &&& predLanes c.g q)
    groupDone s c fun g => writeBlock g d.reg.toNat 2 c.act fun l k =>
      if k = 0 then
        match sel[((laneList c.act).filter fun x => x < l).length]? with
        | some p => fltA c a p
        | none => 0
      else sel.length) s

/-- DEDUCED (unsafe), log entry 23. -/
def execLhist (g : Guard) (rank : Bool) (d : Dst) (a : Src) (b : BOpd) (s : State) : Host.Outcome State Fault Refusal :=
  issue (.lhist g rank d a b) (fun c s =>
    let nb := Nat.min ((bVal c.g c.p b 1 false (firstLane c.act)).toNat % 2 ^ 32) 32
    result c s d 1 fun l =>
      let among (p : Nat → Bool) : Nat := ((laneList c.act).filter p).length
      BitVec.ofNat 64 (
        if rank then
          if fltA c a l < nb then among fun p => p < l && fltA c a p = fltA c a l else 0xFFFFFFFF
        else if l < nb then among fun p => fltA c a p = l else 0)) s

end Sys2Proof.Machine
end

