-- ==== Sys2Proof/Machine/MemoryEvents.lean ====
section
/-! DEFINITION. Events of the memory system (04 R87, R105; 05 R123, R129, R130), of the quadrants' chunk pools (09 R224)
and of producers (09 R213), and the timeout of EVWAIT (17 R398). -/

namespace Sys2Proof.Machine

/-- What every event ends with. -/
abbrev Ev := Host.Outcome State Fault Refusal

/-- A store that has left the caches for device registers or an alias window reaches its target, if its page is such
memory still (04 R101, 07 R163, R170). DEDUCED (unsafe), log entry 28. -/
def performLate (s : State) (e : StoreEntry) : State :=
  e.parts.foldl (fun s p =>
    let bad (cause : Nat) : State := orphanPart s e.ctx p (orphanAccess e.ctx p cause)
    match translate s ⟨e.ctx, dieOfCore e.core, some e.core, p.handler⟩ p.va .store with
    | .error _ => performPart e s p
    | .ok (s1, x) =>
      match regionOf s1 x.ma with
      | .regs =>
        if p.size = 4 || p.size = 8 then
          regWrite s1 (some e.ctx) (x.ma - 0x130000000000) p.bytes.length (natOfBytes p.bytes) p.pc p.gser
        else bad 3
      | .aliasMem =>
        if p.size < 4 then bad 3
        else
          match aliasStore s1 x.ma p.bytes Times.zero with
          | .ok s2 => s2
          | .error cause => bad cause
      | .stack | .tier | .host | .peer | .reserved => performPart e s p) { s with late := s.late.erase e }

/-- The oldest entry of a core's store queue is performed at the L2, since a queue sends its entries in order (05 R118,
06 R149), unless its line's requests are held (05 R132). -/
def execStorePerform (s : State) : Ev :=
  .next (match s.input with
    | .storePerform core =>
      match s.late.find? fun e => e.core = core with
      | some e => wake (performLate s e)
      | none =>
        match s.sq.find? fun e => e.core = core with
        | some e => if heldRequest s (dieOfCore core) e.asid e.va true then s else wake (performEntry s e)
        | none => s
    | _ => s)

/-- An acquire lease that has run out no longer holds writes back (05 R121, R123). -/
def execAcquireLeaseExpiry (s : State) : Ev :=
  .next (match s.input with
    | .acquireLeaseExpiry die asid va =>
      { s with l2 := s.l2.map fun l =>
          if l.die = die && l.asid = asid && l.va = lineOf va.toNat && l.aq ≤ s.clock then { l with aq := 0 } else l }
    | _ => s)

/-- A die's read request for a line is resolved (05 R129). -/
def execDirectoryRead (s : State) : Ev :=
  .next (match s.input with
    | .directoryRead die ctx va =>
      if 4 ≤ die || (tblFind s.ctxs ctx).isNone || (s.mode = 4 && 1 < ctx && die != engineDie 16 s ctx) ||
          heldRequest s die (asidOf ctx va) (lineOf va.toNat) false then s
      else
        match l2Read s ⟨ctx, die, none, true⟩ va .load with
        | .ok (s1, _) => wake s1
        | .error _ => s
    | _ => s)

/-- A die's request for a line with write permission is resolved (05 R129). -/
def execDirectoryWrite (s : State) : Ev :=
  .next (match s.input with
    | .directoryWrite die ctx va =>
      if 4 ≤ die || (tblFind s.ctxs ctx).isNone || (s.mode = 4 && 1 < ctx && die != engineDie 16 s ctx) ||
          heldRequest s die (asidOf ctx va) (lineOf va.toNat) true then s
      else
        match l2Own s ⟨ctx, die, none, true⟩ va .store with
        | .ok (s1, _) => wake s1
        | .error _ => s
    | _ => s)

/-- A pending write-back reaches its slice (05 R129, R130). -/
def execDirectoryWriteBack (s : State) : Ev :=
  .next (match s.input with
    | .directoryWriteBack die asid va =>
      match s.wb.find? fun e => e.die = die && e.asid = asid && e.va = lineOf va.toNat with
      | some e => wbComplete s e
      | none => s
    | _ => s)

/-- A line of stack DRAM or of the second tier is checked (04 R87): a corrected error is counted by stack, an
uncorrectable one poisons its half-line. DEDUCED (unsafe), log entry 74. -/
def dramEcc (s : State) (a : Nat) (found : EccResult) : State :=
  match regionOf s a, found with
  | .stack, .corrected => count s 33 (stackPlace s a).1 1
  | .stack, .uncorrectable | .tier, .uncorrectable =>
    { s with poison := tblSet false s.poison (a / 64) true, rewritten := tblSet 0 s.rewritten (a / 128) 0 }
  | _, _ => s

/-- A parity error of an L1 copy: the copy goes, and the access that found it refetches the line (05 R116).
DEDUCED (unsafe), log entry 74. -/
def l1Parity (s : State) (core ctx : Nat) (va : Long) : State :=
  match l1Find s core ctx (asidOf ctx va) (lineOf va.toNat) with
  | none => s
  | some l =>
    count { s with l1 := s.l1.filter fun x =>
      !(x.core = l.core && x.ctx = l.ctx && x.asid = l.asid && x.va = l.va) } 2 core 1

/-- An error in a line of an L2 (05 R125): a corrected one is counted; an uncorrectable one invalidates a clean line,
which is fetched again, and poisons a dirty one. DEDUCED (unsafe), log entry 74. -/
def l2Ecc (s : State) (die asid : Nat) (va : Long) (found : EccResult) : State :=
  match l2Find s die asid (lineOf va.toNat) with
  | none => s
  | some ln =>
    let k := die * 16 + l2Slice ln.va
    match found with
    | .clean => s
    | .corrected => count s 9 k 1
    | .uncorrectable =>
      if ln.st = .m || ln.st = .o then count (l2Set! s { ln with poison := 3, rewritten := 0 }) 10 k 1
      else
        let s1 := l2Evict s ln
        match l2Read s1 ⟨Nat.max 1 asid, die, none, true⟩ va .load with
        | .ok (s2, _) => s2
        | .error _ => s1

/-- A word of block scratchpad is checked (08 R187): a corrected error is counted by core, an uncorrectable one
poisons it. DEDUCED (unsafe), log entry 74. -/
def scratchEcc (s : State) (block off : Nat) (found : EccResult) : State :=
  match tblFind s.blocks block, found with
  | some b, .corrected => count s 39 b.core 1
  | some _, .uncorrectable =>
    updBlock s block fun b => { b with poison := off / 4 :: b.poison.filter fun w => w != off / 4 }
  | _, _ => s

/-- A check finds what a soft error has done: the patrol scrub's in DRAM (04 R87), or that of a read where the line,
the copy, the entry or the word lies. An uncorrectable error of a directory entry loses its slice, which is an event
of its own. DEDUCED (unsafe), log entry 74. -/
def execPatrolScrub (s : State) : Ev :=
  .next (match s.input with
    | .patrolScrub site found =>
      match site with
      | .dram ma => dramEcc s ma.toNat found
      | .l1 core ctx va => if found = .clean then s else l1Parity s core ctx va
      | .l2 die asid va => l2Ecc s die asid va found
      | .dir asid va =>
        if found = .corrected && (dirFind s asid (lineOf va.toNat)).isSome then count s 15 (dirSlice asid va.toNat) 1 else s
      | .scratch block off => wake (scratchEcc s block off found)
    | _ => s)

/-- The scrub of a frame ends (04 R105 steps 6, 7). -/
def execFrameScrubComplete (s : State) : Ev :=
  .next (match s.input with
    | .frameScrubComplete mfn => finishScrub s mfn
    | _ => s)

/-- A producer that has all it writes completes (09 R213). -/
def execProducerCompletion (s : State) : Ev :=
  .next (match s.input with
    | .producerCompletion id =>
      if (tblFind s.producers id).any fun p => p.ready then completeProducer s id else s
    | _ => s)

/-- The request at the head of a quadrant's chunk queue is granted when the pool holds enough chunks (09 R224). -/
def execChunkGrant (s : State) : Ev :=
  .next (match s.input with
    | .chunkGrant q =>
      match tblGet [] s.chunkQ q with
      | [] => s
      | (gid, m) :: r =>
        if poolFree s q < chunkCount m then s
        else wake { grantChunks s gid m with chunkQ := tblSet [] s.chunkQ q r }
    | _ => s)

/-- An EVWAIT whose timeout has come is answered with 0 (17 R398). -/
def execEvwaitTimeout (s : State) : Ev :=
  .next (match s.input with
    | .evwaitTimeout gid sp =>
      let late (p : Path) : Bool :=
        match p.await with
        | some (.evwait _ (some t)) => decide (t ≤ s.clock) && p.split == sp
        | _ => false
      let answer (p : Path) : Path := if late p then { p with await := some (.answer 0) } else p
      wake (updGroup s gid fun g => mapPaths g answer)
    | _ => s)

end Sys2Proof.Machine
end

