-- ==== Sys2Proof/Machine/Stops.lean ====
section
/-! DEFINITION. The consistent cut of a context (17 R402-R407, 14 R349, 18 R424, R426): the choice of each block's method,
what must have drained, and the saving of blocks and contexts. -/

namespace Sys2Proof.Machine

/-! ### Blocks of a context -/

def ctxGrid (s : State) (k grid : Nat) : Bool := (tblFind s.grids grid).any fun g => g.ctx = k
def ctxBlocks (s : State) (k : Nat) : Tbl Block := s.blocks.filter fun e => ctxGrid s k e.2.grid
def blockGroupsOf (s : State) (b : Nat) : Tbl Group := s.groups.filter fun e => e.2.block = b

/-- A group of the block, by number. -/
def groupIn (s : State) (b gid : Nat) : Bool := (tblFind s.groups gid).any fun g => g.block = b

/-! ### Recipes (17 R402) -/

/-- The RECPC of the first recipe entry for a checkpoint. -/
def recipePc (s : State) (ctx : Nat) (g : Grid) (ckpt : Long) : Option Nat :=
  let want := (ckpt - g.image).toNat
  let entry (i : Nat) : Option (Nat × Nat) :=
    match engineRead s (whoEngine s ctx) (g.image + BitVec.ofNat 64 (g.hdr.rtab + 16 * i)) 8 .load with
    | .ok (_, bs) => some (field bs 0 4, field bs 4 4)
    | .error _ => none
  ((List.range g.hdr.rcount).findSome? fun i => (entry i).filter fun e => e.1 = want).map (·.2)

/-! ### The choice of a method (17 R403) -/

/-- The bytes of a full save of a block, over 128: its lane and scalar registers, its trap frames and checkpoints, its
scratchpad, its loft windows and 8 for each of its barriers. DEDUCED (unsafe), log entry 47. -/
def saveBytes (s : State) (id : Nat) (b : Block) (h : Header) : Nat :=
  let group (g : Group) : Nat :=
    let ckpt := (g.ckpt.map fun c => 128 * g.regbase + 4096 * chunkCount c.chunks + 512).getD 0
    128 * (g.regbase + 32 * chunkCount g.chunks) + 512 + ckpt + (if g.frame.isSome then 128 else 0)
  ((blockGroupsOf s id).foldl (fun n e => n + group e.2) 0 + h.spad + b.quads.length * windowSize h + 128) / 128

/-- Rows 3-5 for a block. -/
def laterMethod (s : State) (id : Nat) (b : Block) (ctx : Nat) (g : Grid) : Method :=
  let gs := (blockGroupsOf s id).map (·.2)
  let quiet (x : Group) : Bool := !x.handler && x.held.isNone
  let canFlash (x : Group) : Bool :=
    quiet x && x.idem &&
    match x.ckpt with
    | some c => ((recipePc s ctx g c.pc).filter fun r => entryOk g.hdr r).isSome
    | none => false
  if (gs.filter fun x => x.live != 0).all canFlash then .flashback
  else if gs.length = b.groups && gs.all (fun x => x.live != 0 && x.idem && !x.ranCkpt) &&
      s.clock - b.start ≤ saveBytes s id b g.hdr then .restart
  else .full

/-- The method of a block for a stop; a coach is weakly parallel (15 R365).
DESIGN CHOICE (unsafe), log entry 40; DEDUCED (unsafe), log entry 47. -/
def chooseMethod (s : State) (id : Nat) (b : Block) (ctx : Nat) (st : Stop) : Method :=
  match tblFind s.grids b.grid with
  | none => .full
  | some g =>
    if st.save then .full
    else
      let gs := (blockGroupsOf s id).map (·.2)
      let E := s.clock - b.start
      let rest := g.runClocks - E * g.runs
      if (g.cls != 0 || b.coach) && rest != 0 && 2 * rest ≤ st.deadline * g.runs && gs.all fun x => !x.handler && x.held.isNone then
        .drain
      else laterMethod s id b ctx g

/-- What a full save finds running on a quadrant's sequencer (13 R313): the oldest operation, when its turn on the array
has come; and every TNORM, which a save completes (17 R405), with the operations before it.
DEDUCED (unsafe), log entry 47. -/
def markRunning (x : Quad) : Quad :=
  let isNorm (o : FactOp) : Bool := match o.kind with | .norm .. => true | _ => false
  let turn : Bool := x.pass = [] && x.facts.head?.any fun o => x.queue.all fun p => o.since < p.since
  let n := Nat.max (one turn) (x.facts.length - (x.facts.reverse.takeWhile fun o => !isNorm o).length)
  { x with facts := (x.facts.take n).map (fun o => { o with started := true }) ++ x.facts.drop n }

/-- A block has its method. -/
def setMethod (s : State) (id : Nat) (b : Block) (m : Method) : State :=
  let s1 := updBlock s id fun b => { b with method := some m }
  if m = .full then (b.quads.filter fun q => q < 640 && ((quadOf s q).holder = some id)).foldl (fun s q => updQuad s q markRunning) s1
  else s1

/-- Step 2 of 17 R406: every placed block of a context has its method. -/
def chooseAll (s : State) (k : Nat) (st : Stop) : State :=
  (ctxBlocks s k).foldl (fun s e =>
    if e.2.saved || e.2.method.isSome then s else setMethod s e.1 e.2 (chooseMethod s e.1 e.2 k st)) s

/-! ### What must have drained (17 R405, R406 step 3) -/

/-- A block's work on the array that is under way, or for a method that runs to completion any work on it. -/
def arrayBusyFor (s : State) (b : Nat) (all : Bool) : Bool :=
  s.quads.any fun e =>
    let x := e.2
    x.pass.any (fun o => groupIn s b o.gid) || x.fills.any (fun o => groupIn s b o.gid) ||
    x.facts.any (fun o => groupIn s b o.gid && o.started) ||
    (all && (x.queue.any (fun o => groupIn s b o.gid) || x.tests.any (fun o => groupIn s b o.gid) ||
      x.facts.any (fun o => groupIn s b o.gid)))

/-- Producers whose registers a full save leaves empty: those of porters, of queued quarter-ops and of self-tests. -/
def savedProducer (s : State) (id : Nat) : Bool :=
  (s.porterOps.any fun e => e.2.reg.any fun r => r.2.1 = id) ||
  s.quads.any fun e => e.2.queue.any (fun o => o.prod = id) || e.2.tests.any fun o => o.prod = id

/-- A path, of the trap frame too, waits for an answer that comes before a save: a request, a LAUNCH ticket, device
accesses. DEDUCED (unsafe), log entry 47. -/
def awaitsAnswer (g : Group) : Bool :=
  (g.paths ++ (g.frame.map (·.paths)).getD []).any fun p => match p.await with
    | some (.io _) | some (.ticket _ _) | some (.answer _) => true
    | _ => false

/-- A block is ready to be saved. A held group counts as stopped, once what its other splits had begun is complete (17
R389, R390). -/
def blockDrained (s : State) (id : Nat) (b : Block) : Bool :=
  match b.method with
  | none | some .drain => false
  | some m =>
    let gs := blockGroupsOf s id
    let all := m != .full
    !arrayBusyFor s id all &&
    !(s.porterOps.any fun e => e.2.block = id && (tblFind s.opReads e.1).isSome) &&
    !(s.porterOps.any fun e => all && groupIn s id e.2.gid && (opActive e.2 || e.2.unacked != [])) &&
    gs.all (fun e => !awaitsAnswer e.2 && (e.2.held.isSome || e.2.live != 0 || groupBusy s e.1)) &&
    s.producers.all fun e => !groupIn s id e.2.gid || savedProducer s e.1

/-- A relay instance that goes no further: it waits in MATCH or WAITIN, it has no next instruction, or the sources of
the context that it sends for are closed and it sends, or is about to (14 R349, 17 R406). DEDUCED (unsafe), log entry
62. -/
def instanceRests (s : State) (i : Instance) : Bool :=
  let shut := !sourcesOpen s i.ctx
  (i.sending && shut) ||
  match i.prog.code[i.pc]? with
  | none => true
  | some w =>
    match w.toNat % 256 with
    | 1 | 2 => i.blocked
    | 6 | 7 => shut
    | _ => false

/-- An instance of a context's bindings (14 R349). -/
def instanceOf (s : State) (k : Nat) (i : Instance) : Bool :=
  i.ctx = k || (members s i.cid).any fun m => m.2.engine = i.engine && m.2.ctx = k

/-- A relay instance runs while its engine serves its port (14 R343) and no context with a member in its window has
stopped (17 R406). DEDUCED (unsafe), log entry 62. -/
def instanceRuns (s : State) (i : Instance) : Bool :=
  engineServes s i.engine && s.ctxs.all fun c => c.2.state != .stopped || !instanceOf s c.1 i

/-- Everything of a context that is in flight has run forward, and no context below it still stops (18 R424).
DEDUCED (unsafe), log entry 62. -/
def drained (s : State) (k : Nat) : Bool :=
  !(s.ctxs.any fun e => e.1 != k && e.2.state = .stopping && isUnder s k 16 e.1) &&
  !(s.sq.any fun e => e.ctx = k) &&
  s.instances.all (fun e => !instanceOf s k e.2 || !instanceRuns s e.2 || instanceRests s e.2) &&
  (ctxBlocks s k).all fun e => e.2.saved || blockDrained s e.1 e.2

/-! ### Saving blocks (17 R404, R405) -/

/-- Lanes that wait at an open phase of a barrier take their arrivals back. DEDUCED (unsafe), log entry 39. -/
def retract (x : Barrier) (gid : Nat) (m : Lanes) : Barrier :=
  let arrived := tblSet 0 x.arrived gid (tblGet 0 x.arrived gid &&& ~~~m)
  { x with
    arrived := arrived
    count := if arrived = [] then none else x.count
    last := x.last.filter fun e => !(e.1 / 32 = gid && m.getLsbD (e.1 % 32)) }

/-- Changes a path of the trap frame. -/
def updFramePath (g : Group) (lanes : Lanes) (f : Path → Path) : Group :=
  { g with frame := g.frame.map fun r => { r with paths := r.paths.map fun p => if p.lanes = lanes then f p else p } }

/-- A path that waits at a barrier, or for chunks that it has not been granted, is saved as not issued (15 R363, 09
R224): its lanes that the barrier has counted in a phase that is still open arrive again. `upd` changes the path.
DEDUCED (unsafe), log entry 39. -/
def unissuePath (upd : Group → (Path → Path) → Group) (gid : Nat) (s : State) (p : Path) : State :=
  match tblFind s.groups gid with
  | none => s
  | some g =>
    let put (s : State) (r : Option Lanes) : State :=
      updGroup s gid fun g => upd g fun q => { q with await := none, hold := none, replay := r }
    match p.await, (decode p.word).toOption with
    | some .racq, _ => if (tblGet [] s.chunkQ g.quad).any fun e => e.1 = gid then put s p.replay else s
    | some (.bar phase here again), some (.bar _ die id _) | some (.bar phase here again), some (.bara _ die id _) =>
      let x := getBarrier s g die id.toNat
      if x.phase ≤ phase then put (setBarrier s g die id.toNat (retract x gid here)) (some (here ||| again))
      else if again = 0 then s
      else put s (some again)
    | _, _ => s

/-- Instructions that a save takes as not issued: their destinations are full. -/
def notIssued (g : Group) : Group :=
  let ps := g.paths ++ (g.frame.map (·.paths)).getD []
  let keys := (ps.filter idleWait).flatMap fun p => ((decode p.word).toOption.map destKeys).getD []
  mapPaths (setEmpty g keys false) fun p => if idleWait p then { p with await := none, hold := none } else p

/-- The waits of a group that are saved as not issued (17 R398, 15 R363), with what the group knows (06 R147), which it
takes to where it resumes. DEDUCED (unsafe), log entry 47. -/
def unissue (s : State) (gid : Nat) : State :=
  match tblFind s.groups gid with
  | none => s
  | some g =>
    let known := knowOf s gid
    let s1 := updGroup s gid fun g => { notIssued g with seen := g.seen.join known }
    let s2 := g.paths.foldl (fun s p => unissuePath (fun g f => updPath g p.lanes f) gid s p) s1
    ((g.frame.map (·.paths)).getD []).foldl (fun s p => unissuePath (fun g f => updFramePath g p.lanes f) gid s p) s2

/-- A full save records the PC of each path, and the resumption there is not checked (02 R31); a handler that has not
started is entered at the resumption (17 R407), which is. -/
def uncheck (s : State) (g : Group) : Group :=
  let entry := (((gridOf s g).map fun r => r.image + BitVec.ofNat 64 (r.hdr.entries.getD 1 0))).getD 0
  let f (p : Path) : Path := { p with checked := false }
  { g with
    paths := if g.handler then g.paths.map fun p => if p.enter && p.pc = entry then p else f p else g.paths.map f
    frame := g.frame.map fun r => { r with paths := r.paths.map f } }

/-- A group as a flashback resumes it. -/
def flashGroup (s : State) (ctx : Nat) (g : Group) : Group :=
  match g.ckpt, gridOf s g with
  | some c, some gr =>
    let pc := gr.image + BitVec.ofNat 64 ((recipePc s ctx gr c.pc).getD 0)
    { g with
      v := c.v, s := c.s, preds := c.preds, scl := c.scl, chunks := c.chunks, empty := []
      paths := [{ entryPath g.live pc with fmt := c.fmt }]
      splits := [⟨0, 0, false, false, 0⟩], splitAge := 1, families := [], reports := [] }
  | _, _ => g

/-- A group as a restart begins it: at ENTRY0, or, of a coach, where the coach started.
DESIGN CHOICE (unsafe), log entry 40. -/
def restartGroup (gr : Grid) (b : Block) (g : Group) : Group :=
  let (pc, live, regs) :=
    b.origin.getD (gr.image + BitVec.ofNat 64 (gr.hdr.entries.getD 0 0), threadLanes gr g.idx, threadRegs g.idx)
  startGroup gr g.grid g.block g.quad g.idx g.serial live regs g.kbase pc

/-- What a method discards of a block before it is put away. -/
def shedBlock (s : State) (ctx id : Nat) (b : Block) : State :=
  let mine (gid : Nat) : Bool := groupIn s id gid
  match b.method, tblFind s.grids b.grid with
  | some .flashback, some _ =>
    { s with
      groups := tblMap s.groups fun _ g => if g.block = id && g.live != 0 then flashGroup s ctx g else g
      producers := s.producers.filter fun e => !mine e.2.gid
      porterOps := s.porterOps.filter fun e => !mine e.2.gid }
  | some .restart, some gr =>
    let wins := s.windows.filter fun w => w.block = id
    let here (a : Nat) : Bool := wins.any fun w => loftKey w.quad w.off ≤ a && a < loftKey w.quad w.off + w.size
    let x : Block := { b with spad := [], poison := [], bars := [], arr := [], start := s.clock }
    { s with
      groups := tblMap s.groups fun _ g => if g.block = id then restartGroup gr b g else g
      blocks := tblPut s.blocks id x
      producers := s.producers.filter fun e => !mine e.2.gid
      porterOps := s.porterOps.filter fun e => !mine e.2.gid
      loft := s.loft.filter fun e => !here e.1
      loftPoison := s.loftPoison.filter fun e => !here (4 * e.1)
      quads := (s.quads.map fun e =>
        (e.1, if e.2.holder = some id then { e.2 with holder := none, releasing := false } else e.2)).filter
          fun e => decide (e.2 ≠ newQuad) }
  | _, _ => s

/-- A block is put away: its groups leave their quadrants (17 R404), and its porter operations their porters (08 R204).
DEDUCED (unsafe), log entry 47; DESIGN CHOICE (safe), log entry 48. -/
def putAway (s : State) (id : Nat) : State :=
  match tblFind s.blocks id with
  | none => s
  | some b =>
    let full := b.method = some .full
    let s0 := (blockGroupsOf s id).foldl (fun s e =>
      let s1 := unissue s e.1
      if full then updGroup s1 e.1 (uncheck s1) else s1) s
    let s1 : State := { s0 with
      chunkQ := (s0.chunkQ.map fun e => (e.1, e.2.filter fun x => !groupIn s0 id x.1)).filter fun e => !e.2.isEmpty }
    let s2 := (List.range b.quads.length).foldl (fun s i =>
      let q := b.quads.getD i 0
      let s1 := moveOps (moveWindow s id q (awayQuad id i) 0) id q (awayQuad id i)
      { s1 with groups := tblMap s1.groups fun _ g => if g.block = id && g.quad = q then { g with quad := awayQuad id i } else g }) s1
    let qs := (List.range b.quads.length).map (awayQuad id)
    let mine (op : Nat) : Bool := (tblFind s2.porterOps op).any fun o => o.block = id
    let s3 : State := { s2 with
      porters := s2.porters.filter fun e => !mine e.2
      porterOps := tblMap s2.porterOps fun op o => if mine op && o.state = .running then { o with state := .queued } else o }
    updBlock s3 id fun b => { b with saved := true, quads := qs }

/-- Saves a placed block under its method. -/
def saveBlock (k : Nat) (s : State) (e : Nat × Block) : State :=
  if e.2.saved then s else putAway (shedBlock s k e.1 e.2) e.1

/-! ### The end of a stop -/

/-- The die slices of a stopped context, with their blocks, inns and windows, stand on no die.
DESIGN CHOICE (safe), log entry 48. -/
def liftSlices (s : State) (k : Nat) : State :=
  let mine (grid : Nat) : Bool := ctxGrid s k grid
  let slice (x : DieSlice) : DieSlice := if mine x.grid && x.die < 4 then { x with die := awayDie x.die } else x
  let block (_ : Nat) (x : Block) : Block := if mine x.grid && x.die < 4 then { x with die := awayDie x.die } else x
  let bind_ (_ : Nat) (x : Binding) : Binding := if x.ctx = k && x.die < 4 then { x with die := awayDie x.die } else x
  let since := ((tblFind s.ctxs k).bind (·.stop)).map (·.since)
  let inn (_ : Nat) (x : Inn) : Inn :=
    if mine x.grid then { x with
      die := if x.die < 4 then awayDie x.die else x.die
      timer := x.timer.map fun t => t - since.getD s.clock } else x
  let s0 := (s.slices.filter fun x => mine x.grid && x.die < 4).foldl
    (fun s x => moveSpace s x.grid x.die (awayDie x.die)) s
  { s0 with
    slices := s.slices.map slice, blocks := tblMap s.blocks block
    bindings := tblMap s.bindings bind_, inns := tblMap s.inns inn }

/-- A context has stopped: what is left of its slice is kept, and its parent is told (18 R422, R426).
DEDUCED (unsafe), log entry 55. -/
def finishStop (s : State) (k : Nat) : State :=
  let s1 := liftSlices ((ctxBlocks s k).foldl (saveBlock k) s) k
  let rest (c : Context) : Nat :=
    match c.sliceEnd, c.stop with
    | some t, some st => Nat.max 1 (t - st.since)
    | _, _ => 0
  let s2 := updCtx s1 k fun c => { c with state := .stopped, stop := none, saved := true, slice := rest c, sliceEnd := none }
  wake (notice s2 k)

/-- One look at the cut of a stopping context (17 R406): the methods are chosen; when all has drained it is saved.
DEDUCED (unsafe), log entry 47. -/
def cutStep (s : State) (k : Nat) : State :=
  match tblFind s.ctxs k with
  | none => s
  | some c =>
    match c.state, c.stop with
    | .stopping, some st =>
      let s1 := chooseAll s k st
      if drained s1 k then finishStop s1 k else s1
    | _, _ => s

/-- A drain that has not ended by the deadline is stopped again by rows 3-5 (17 R403). -/
def drainLate (s : State) (id : Nat) : State :=
  match tblFind s.blocks id with
  | none => s
  | some b =>
    match tblFind s.grids b.grid with
    | none => s
    | some g =>
      match ((tblFind s.ctxs g.ctx).bind (·.stop)) with
      | none => s
      | some st =>
        if b.method = some .drain && st.since + st.deadline ≤ s.clock then
          setMethod s id b (laterMethod s id b g.ctx g)
        else s

end Sys2Proof.Machine
end

