-- ==== Sys2Proof/Machine/Fabric.lean ====
section
/-! DEFINITION. Events of the porters (08 R183, R194-R199), of the fabric (08 R206-R208; 14 R331, R338, R346-R348) and of
the quadrants' sequencers (12 R277-R290; 13 R296-R313). -/

namespace Sys2Proof.Machine

/-! ### Porters -/

def execPorterDispatch (s : State) : Ev :=
  .next (match s.input with
    | .porterDispatch p => dispatchPorter s p
    | _ => s)

/-- A read error at a scratchpad word or a loft word that an operation reads (08 R187, 12 R267). -/
def sourceEcc (s : State) (o : PorterOp) (off : Nat) (e : EccResult) : State :=
  match o.ssp with
  | .bs => scratchEcc s o.block off e
  | .lf =>
    match loftEndpoint s o.block off with
    | some (q, a) => loftEcc s q a e
    | none => s
  | _ => s

/-- The next transfer of an operation is written and counted (08 R194). DEDUCED (unsafe), log entry 36. -/
def execTransferWritten (s : State) : Ev :=
  .next (match s.input with
    | .transferWritten id off e =>
      match tblFind s.porterOps id with
      | some o => if o.state = .running then stepTransfer (sourceEcc s o off e) id else s
      | none => s
    | _ => s)

/-- A packet in flight leaves the flights. -/
def dropFlight (s : State) (ctx : Nat) (seq : BitVec 32) : State :=
  { s with flights := s.flights.filter fun f => !(f.ctx = ctx && f.p.seq = seq) }

def flightOf (s : State) (ctx : Nat) (seq : BitVec 32) : Option Flight :=
  s.flights.find? fun f => f.ctx = ctx && f.p.seq = seq

/-- A packet's path makes progress (14 R346). -/
def progress (s : State) (f : Flight) : State :=
  let same (g : Flight) : Bool := g.ctx = f.ctx && g.port = f.port && g.p.dpkg = f.p.dpkg && g.p.dctx = f.p.dctx
  { s with flights := s.flights.map fun g => if same g then { g with since := s.clock } else g }

/-- A packet's acknowledgement has returned (08 R206, 14 R334). A remote atomic ends with its reply instead. -/
def ackPacket (s : State) (f : Flight) : State :=
  let s := progress s f
  match f.owner with
  | .xfer id _ => finishOp (ackTransfer (dropFlight s f.ctx f.p.seq) id f.p.seq) id
  | .slot k n => sentDone (dropFlight s f.ctx f.p.seq) k n
  | .fatom .. => s

/-- A transfer's acknowledgement reaches its sender, which closes its credit (08 R203): of an operation's local
transfer, of a packet that a context here has sent, or of a packet that a context of another package has sent to a
counter here. DEDUCED (unsafe), log entry 60. -/
def execTransferAcknowledgement (s : State) : Ev :=
  .next (match s.input with
    | .transferAcknowledgement (.op id) seq =>
      match tblFind s.porterOps id with
      | some o => if o.remote.isNone then finishOp (ackTransfer s id seq) id else s
      | none => s
    | .transferAcknowledgement (.packet ctx) seq =>
      match flightOf s ctx seq with
      | some f => ackPacket s f
      | none => s
    | .transferAcknowledgement (.credit pkg ctx) seq =>
      if pkg = s.ownPkg then s else wake (closeCredits s (pkg.toNat * 2 ^ 16 + ctx.toNat) seq.toNat)
    | _ => s)

def execPorterOperationEnd (s : State) : Ev :=
  .next (match s.input with
    | .porterOperationEnd id => finishOp s id
    | _ => s)

/-! ### Packets that arrive (14 R346-R348) -/

/-- The KIND code of a packet (14 R345). -/
def kindCode : PktKind → Nat
  | .contribution => 0 | .partialNode => 1 | .result => 2 | .fxfer => 3 | .fatomReq => 4 | .fatomReply => 5 | .refusal => 6
  | .reserved k => Nat.max 7 k.toNat

def kindOf (n : Nat) : PktKind :=
  match n with
  | 0 => .contribution | 1 => .partialNode | 2 => .result | 3 => .fxfer | 4 => .fatomReq | 5 => .fatomReply | 6 => .refusal
  | n => .reserved (BitVec.ofNat 4 n)

/-- The bytes of a packet as its UET payload holds them: the 48-byte header, then its own payload (14 R345). -/
def packetBytes (p : Packet) : List Byte :=
  bytesOfNat 48 (p.hops.toNat * 2 ^ 92 + kindCode p.kind * 2 ^ 96 + p.chunk.toNat * 2 ^ 100 + p.payload.length % 4096 * 2 ^ 124 +
    p.dpkg.toNat * 2 ^ 136 + p.spkg.toNat * 2 ^ 148 + p.dctx.toNat * 2 ^ 160 + p.sctx.toNat * 2 ^ 176 + p.rhi.toNat * 2 ^ 192 +
    p.rlo.toNat * 2 ^ 208 + p.epoch.toNat * 2 ^ 224 + p.cid.toNat * 2 ^ 256 + p.seq.toNat * 2 ^ 288 + p.addr.toNat * 2 ^ 320) ++
  p.payload

/-- The packet that a UET payload holds: its header, and the LEN bytes after it (14 R345). -/
def packetOf (bs : List Byte) : Packet :=
  let x := natOfBytes (bs.take 48)
  ⟨kindOf (bits x 99 96), BitVec.ofNat 64 (bits x 383 320), BitVec.ofNat 32 (bits x 319 288), BitVec.ofNat 32 (bits x 287 256),
    BitVec.ofNat 32 (bits x 255 224), BitVec.ofNat 16 (bits x 223 208), BitVec.ofNat 16 (bits x 207 192),
    BitVec.ofNat 16 (bits x 191 176), BitVec.ofNat 16 (bits x 175 160), BitVec.ofNat 12 (bits x 159 148),
    BitVec.ofNat 12 (bits x 147 136), BitVec.ofNat 24 (bits x 123 100), BitVec.ofNat 4 (bits x 95 92),
    (bs.drop 48).take (bits x 135 124)⟩

/-- A packet takes room in the transit buffer of the port it leaves by (14 R347), whose 2 MiB the port sends at 1.6
Tb/s, or at its share of it (14 R343, 00 R8): 800 bytes in 9 arithmetic clocks. `transit` holds, in 800ths of a clock,
when all that the buffer holds will have been sent. DEDUCED (unsafe), log entry 59. -/
def transitAdd (s : State) (port n : Nat) : Option State :=
  let unit := 9 * tblGet 1 s.breakout (port / 4)
  let now := 800 * s.clock
  let last := Nat.max now (tblGet 0 s.transit port)
  if 2 ^ 21 * unit < last - now + n * unit then none
  else some { s with transit := tblSet 0 s.transit port (last + n * unit) }

/-- A packet for another package (14 R347): sent on by the route's port, or discarded at the hop limit, or where the
transit buffer is full, which its sender hears of (14 R346). One whose package has no route is discarded.
DEDUCED (unsafe), log entry 59. -/
def forwardPacket (s : State) (port : Nat) (p : Packet) (cnt : Option (Nat × Nat)) : State :=
  let discard : State := nackPort (count s 30 port 1) (4 + port) port p.spkg.toNat p.sctx.toNat p.seq
  if p.hops = 15 then discard
  else
    match tblFind s.routes p.dpkg.toNat with
    | some out =>
      match transitAdd s out (48 + p.payload.length) with
      | some s1 => { s1 with wire := s1.wire ++ [.packet out { p with hops := p.hops + 1 } cnt] }
      | none => discard
    | none => s

def ackWire (s : State) (port : Nat) (p : Packet) : State := ackPort s port p.spkg.toNat p.sctx.toNat p.seq
def nackWire (s : State) (eng port : Nat) (p : Packet) : State := nackPort s eng port p.spkg.toNat p.sctx.toNat p.seq

/-- An answer to a packet's sender. -/
def answerPacket (s : State) (kind : PktKind) (p : Packet) (payload : List Byte) : Packet :=
  plainPacket s kind p.dctx.toNat p.spkg p.sctx p.seq payload

/-- A refusal with its record (08 R207). -/
def refusePacket (s : State) (port : Nat) (p : Packet) (r : BitVec 256) : State :=
  { s with wire := s.wire ++ [.packet port (answerPacket s .refusal p (bytesOfNat 32 r.toNat)) none] }

/-- A record of the remote address whose CLASS the spec does not give (log entry 57).
DESIGN CHOICE (safe), log entry 3; DESIGN CHOICE (safe), log entry 57. -/
def freeRecord (s : State) (va : Long) : State × BitVec 256 :=
  let (x, s1) := freeNext s
  (s1, BitVec.ofNat 256 (va.toNat + x % 256 * 2 ^ 128))

/-- What becomes of a packet that comes by an Ethernet port: negatively acknowledged while the mode changes (01 R20);
discarded for a KIND that is reserved (14 R345); forwarded; refused without a record, when the destination's table
names no such sender; negatively acknowledged while the destination does not run; or taken. The engine of a sub-port
that the breakout does not provide serves nothing (14 R330). DEDUCED (unsafe), log entry 59. -/
def receive (s : State) (port : Nat) (p : Packet) (cnt : Option (Nat × Nat)) (deny take : State → State) : State :=
  if !engineServes s (4 + port) then s
  else if s.busy then nackWire s (4 + port) port p
  else if 7 ≤ kindCode p.kind then s
  else if p.dpkg != s.ownPkg then forwardPacket s port p cnt
  else
    match tblFind s.ctxs p.dctx.toNat with
    | none => deny s
    | some c =>
      if c.state != .running then nackWire s (4 + port) port p
      else if c.endpoints.any fun e => e.2.pkg = p.spkg && e.2.ctx = p.sctx then take s
      else deny s

/-- DESIGN CHOICE (safe), log entry 57. -/
def denyFree (port : Nat) (p : Packet) (s : State) : State :=
  let (s1, r) := freeRecord s p.addr
  refusePacket s1 port p r

/-- Who a packet is when its port's relay engine performs it in its destination context (08 R206). -/
def packetWho (s : State) (port : Nat) (p : Packet) : Who :=
  ⟨p.dctx.toNat, engineDie 16 s p.dctx.toNat, some (relayCore (4 + port)), false⟩

/-- An access of a packet is to a line of a directory slice that is being recovered, and is held (05 R132). -/
def packetHeld (s : State) (w : Who) (va : Long) (n : Nat) : Bool :=
  s.dirStatus.any (·.2.recov) && (piecesOf va n).any fun q => heldRequest s w.die (asidOf w.ctx q.1) (lineOf q.1.toNat) true

/-! ### FXFER (08 R206, R207) -/

/-- The data of a transfer, unless its counter has counted it. While its counter has no entry or no credit free, or its
line is held, it has no acknowledgement, and its sender's resend finds it again (08 R201, 14 R346).
DEDUCED (unsafe), log entry 60; DEDUCED (unsafe), log entry 75. -/
def takeData (port : Nat) (p : Packet) (cnt : Option (Nat × Nat)) (s : State) : State :=
  let sender := p.spkg.toNat * 2 ^ 16 + p.sctx.toNat
  let at_ := cnt.bind fun c => (remoteBlock s p.dctx.toNat c.1 c.2).map fun b => (b, c.2)
  let w := packetWho s port p
  -- a packet of this package's own holds its credit already
  let noCredit (b off : Nat) : Bool :=
    if localSender s sender then !monitorRoom s b true off else !creditFree s b true off
  if at_.any fun c => (arrival s c.1 true c.2).seen.contains (sender, p.seq.toNat) then ackWire (count s 34 0 1) port p
  else if packetHeld s w p.addr p.payload.length || at_.any fun c => noCredit c.1 c.2 then s
  else
    match vmWrite s w p.addr p.payload .porterWrite with
    | .error e => refusePacket (afterEng s w e) port p (engRecord e)
    | .ok s1 =>
      let s2 := updCtx s1 p.dctx.toNat fun c => { c with ndet := true }
      let s3 := match at_ with
        | some (b, off) =>
          arrivalAdd s2 b true off p.payload.length sender p.seq.toNat (paoridAgent w.ctx)
            (viewTimes s2 (relayCore (4 + port)) w.ctx w.die)
        | none => s2
      wake (ackWire s3 port p)

def execFxferData (s : State) : Ev :=
  .next (match s.input with
    | .fxferData port p cnt => receive s port p cnt (denyFree port p) (takeData port p cnt)
    | _ => s)

/-! ### FATOM (08 R208) -/

/-- Bytes of a remote atomic's location. -/
def fatomSize (ty : Fmt) : Nat := elemBits ty / 8

/-- How a remote atomic ends at its location: with the old value; refused with a record; or its AtomicOp goes to the
host or a peer device, whose answer the reply waits for. -/
inductive AtomEnd where
  | old (s : State) (x : Nat)
  | bad (s : State) (r : BitVec 256)
  | asked (s : State)

/-- The record of a data error of an atomic. -/
def atomData (w : Who) (va : Long) : BitVec 256 := faultRecord ⟨0xF0, va, 0, 0, false, .atomic, asidOf w.ctx va⟩

/-- What a remote atomic, an acquire-release at `.pkg` by its relay engine, learns at its location (06 R146). -/
def atomHears (s : State) (w : Who) (va : Long) (n : Nat) : State :=
  let p := partView s (w.core.getD deviceCore) w.ctx
  let t := relTimes (paoridAgent w.ctx) .pkg false (relsAt s (asidOf w.ctx va) va.toNat n)
  setPartView s { p with known := p.known.join t }

/-- What it releases there. -/
def atomTells (s : State) (w : Who) (va : Long) (n : Nat) : State :=
  let r : Rel := ⟨0, 0, paoridAgent w.ctx, .pkg, false, viewTimes s (w.core.getD deviceCore) w.ctx w.die⟩
  putRels s (asidOf w.ctx va) va.toNat n true (carryAt (asidOf w.ctx va) va.toNat n [r])

/-- ATOM on special memory: uncached memory in place; the host and peer windows by an AtomicOp, whose answer comes from
outside. -/
def atomSpecial (s : State) (w : Who) (port : Nat) (p : Packet) (ma : Nat) (op : AtomOp) (ty : Fmt) (v : Nat) : AtomEnd :=
  let n := fatomSize ty
  let typeErr : AtomEnd := .bad s (faultRecord (leafFault s w 0x04 p.addr .atomic))
  match regionOf s ma with
  | .stack | .tier =>
    if poisoned s ma then .bad s (atomData w p.addr)
    else
      let old := natOfBytes (memBytes s.mem ma n)
      .old (atomTells (memStore (atomHears s w p.addr n) ma (bytesOfNat n (atomNew op ty (8 * n) old v))) w p.addr n) old
  | .host | .peer =>
    let code := match op with | .add => some 0 | .exch => some 1 | _ => none
    match code, busAddr s ma with
    | some k, some a =>
      let io := s.fresh
      .asked { s with
        fresh := io + 2
        ios := tblPut s.ios io ⟨0, 1, [], [], [], []⟩
        remoteAtoms := s.remoteAtoms ++ [⟨port, p, io, n⟩]
        requests := s.requests ++ [⟨io + 1, io, 0, 0, n, peerRid s ma, p.addr⟩]
        bus := s.bus ++ [.atomic (io + 1) a n k v 0 (requesterId s w.ctx)] }
    | some _, none => .bad s (atomData w p.addr)
    | none, _ => typeErr
  | .aliasMem | .regs | .reserved => typeErr

/-- ATOM at the L2 of the destination package, as an acquire-release. DEDUCED (unsafe), log entry 58. -/
def remoteAtom (s : State) (w : Who) (port : Nat) (p : Packet) (op : AtomOp) (ty : Fmt) (v : Nat) : AtomEnd :=
  let n := fatomSize ty
  match l2ReadBytes s w p.addr n .atomic with
  | .error (.fault f) => .bad s (faultRecord f)
  | .error (.special ma _) => atomSpecial s w port p ma op ty v
  | .ok (s1, bs, poison) =>
    if poison then .bad s (atomData w p.addr)
    else
      let old := natOfBytes bs
      match l2Write (atomHears s1 w p.addr n) w p.addr (bytesOfNat n (atomNew op ty (8 * n) old v)) .atomic true with
      | .ok s2 => .old (atomTells s2 w p.addr n) old
      | .error (.fault f) => .bad s (faultRecord f)
      | .error (.special _ _) => .bad s (faultRecord (leafFault s w 0x04 p.addr .atomic))

/-- Sends a reply, and keeps it for a duplicate of the request. -/
def replyAtom (s : State) (port : Nat) (p : Packet) (old status : Long) : State :=
  { s with
    answered := s.answered ++ [⟨p.spkg.toNat, p.sctx.toNat, p.seq, old, status⟩]
    wire := s.wire ++ [.reply port (answerPacket s .fatomReply p (bytesOfNat 16 (old.toNat + status.toNat * 2 ^ 64))) old status] }

/-- A refused atomic: its status is the record's CLASS; of the old value nothing is known. -/
def refuseAtom (s : State) (port : Nat) (p : Packet) (r : BitVec 256) : State :=
  let (x, s1) := freeNext s
  replyAtom s1 port p (BitVec.ofNat 64 x) (BitVec.ofNat 64 (bits r.toNat 135 128))

/-- DESIGN CHOICE (safe), log entry 57. -/
def denyAtom (port : Nat) (p : Packet) (s : State) : State :=
  let (s1, r) := freeRecord s p.addr
  refuseAtom s1 port p r

/-- DEDUCED (unsafe), log entry 75. -/
def takeAtom (port : Nat) (p : Packet) (op : AtomOp) (ty : Fmt) (v : Long) (s : State) : State :=
  match s.answered.find? fun a => a.pkg = p.spkg.toNat && a.ctx = p.sctx.toNat && a.seq = p.seq with
  | some a =>
    { s with wire := s.wire ++
        [.reply port (answerPacket s .fatomReply p (bytesOfNat 16 (a.old.toNat + a.status.toNat * 2 ^ 64))) a.old a.status] }
  | none =>
    let w := packetWho s port p
    let noted (s : State) : State := updCtx s p.dctx.toNat fun c => { c with ndet := true }
    if p.addr.toNat % fatomSize ty != 0 then denyAtom port p s
    else if packetHeld s w p.addr (fatomSize ty) ||
        s.remoteAtoms.any fun a => a.p.spkg = p.spkg && a.p.sctx = p.sctx && a.p.seq = p.seq then s
    else
      match remoteAtom s w port p op ty (v.toNat % 2 ^ elemBits ty) with
      | .bad s1 r => refuseAtom s1 port p r
      | .asked s1 => noted s1
      | .old s1 old => wake (replyAtom (noted s1) port p (BitVec.ofNat 64 old) 0)

/-- The answer to the AtomicOp of a remote atomic has come: its reply (08 R208). DEDUCED (unsafe), log entry 58. -/
def answerAtom (s : State) (io : Nat) : State :=
  match s.remoteAtoms.find? fun a => a.io = io, tblFind s.ios io with
  | some a, some y =>
    if y.wants != 0 then s
    else
      let s1 : State := { s with remoteAtoms := s.remoteAtoms.erase a, ios := tblDel s.ios io }
      if y.errs != [] then refuseAtom s1 a.port a.p (atomData (packetWho s1 a.port a.p) a.p.addr)
      else wake (replyAtom s1 a.port a.p (BitVec.ofNat 64 (tblGet 0 y.vals 0)) 0)
  | _, _ => s

def execFatomRequest (s : State) : Ev :=
  .next (match s.input with
    | .fatomRequest port p op ty v => receive s port p none (denyAtom port p) (takeAtom port p op ty v)
    | _ => s)

/-- A remote atomic's registers are written and full. DEDUCED (unsafe), log entry 58. -/
def endAtom (s : State) (prod dst : Nat) (old status : Long) : State :=
  let ws : List RegWrite := [⟨.scalar, dst, allLanes, [old]⟩, ⟨.scalar, dst + 1, allLanes, [status]⟩]
  completeProducer { s with producers := tblUpd s.producers prod fun p => { p with writes := ws } } prod

/-- A context is stopped: packets for it are refused (14 R349). DEDUCED (unsafe), log entry 59. -/
def ctxStopped (s : State) (k : Nat) : Bool := (tblFind s.ctxs k).any fun c => c.state = .stopped

/-- An answer that comes by a port while the mode changes, or its context is stopped, is discarded and negatively
acknowledged (01 R20, 14 R346). DEDUCED (unsafe), log entry 59. -/
def nackFlight (s : State) (f : Flight) : State := nackPort s (4 + f.port) f.port f.p.dpkg.toNat f.p.dctx.toNat f.p.seq

def execFatomReply (s : State) : Ev :=
  .next (match s.input with
    | .fatomReply ctx seq old status =>
      match flightOf s ctx seq with
      | some f =>
        if s.busy || ctxStopped s ctx then nackFlight s f
        else
        match f.owner with
        | .fatom _ prod dst => endAtom (dropFlight (progress s f) ctx seq) prod dst old status
        | .xfer .. | .slot .. => s
      | none => s
    | _ => s)

/-! ### Refusals, negative acknowledgements and timeouts -/

/-- What a packet belonged to ends without it: `record` for an FXFER, `status` for an FATOM, `cause` for an instance. -/
def endFlight (s : State) (f : Flight) (record : BitVec 256) (status : Long) (cause : Nat) : State :=
  let s1 := dropFlight s f.ctx f.p.seq
  match f.owner with
  | .xfer id i => dropTransfer (if (tblFind s1.porterOps id).any opActive then faultOp s1 id 0xF1 record else s1) id i 0
  | .fatom _ prod dst =>
    let (x, s2) := freeNext s1
    endAtom s2 prod dst (BitVec.ofNat 64 x) status
  | .slot k _ => wake (relayFault s1 k cause none)

def execRefusal (s : State) : Ev :=
  .next (match s.input with
    | .refusal ctx seq cls r =>
      match flightOf s ctx seq with
      | some f => if s.busy || ctxStopped s ctx then nackFlight s f else endFlight s f r (cls.setWidth 64) 7
      | none => s
    | _ => s)

/-- The engine that sent a packet. DEDUCED (unsafe), log entry 59. -/
def flightEngine (s : State) (f : Flight) : Nat :=
  match f.owner with
  | .slot k _ => ((tblFind s.instances k).map (·.engine)).getD (4 + f.port)
  | .xfer .. | .fatom .. => 4 + f.port

/-- The packets that a negative acknowledgement names: one, or under ROD every one from it onwards. -/
def namedBy (f g : Flight) : Bool :=
  (g.ctx = f.ctx && g.p.seq = f.p.seq) ||
    (f.rod && g.rod && g.ctx = f.ctx && g.port = f.port && g.p.dpkg = f.p.dpkg && (g.p.seq - f.p.seq).toNat < 2 ^ 31)

/-- A path fails after 64 resends of one packet, or 500 ms, at 2.25 GHz (00 R8), without progress (14 R346), not while
its context is stopped. DEDUCED (unsafe), log entry 59. -/
def pathDead (s : State) (f : Flight) : Bool :=
  !ctxStopped s f.ctx && (64 ≤ f.resends || f.since + 1125000000 ≤ s.clock)

/-- A path has failed (14 R346). -/
def pathFailed (s : State) (f : Flight) : State := endFlight s f 0 0x100 6

def execNegativeAcknowledgement (s : State) : Ev :=
  .next (match s.input with
    | .negativeAcknowledgement ctx seq =>
      match flightOf s ctx seq with
      | some f =>
        let s1 := count s 29 (flightEngine s f) 1
        if pathDead s f then pathFailed s1 f else resend s1 (namedBy f)
      | none => s
    | _ => s)

def execPacketResendTimeout (s : State) : Ev :=
  .next (match s.input with
    | .packetResendTimeout ctx seq =>
      match flightOf s ctx seq with
      | some f => if pathDead s f then pathFailed s f else resend s fun g => g.ctx = ctx && g.p.seq = seq
      | none => s
    | _ => s)

/-! ### Chunks and nodes that reach an engine (14 R331, R338, R345) -/

/-- The slot of a packet that arrives at an engine. A contribution of BF16 elements is widened. -/
def packetSlot (s : State) (eng port : Nat) (p : Packet) (ecc : Bool) : Slot :=
  let half := p.kind = .contribution && (members s p.cid.toNat).any fun e => e.2.kind = 1 && e.2.ity = 0x11
  ⟨p.dctx.toNat, eng, p.cid.toNat, p.rlo.toNat, p.rhi.toNat, p.epoch.toNat, p.chunk.toNat, p.payload.length, port,
    p.spkg.toNat, p.sctx.toNat, p.seq, if half then widen p.payload else p.payload, false, ecc⟩

/-- A relay packet that its destination takes, unless no slot or no binding is there for it. It is acknowledged once
its key has been looked at (`ackSlot`). DEDUCED (unsafe), log entry 59. -/
def takeRelay (eng port : Nat) (p : Packet) (ecc : Bool) (s : State) : State :=
  if !engineServes s eng then s
  else if !((members s p.cid.toNat).any fun e => e.2.engine = eng) then nackWire s eng port p
  else
    match engineArrive s (packetSlot s eng port p ecc) (slotFree s p.dctx.toNat) with
    | (s1, .refused) => nackWire s1 eng port p
    | (s1, .taken) => wake s1
    | (s1, .duplicate) => wake (ackWire s1 port p)

/-- A relay packet: one that the destination's table does not admit is refused (14 R348). -/
def relayArrival (s : State) (eng port : Nat) (p : Packet) (ecc : Bool) : State :=
  receive s port p none (denyFree port p) (takeRelay eng port p ecc)

/-- The oldest chunk that a stager on a die has sent to an engine, of a context that runs.
DEDUCED (unsafe), log entry 61. -/
def nextContribution (s : State) (eng port : Nat) : Option (Nat × Binding × Stage) :=
  s.bindings.findSome? fun e =>
    if e.2.engine = eng && engineServes s eng && 96 + e.2.die = port && sourcesOpen s e.2.ctx then
      ((sentStages e.2).head?).map fun g => (e.1, e.2, g)
    else none

/-- DEDUCED (unsafe), log entry 61. -/
def execContribution (s : State) : Ev :=
  .next (match s.input with
    | .contribution eng port none ecc =>
      match nextContribution s eng port with
      | some (mfn, b, g) => contribute s mfn b g ecc
      | none => s
    | .contribution eng port (some p) ecc => relayArrival s eng port p ecc
    | _ => s)

def execPartialArrival (s : State) : Ev :=
  .next (match s.input with
    | .partialArrival eng port p ecc => relayArrival s eng port p ecc
    | _ => s)

def execResultArrival (s : State) : Ev :=
  .next (match s.input with
    | .resultArrival eng port p ecc => relayArrival s eng port p ecc
    | _ => s)

/-! ### The array, the loft and factorisations -/

def execPassStart (s : State) : Ev :=
  .next (match s.input with
    | .passStart q => startPass s q
    | _ => s)

/-- A pass ends: an error of a loft word it reads, then its residue checks, then its results (12 R267, R287, R290). -/
def execPassEnd (s : State) : Ev :=
  .next (match s.input with
    | .passEnd q bad off e =>
      if (quadOf s q).pass = [] then s
      else
        let s1 := loftEcc s q off e
        match bad with
        | some rb => if (quadOf s q).fenced.getLsbD rb.val then finishPass s1 q else wake (runTests (residueFailed s1 q rb.val) q)
        | none => finishPass s1 q
    | _ => s)

def execSelfTestInject (s : State) : Ev :=
  .next (match s.input with
    | .selfTestInject q rb fail1 fail2 => if q < 640 then wake (runTests (injectTest s q rb fail1 fail2) q) else s
    | _ => s)

/-- The oldest fill of a quadrant completes; a scratchpad word that it reads may have become poisoned. -/
def execLoftFillComplete (s : State) : Ev :=
  .next (match s.input with
    | .loftFillComplete q off e =>
      match (quadOf s q).fills with
      | [] => s
      | f :: _ =>
        let s1 := match f.kind with
          | .tile _ _ => s
          | _ => if f.die then s else scratchEcc s (blockIdOf s f.gid) off e
        completeFill s1 q
    | _ => s)

/-- The running factorisation commits its next column, or reads units of it early; in a context that stops it is
interrupted at the commit (13 R313). A loft word may show an error as it is read (12 R267). -/
def execColumnCommit (s : State) : Ev :=
  .next (match s.input with
    | .columnCommit q bad early off e =>
      match (quadOf s q).facts with
      | [] => s
      | o :: _ =>
        if !isFactor o.kind then s
        else if early != [] then readEarly s q early
        else
          let s1 := loftEcc s q off e
          if groupOpen s o.gid then commitColumn s1 q bad else interruptAtCommit s1 q bad o
    | _ => s)

def execFactorisationEnd (s : State) : Ev :=
  .next (match s.input with
    | .factorisationEnd q early off e =>
      match (quadOf s q).facts with
      | [] => s
      | o :: _ => if early != [] && !isFactor o.kind then readEarly s q early else finishFact (loftEcc s q off e) q
    | _ => s)

end Sys2Proof.Machine
end

