-- ==== Sys2Proof/Machine/Resets.lean ====
section
/-! DEFINITION. Resets (19 R449, R450; 04 R89; 05 R134): what each level loses, and the contexts that stop with it. -/

namespace Sys2Proof.Machine

/-! ### Replies (19 R446) -/

def replyWith (s : State) (st : MgmtStatus) (v : Nat) : State := { s with reply := ⟨st, v⟩ }
def replyOk (s : State) (v : Nat) : State := replyWith s .ok v
def replyBad (s : State) : State := replyWith s .invalidArgument 0
def replyBusy (s : State) : State := replyWith s .busy 0

/-- A request to the host complex: busy while its firmware restarts; refused before its firmware runs, and in recovery
unless it is of the firmware update (19 R444, R447). DEDUCED (unsafe), log entry 67. -/
def request_ (s : State) (update : Bool) (f : State → State) : State :=
  if s.firmware.restart then replyBusy s
  else if s.stage = .rom || (s.stage = .recovery && !update) then replyWith s .refused 0
  else f s

/-! ### What a reset leaves undefined -/

/-- The content of lines of stack DRAM that a reset loses: of their bytes nothing is known. The second tier's content
survives a die's reset and a Paorid reset (04 R89).
DESIGN CHOICE (safe), log entry 3; DEDUCED (safe), log entry 69. -/
def loseLines (s : State) (l : List Nat) : State :=
  (l.filter fun ma => regionOf s ma = .stack).foldl (fun s ma =>
    let (s1, bs) := freeBytes s 128
    { s1 with mem := memWrite s1.mem ma bs }) s

/-- A line that its L2 holds dirty. -/
def dirtyLine (l : L2Line) : Bool := l.st = .m || l.st = .o

/-! ### Groups that end (19 R449, R450) -/

/-- Operations of groups that are gone. -/
def dropWork (s : State) (mine : Nat → Bool) : State :=
  let clean (x : Quad) : Quad := { x with
    queue := x.queue.filter fun o => !mine o.gid
    pass := x.pass.filter fun o => !mine o.gid
    tests := x.tests.filter fun o => !mine o.gid
    fills := x.fills.filter fun o => !mine o.gid
    facts := x.facts.filter fun o => !mine o.gid }
  { s with
    producers := s.producers.filter fun e => !mine e.2.gid
    porters := s.porters.filter fun e => !((tblFind s.porterOps e.2).any fun o => mine o.gid)
    porterOps := s.porterOps.filter fun e => !mine e.2.gid
    ios := s.ios.filter fun e => !mine e.2.gid
    requests := s.requests.filter fun r => !((tblFind s.ios r.io).any fun e => mine e.gid)
    flights := s.flights.filter fun f => match f.owner with
      | .fatom g _ _ => !mine g
      | .xfer id _ => !((tblFind s.porterOps id).any fun o => mine o.gid)
      | .slot .. => true
    quads := (s.quads.map fun e => (e.1, clean e.2)).filter fun e => decide (e.2 ≠ newQuad)
    stalled := s.stalled.filter fun e => !mine e.1 }

/-- The groups on the quadrants that hold end, and their grids fail with cause 0x23. -/
def endGroupsOn (s : State) (on : Nat → Bool) : State :=
  let l := s.groups.filter fun e => on e.2.quad
  let s1 := flushRecs (dropWork (l.foldl (fun s e => killGroup s e.1 0x23) s) fun gid => l.any fun e => e.1 = gid)
  wake (l.foldl (fun s e => endGroup s e.1) s1)

/-! ### Contexts that stop without a cut (05 R134, 19 R449, R450) -/

/-- A context's grids that have started fail with cause 0x23, and its blocks are gone. What it has accepted stays, and
the record of a grid that has pushed a command which is not accepted (16 R378). -/
def loseGrids (s : State) (k : Nat) : State :=
  let s1 := (s.grids.filter fun e => e.2.ctx = k && e.2.state = .started).foldl
    (fun s e => setGridState s e.1 .failed 0x23 0) s
  let kept := s1.grids.filter fun e => e.2.ctx = k && (e.2.state = .accepted || pushedBy s1 e.1 none)
  let s2 := dropBlocks s1 k
  { s2 with grids := kept.foldl (fun t e => tblPut t e.1 e.2) s2.grids }

/-- A context that has not stopped stops without a cut, and its parent is told, as of any stop (18 R426): nothing of it
is saved. DEDUCED (unsafe), log entry 71. -/
def stopBare (s : State) (k : Nat) : State :=
  if !((tblFind s.ctxs k).any ctxLive) then s
  else
    let s1 := updCtx (loseGrids s k) k fun c => { c with
      state := .stopped, cause := if c.state = .running then 0 else c.cause
      stop := none, saved := false, slice := 0, sliceEnd := none }
    let s2 : State := { s1 with
      sq := s1.sq.filter fun e => e.ctx != k
      late := s1.late.filter fun e => e.ctx != k
      parts := s1.parts.filter fun p => p.ctx != k }
    notice (sendRecord s2 (parentOf s2 k) ⟨6, 0x13, k, 0, 0, 0, 0, 0, 0, 0, 0, 0⟩) k

/-! ### Caches of a die that a reset empties -/

/-- The lines of the L2s that hold go, with their L1 copies and what the directory knows of them; lines that were dirty
are lost. -/
def loseL2 (s : State) (p : L2Line → Bool) : State :=
  let gone := s.l2.filter p
  let at_ (die asid va : Nat) : Bool := gone.any fun l => l.die = die && l.asid = asid && l.va = va
  let fix (d : DirEntry) : DirEntry :=
    { d with
      owner := d.owner.filter fun o => !at_ o.1 d.asid d.va
      sharers := (List.range 4).foldl (fun v i => if at_ i d.asid d.va then v &&& ~~~(dieBit i) else v) d.sharers }
  loseLines { s with
    l2 := s.l2.filter fun l => !p l
    l1 := s.l1.filter fun c => !at_ (dieOfCore c.core) c.asid c.va
    dir := (s.dir.map fix).filter fun d => d.owner.isSome || d.sharers != 0 }
    ((gone.filter dirtyLine).map (·.ma))

/-! ### The levels -/

/-- A package reset: flash, fuses and the content of the second tier survive it (19 R449). The images that waited for it
are active. DESIGN CHOICE (unsafe), log entry 8; DEDUCED (unsafe), log entry 70. -/
def resetPackage (s : State) : State :=
  let tier (a : Nat) : Bool := decide (0x080000000000 ≤ a) && decide (a < 0x100000000000)
  let fw := s.firmware
  let flip (t : Tbl Nat) (ty : Nat) (b : Bool) : Tbl Nat := if b then tblSet 0 t ty (1 - tblGet 0 t ty) else t
  { State.reset with
    agenda := s.agenda
    fresh := s.fresh
    free := s.free
    mode := fw.boot.partmode
    mem := s.mem.filter fun e => tier e.1
    poison := s.poison.filter fun e => tier (64 * e.1)
    rewritten := s.rewritten.filter fun e => tier (128 * e.1)
    firmware := { fw with
      active := flip (flip fw.active 2 (fw.pend.any fun p => 8 ≤ p)) 3 (fw.pend.contains 3)
      verified := [], fallback := false, update := none, verifiedUpdate := none, pend := [], restart := false } }

/-- A Paorid reset (05 R134): every context stops without a cut; a line that is dirty in an L2 other than its home's
is lost, and one that its home die was writing back reaches its stack; the directory, the relay engines, the ports and
the host complex are as at reset. DEDUCED (unsafe), log entry 70. -/
def resetPaorid (s : State) : State :=
  let s1 := loseL2 s fun l => lineHome s l != l.die
  let own (e : WbEntry) : Bool := homeDie s e.die e.asid e.va e.ma = e.die
  let s2 := loseLines { (s1.wb.filter own).foldl wbComplete s1 with wb := [] } ((s1.wb.filter (!own ·)).map (·.ma))
  let s3 := flushLines s2 (fun _ _ _ => true) fun _ _ => true
  let s4 : State := { s3 with
    dir := [], dirStatus := [], l1 := [], bindings := [], slots := [], instances := [], keys := [], flights := []
    answered := [], routes := [], breakout := [], ownPkg := 0, programs := [], transit := [], missing := []
    peerWin := [], ios := [], remoteAtoms := [], arrived := [], opReads := [], requests := [], heldAccess := [], busy := false, newMode := none
    stage := .rom, reply := ⟨.ok, 0⟩
    firmware := { s3.firmware with verified := [], fallback := false, update := none, verifiedUpdate := none, restart := false } }
  wake (s4.ctxs.foldl (fun s e => stopBare s e.1) s4)

/-- A context holds a frame of stack DRAM that is homed to a die's stacks. DEDUCED (unsafe), log entry 71. -/
def framesOn (s : State) (k : Nat) (c : Context) (die : Nat) : Bool :=
  k = 1 || (((c.map.filter fun m => m.2.state != .lent).map fun m => m.2.mfn) ++ c.save ++ c.mapFrames).any fun m =>
    (framePartition s m).any fun p => p = partitionOf s die

/-- The quadrants that hold are as at reset, but for what MSTAT counts since package reset (12 R289). -/
def bareQuads (s : State) (p : Nat → Bool) : Tbl Quad :=
  (s.quads.map fun e =>
    (e.1, if p e.1 then { newQuad with faulty := e.2.faulty, stfail := e.2.stfail, lpois := e.2.lpois, lecc := e.2.lecc } else e.2)).filter
      fun e => decide (e.2 ≠ newQuad)

/-- What a die's reset leaves of its caches: nothing (19 R449). DEDUCED (unsafe), log entry 71. -/
def emptyDie (s : State) (die : Nat) : State :=
  let s1 := loseLines (loseL2 s fun l => l.die = die) ((s.wb.filter fun e => e.die = die).map (·.ma))
  { s1 with
    wb := s1.wb.filter fun e => e.die != die
    l1 := s1.l1.filter fun l => dieOfCore l.core != die
    parts := s1.parts.filter fun p => dieOfCore p.core != die
    sq := s1.sq.filter fun e => dieOfCore e.core != die
    late := s1.late.filter fun e => dieOfCore e.core != die
    sliceMts := s1.sliceMts.filter fun e => e.1 / 16 != die
    tlb := s1.tlb.filter fun e => e.stack / 4 != die
    tables := s1.tables.filter fun e => e.stack / 4 != die
    frames := s1.frames.filter fun e => e.stack / 4 != die }

/-- A ZC die's reset (19 R449). Its caches are empty before the contexts that it stops are written of, so that those
records stay (19 R450). DEDUCED (unsafe), log entry 71. -/
def resetDie (s : State) (die : Nat) : State :=
  let onDie (q : Nat) : Bool := q < 640 && dieOfQuad q = die
  let hit := s.ctxs.filter fun e => (quadsOf s e.1).any onDie || framesOn s e.1 e.2 die
  let s2 := hit.foldl (fun s e => stopBare s e.1) (emptyDie s die)
  let fw := s2.firmware
  let pend := fw.pend.filter fun p => p != 8 + die
  let last := fw.pend.any (fun p => 8 ≤ p) && !pend.any fun p => 8 ≤ p
  wake { s2 with
    fetched := s2.fetched.filter fun f => !onDie f.quad
    quads := bareQuads s2 onDie
    loft := s2.loft.filter fun e => !onDie (e.1 / 2 ^ 20)
    loftPoison := s2.loftPoison.filter fun e => !onDie (e.1 / 2 ^ 18)
    porters := s2.porters.filter fun e => e.1 / 12 != die
    firmware := { fw with pend := pend, active := if last then tblSet 0 fw.active 2 (1 - tblGet 0 fw.active 2) else fw.active } }

/-- The quadrants that hold are as at reset, but for their holders; their groups have ended. -/
def clearQuads (s : State) (p : Nat → Bool) : State :=
  { s with
    quads := bareQuads s p
    loft := s.loft.filter fun e => !p (e.1 / 2 ^ 20)
    loftPoison := s.loftPoison.filter fun e => !p (e.1 / 2 ^ 18)
    fetched := s.fetched.filter fun f => !p f.quad }

/-- DEDUCED (unsafe), log entry 71. -/
def resetQuad (s : State) (q : Nat) : State := clearQuads (endGroupsOn s (· = q)) (· = q)

/-- A core's reset: its quadrants, L1 and scratchpad. DEDUCED (unsafe), log entry 71. -/
def resetCore (s : State) (core : Nat) : State :=
  let s1 := clearQuads (endGroupsOn s fun q => q < 640 && coreOfQuad q = core) fun q => q < 640 && coreOfQuad q = core
  { s1 with
    l1 := s1.l1.filter fun l => l.core != core
    parts := s1.parts.filter fun p => p.core != core
    sq := s1.sq.filter fun e => e.core != core
    blocks := tblMap s1.blocks fun _ b => if b.core = core && !b.saved then { b with spad := [], poison := [], arr := [] } else b }

/-- A porter's reset: its operation is queued again. DEDUCED (unsafe), log entry 71. -/
def resetPorter (s : State) (porter : Nat) : State :=
  match tblFind s.porters porter with
  | none => s
  | some id =>
    wake { updOp s id fun o => if o.state = .running then { o with state := .queued } else o with
      porters := tblDel s.porters porter }

/-- A relay engine's reset: its instances fail with relay fault 0x06; its slots and keys go.
DEDUCED (unsafe), log entry 71. -/
def resetRelay (s : State) (eng : Nat) : State :=
  let s1 := (s.instances.filter fun e => e.2.engine = eng).foldl (fun s e => relayFault s e.1 6 none) s
  wake (pumpAll { s1 with
    slots := s1.slots.filter fun e => e.2.engine != eng
    keys := s1.keys.filter fun k => k.engine != eng })

/-- A context's reset: its subtree is removed, as its parent's CTXREVOKE `.all` would (19 R449).
DEDUCED (unsafe), log entry 71. -/
def resetContext (s : State) (k : Nat) : State :=
  match tblFind s.ctxs k with
  | none => s
  | some c =>
    if c.parent = 0 then s
    else
      let s1 := removeTree s c.parent k
      { s1 with vfs := s1.vfs.filter fun e => (tblFind s1.ctxs e.2).isSome }

/-! ### The events -/

/-- A reset that management asks for (19 R446, R449): invalid-argument for an instance that is not there, busy while the
mode changes. DEDUCED (unsafe), log entry 67; DEDUCED (unsafe), log entry 71. -/
def resetRequest (s : State) (there : Bool) (f : State → State) : State :=
  request_ s false fun s => if !there then replyBad s else if s.busy then replyBusy s else replyOk (f s) 0

def execPackageReset (s : State) : Ev :=
  .next (match s.input with
    | .packageReset => resetRequest s true resetPackage
    | _ => resetPackage s)

def execPaoridReset (s : State) : Ev :=
  .next (match s.input with
    | .paoridReset => resetRequest s true resetPaorid
    | _ => resetPaorid s)

def execZcDieReset (s : State) : Ev :=
  .next (match s.input with
    | .zcDieReset die true => resetRequest s (die < 4) fun s => resetDie s die
    | .zcDieReset die false => if die < 4 then resetDie s die else s
    | _ => s)

def execCoreReset (s : State) : Ev :=
  .next (match s.input with
    | .coreReset core => resetRequest s (core < 160) fun s => resetCore s core
    | _ => s)

def execQuadrantReset (s : State) : Ev :=
  .next (match s.input with
    | .quadrantReset q => resetRequest s (q < 640) fun s => resetQuad s q
    | _ => s)

def execPorterReset (s : State) : Ev :=
  .next (match s.input with
    | .porterReset p => resetRequest s (p < 48) fun s => resetPorter s p
    | _ => s)

def execRelayEngineReset (s : State) : Ev :=
  .next (match s.input with
    | .relayEngineReset eng => resetRequest s (eng < 100) fun s => resetRelay s eng
    | _ => s)

def execContextReset (s : State) : Ev :=
  .next (match s.input with
    | .contextReset k => resetRequest s ((tblFind s.ctxs k).any fun c => c.parent != 0) fun s => resetContext s k
    | _ => s)

/-- A porter that makes no progress for 10 ms is reset (19 R449). -/
def execPorterNoProgress (s : State) : Ev :=
  .next (match s.input with
    | .porterNoProgress p => resetPorter s p
    | _ => s)

/-- A relay engine that makes no progress for 10 ms is reset (19 R449). -/
def execRelayNoProgress (s : State) : Ev :=
  .next (match s.input with
    | .relayNoProgress eng => resetRelay s eng
    | _ => s)

end Sys2Proof.Machine
end

