-- ==== Sys2Proof/Machine/Management.lean ====
section
/-! DEFINITION. Boot and management (19 R443-R448; 01 R18-R20; 05 R132; 18 R409, R428; 14 R330, R343, R347). -/

namespace Sys2Proof.Machine

/-! ### Images (19 R443, R444, 14 R330) -/

/-- Every header field is in its range: MAGIC, the TYPE asked for, KEYIDX, LENGTH as the payload is long, and zeros
from 0xD3D to the payload (19 R443). DEDUCED (unsafe), log entry 67. -/
def headerOk (ty : Nat) (x : FwImage) : Bool :=
  imageField x 0 4 = 0x4D495A43 && imageField x 4 2 = ty && imageField x 6 2 < 4 && imageField x 0x0C 4 = x.payload.length &&
    x.header.all fun e => e.1 < 0xD3D || e.2 = 0

/-- An image passes every check (19 R444). -/
def imageOk (f : Firmware) (ty : Nat) (x : FwImage) : Bool :=
  headerOk ty x && x.keysMatch && x.edOk && x.mlOk && !f.revoked.getLsbD (imageField x 6 2) &&
    tblGet 0 f.minSvn ty ≤ imageSvn x

/-- The relay instruction reads LDK field 5, or branches. -/
def relayWordOk (arrival : Bool) (n : Nat) (i : Instr) : Bool :=
  match i with
  | .relayLdk m _ _ f => arrival || !(m = 1 && f = 5)
  | .bne _ _ t => t.toNat < n
  | .jmp t => t.toNat < n
  | _ => true

/-- A program as its loader takes it; a program it refuses is not loaded. -/
def loadProgram (bs : List Byte) : Option Program :=
  let n := field bs 0x04 2
  let slotmin := field bs 0x06 2
  let flags := field bs 0x08 1
  let code : List RelayWord := (List.range n).map fun i => BitVec.ofNat 64 (field bs (0x10 + 8 * i) 8)
  let good := code.all fun w => (decodeRelay w).any (relayWordOk (bit flags 0) n)
  if field bs 0 4 = 0x4C455259 && 1 ≤ n && n ≤ 1024 && 1 ≤ slotmin && slotmin ≤ 4096 && flags < 2 &&
      field bs 0x0A 6 = 0 && good then
    some ⟨field bs 0x09 1, slotmin, bit flags 0, code⟩
  else none

/-- The program images of a payload, one after another; the first argument bounds their number. -/
def programImages : Nat → List Byte → List (List Byte)
  | 0, _ => []
  | k + 1, bs =>
    let n := 0x10 + 8 * field bs 0x04 2
    if bs = [] then [] else bs.take n :: programImages k (bs.drop n)

/-- The programs that a relay program set carries. -/
def loadPrograms (x : FwImage) : List Program := (programImages 256 x.payload).filterMap loadProgram

/-! ### Boot (19 R443, 18 R409, R428) -/

/-- The stages of the boot: images are verified in the order of their TYPEs. -/
def bootStage (ty : Nat) : BootStage := if 4 ≤ ty then .engines else .firmware

/-- An image of a TYPE is verified and loaded. -/
def tookImage (s : State) (ty : Nat) (x : FwImage) : State :=
  { s with
    stage := bootStage ty
    firmware := { s.firmware with verified := s.firmware.verified ++ [ty] }
    programs := if ty = 4 then loadPrograms x else s.programs }

/-- The next image of the boot is verified: the active bank's, else the other's; if neither passes, the package stops
in recovery. -/
def bootImage (s : State) (ty : Nat) : State :=
  let f := s.firmware
  let a := tblGet 0 f.active ty
  let bank (b : Nat) : Option FwImage := (tblFind f.banks (2 * ty + b)).filter (imageOk f ty)
  if (s.stage != .rom && s.stage != .firmware) || ty != f.verified.length + 1 || 4 < ty then s
  else
    match bank a, bank (1 - a) with
    | some x, _ => tookImage s ty x
    | none, some x =>
      tookImage { s with firmware := { f with active := tblSet 0 f.active ty (1 - a), fallback := true } } ty x
    | none, none => { s with stage := .recovery }

/-- DESIGN CHOICE (safe), log entry 7. -/
def execImageVerify (s : State) : Ev :=
  .next (match s.input with
    | .imageVerify ty => bootImage s ty
    | _ => s)

/-- The root's save frames: from the top of stack DRAM downwards (18 R428). DESIGN CHOICE (unsafe), log entry 54. -/
def rootSave : List Nat :=
  let n := (saveNeed (List.range 640) (2 * relaySlots) + frameBytes - 1) / frameBytes
  (List.range n).map fun i => 393216 - n + i

/-- The root context (18 R409). DESIGN CHOICE (unsafe), log entry 2; DESIGN CHOICE (unsafe), log entry 54. -/
def rootContext (b : BootSettings) : Context :=
  { newContext [] 0 0 [] with
    state := .running
    troot := b.troot
    fmlen := 2 ^ 27
    gbbase := b.gbbase
    gblog2 := b.gblog2
    fq := ⟨b.fqbase, b.fqlog2, 1, 0⟩
    ceil := 7
    rights := 0xF
    debug := false
    nextSeq := 1
    purse := b.purse
    granted := b.purse
    relayG := relaySlots
    relayCap := relaySlots
    save := rootSave }

/-- What the host complex has set up when it creates the root: `tier` frames of second-tier memory, from its base
upwards and in whole multiples of four (04 R88, 19 R442), the root table of the global range (04 R100), and its
frames, which the owner table calls global (04 R104). DESIGN CHOICE (unsafe), log entry 88. -/
def setUp (s : State) (tier gtroot : Nat) (globals : List Nat) : State :=
  { s with
    secondTier := Nat.min (tier / 4 * 4) (2 ^ 22)
    gtroot := gtroot % 2 ^ 48
    owners := (globals.filter fun f => f < 393216).foldl (fun t f => tblPut t f ⟨.global, 1, 0⟩) s.owners
    ctxs := tblPut s.ctxs 1 (rootContext s.firmware.boot) }

/-- The engines are loaded: the root is created and STAGE is ready. After a Paorid reset the tree is still there, and
memory is as it was populated. -/
def bootReady (s : State) (tier gtroot : Nat) (globals : List Nat) : State :=
  if s.stage != .engines then s
  else wake { (if (tblFind s.ctxs 1).isSome then s else setUp s tier gtroot globals) with stage := .ready }

/-- DESIGN CHOICE (safe), log entry 7; DESIGN CHOICE (unsafe), log entry 88. -/
def execStageReady (s : State) : Ev :=
  .next (match s.input with
    | .stageReady tier gtroot globals => bootReady s tier gtroot globals
    | _ => bootReady s 0 0 [])

/-! ### PARTMODE (01 R18-R20) -/

/-- Steps 1 and 2 of a mode change. -/
def changeMode (s : State) (m : Nat) : State :=
  if s.busy || s.firmware.update.isSome then replyBusy s
  else if m != 1 && m != 2 && m != 4 then replyBad s
  else
    let stop (_ : Nat) (c : Context) : Context :=
      if c.state = .running then { c with state := .stopping, cause := 5, stop := some ⟨0, s.clock, true⟩ } else c
    replyOk (wake { s with busy := true, newMode := some m, ctxs := tblMap s.ctxs stop }) 0

/-- DEDUCED (unsafe), log entry 68. -/
def execPartmodeChange (s : State) : Ev :=
  .next (match s.input with
    | .partmodeChange m => request_ s false fun s => changeMode s m
    | _ => s)

/-- The lines that an access of the host or of a peer device touches are written back and leave the caches. -/
def busOut (s : State) (lo n : Nat) : State := flushLines s (fun _ _ ma => lo < ma + 128 && ma < lo + n) fun _ _ => false

/-- A write of the host or of a peer device to memory; NDET of the context that holds the frame is set (18 R437).
DEDUCED (unsafe), log entry 75. -/
def busStore (s : State) (ma : Nat) (bs : List Byte) : State :=
  let put (s : State) (p : Long × Nat) : State := memStore s p.1.toNat ((bs.drop (p.1.toNat - ma)).take p.2)
  let s1 := (piecesOf (BitVec.ofNat 64 ma) bs.length).foldl put s
  wake (updCtx s1 (ownerOf s1 (ma / frameBytes)).holder fun c => { c with ndet := true })

/-- What an AtomicOp writes, if it does: FetchAdd, Swap and CAS (07 R163). DEDUCED (unsafe), log entry 75. -/
def busAtomNew (op : Fin 3) (n old a b : Nat) : Option Nat :=
  match op with
  | 0 => some ((old + a) % 2 ^ (8 * n))
  | 1 => some (a % 2 ^ (8 * n))
  | 2 => if old = a % 2 ^ (8 * n) then some (b % 2 ^ (8 * n)) else none

/-- A write of registers through BAR0: of the physical function, or of the context of a virtual one.
DEDUCED (unsafe), log entry 75. -/
def busRegWrite (s : State) (ctx : Option Nat) (off : Nat) (bs : List Byte) : State :=
  let n := bs.length
  if (n = 4 || n = 8) && off % n = 0 then wake (regWrite s ctx off n (natOfBytes bs) 0 0) else s

/-- One access of the host or of a peer device (01 R20, 06 R156, 19 R439): performed in machine memory, with every line
it touches written back and out of the caches. A virtual function's BAR0 reaches what its context reaches (18 R418); in
recovery there is none (19 R444). DEDUCED (unsafe), log entry 68; DEDUCED (unsafe), log entry 75. -/
def busPerform (s : State) (a : BusAccess) : State :=
  let done (s : State) (bs : List Byte) : State := { s with bus := s.bus ++ [.completion bs] }
  let served (vf : Nat) : Option Nat := if s.stage = .recovery then none else tblFind s.vfs vf
  match a with
  | .read ma n =>
    let ma := ma.toNat
    let s1 := busOut s ma n
    done s1 (match regionOf s1 ma with
      | .stack | .tier => memBytes s1.mem ma n
      | .regs => bytesOfNat n (regRead s1 none (ma - 0x130000000000) n)
      | .host | .peer | .aliasMem | .reserved => List.replicate n 0xFF)
  | .write ma bs =>
    let ma := ma.toNat
    match regionOf s ma with
    | .stack | .tier => busStore (busOut s ma bs.length) ma bs
    | .regs => busRegWrite s none (ma - 0x130000000000) bs
    | .host | .peer | .aliasMem | .reserved => s
  | .atomic ma wide op x y =>
    let ma := ma.toNat
    let n := if wide then 8 else 4
    let r := regionOf s ma
    if (r = .stack || r = .tier) && ma % n = 0 then
      let s1 := busOut s ma n
      let old := memBytes s1.mem ma n
      done (match busAtomNew op n (natOfBytes old) x y with
        | some v => busStore s1 ma (bytesOfNat n v)
        | none => s1) old
    else done s (List.replicate n 0xFF)
  | .vfRead vf off n =>
    done s (match served vf with
      | some k => bytesOfNat n (regRead s (some k) off.toNat n)
      | none => List.replicate n 0xFF)
  | .vfWrite vf off bs => if (served vf).isSome then busRegWrite s (served vf) off.toNat bs else s

/-- The partition in which everything that a subtree's context holds lies, if there is one.
DEDUCED (unsafe), log entry 68. -/
def oneHome (s : State) (k : Nat) (c : Context) : Bool :=
  let ps := ((quadsOf s k).map fun q => some (partitionOf s (dieOfQuad q))) ++
    ((c.map.map fun m => m.2.mfn) ++ c.save).map (framePartition s)
  k = 1 || ((ps.filterMap id).eraseDups).length ≤ 1

/-- Step 6 for a context that the change stopped: it runs again, or its next pending command fails and its parent is
told (01 R19). DEDUCED (unsafe), log entry 68. -/
def resumeMode (s : State) (k : Nat) : State :=
  match tblFind s.ctxs k with
  | none => s
  | some c =>
    if c.state != .stopped || c.cause != 5 then s
    else if oneHome s k c then startCtx s c.slice c.sliceD k
    else
      let next := s.grids.foldl (fun (b : Option (Nat × Grid)) e =>
        if e.2.ctx = k && e.2.state = .accepted && b.all (fun x => e.2.seq < x.2.seq) then some e else b) none
      notice (match next with
        | some (id, _) => dropGrids (setGridState s id .failed 0x18 0) id
        | none => s) k

/-- Steps 3 to 6 of a mode change, once every context has stopped. DEDUCED (unsafe), log entry 68. -/
def finishMode (s : State) : State :=
  match s.newMode with
  | none => s
  | some m =>
    if !s.busy || s.ctxs.any fun e => ctxLive e.2 then s
    else
      let s1 := flushLines s (fun _ _ _ => true) fun _ _ => true
      let s2 : State := { s1 with
        l1 := [], l2 := [], dir := [], tlb := [], tables := [], frames := [], fetched := []
        mode := m, gen := (s1.gen + 1) % 256, busy := false, newMode := none, heldAccess := [] }
      let s3 := s.heldAccess.foldl busPerform s2
      wake (pumpAll (s3.ctxs.foldl (fun s e => resumeMode s e.1) s3))

def execPartmodeMoveComplete (s : State) : Ev := .next (finishMode s)

/-! ### Directory slices (05 R132, R136) -/

/-- A slice is lost: the lines that select it leave every L2 but their home die's (steps 1-3).
DEDUCED (safe), log entry 69. -/
def loseSlice (s : State) (j cause : Nat) : State :=
  if sliceLost s j then s
  else
    let mine (asid va : Nat) : Bool := dirSlice asid va = j && (s.mode != 4 || asid = 0)
    let away (l : L2Line) : Bool := mine l.asid l.va && lineHome s l != l.die
    let s1 := (s.wb.filter fun e => mine e.asid e.va).foldl wbComplete s
    let s2 := (s1.l2.filter away).foldl (fun s l => l2Drop (toDram' s l) l.die l.asid l.va) s1
    wake (count { s2 with
      dir := s2.dir.filter fun d => dirSlice d.asid d.va != j
      dirStatus := tblPut s2.dirStatus j ⟨cause, true, true⟩ } 16 0 1)
where
  /-- Dirty data goes to the home stack base. -/
  toDram' (s : State) (l : L2Line) : State := if dirtyLine l then toDram s l.ma l.data l.poison l.rewritten else s

def execDirectorySliceFence (s : State) : Ev :=
  .next (match s.input with
    | .directorySliceFence j => request_ s false fun s => if 8 ≤ j then replyBad s else replyOk (loseSlice s j 3) 0
    | _ => s)

def execDirectorySliceLost (s : State) : Ev :=
  .next (match s.input with
    | .directorySliceLost j powerOn => if 8 ≤ j then s else loseSlice s j (if powerOn then 1 else 2)
    | _ => s)

/-- Step 4: RECOV is cleared. DEDUCED (safe), log entry 69. -/
def execSliceRecoveryComplete (s : State) : Ev :=
  .next (match s.input with
    | .sliceRecoveryComplete j => wake { s with dirStatus := tblUpd s.dirStatus j fun d => { d with recov := false } }
    | _ => s)

/-! ### Grants to virtual functions, and the root's purse (19 R440, R446, 18 R409) -/

/-- A grant of the root to a virtual function's context, with CTXGRANT's operands.
DESIGN CHOICE (unsafe), log entry 66. -/
def grantVf (s : State) (x kind b c : Nat) : CtxReply :=
  match kind with
  | 0 => grantQuad s 1 x b c
  | 1 => grantQueue s 1 x b c
  | 2 => grantPort s 1 x b c
  | 3 => grantRelay s 1 x b c
  | 4 => grantPurse s 1 x b
  | 5 => grantSave s 1 x b c
  | 6 => grantRights s 1 x b c
  | _ => ctxNo s 5 0

/-- How a grant's status is answered: one of a resource in use is busy (19 R446).
DESIGN CHOICE (unsafe), log entry 66. -/
def grantReply (status : Nat) : MgmtStatus := if status = 0 then .ok else if status = 3 then .busy else .invalidArgument

def execVfContextGrant (s : State) : Ev :=
  .next (match s.input with
    | .vfContextGrant vf kind b c =>
      request_ s false fun s =>
        match tblFind s.vfs vf with
        | none => replyBad s
        | some x =>
          let r := grantVf s x kind b c
          replyWith r.s (grantReply (r.word.toNat % 256)) r.word.toNat
    | _ => s)

/-- DESIGN CHOICE (unsafe), log entry 2. -/
def execSetRootSettings (s : State) : Ev :=
  .next (match s.input with
    | .setRootSettings b =>
      request_ s false fun s =>
        if b.gblog2 < 4 || 20 < b.gblog2 || b.fqlog2 < 4 || 16 < b.fqlog2 ||
            (b.partmode != 1 && b.partmode != 2 && b.partmode != 4) then replyBad s
        else replyOk { s with firmware := { s.firmware with boot := b } } 0
    | _ => s)

def execGrantRootPurse (s : State) : Ev :=
  .next (match s.input with
    | .grantRootPurse n =>
      request_ s false fun s =>
        if (tblFind s.ctxs 1).isNone then replyWith s .refused 0
        else replyOk (wake (updCtx s 1 fun c => { c with purse := c.purse + n, granted := c.granted + n })) 0
    | _ => s)

/-! ### Telemetry (19 R448) -/

/-- Instances of a counter's holder. -/
def counterHolders (k : Nat) : Nat :=
  if k ≤ 2 || k = 6 then 160
  else if k ≤ 10 then 64
  else if k ≤ 15 then 8
  else if k = 16 then 1
  else if k = 17 then 4
  else if k ≤ 22 || k = 24 || k = 25 then 640
  else if k = 23 then 1
  else if k = 30 then 96
  else 100

def execGetCounter (s : State) : Ev :=
  .next (match s.input with
    | .getCounter k i =>
      request_ s false fun s =>
        if 32 < k || counterHolders k ≤ i then replyBad s else replyOk s (tblGet 0 s.counters (k * 65536 + i))
    | _ => s)

/-- Healthy row-blocks of a die. -/
def healthyOn (s : State) (die : Nat) : Nat :=
  (List.range 160).foldl (fun n i => n + healthy (quadOf s (160 * die + i))) 0

/-- Lane groups of a die link that three failed retrainings have fenced (01 R11). -/
def fencedLanes (s : State) (link : Nat) : Nat :=
  (s.laneGroups.filter fun e => e.1 / 32 = link && 3 ≤ e.2).length

/-- A sensor's reading. Powers, energies and temperatures come from outside: nothing is known of them.
DESIGN CHOICE (safe), log entry 3. -/
def sensor (s : State) (id : Nat) : Option (Nat × State) :=
  if id = 1 || id = 2 || (0x10 ≤ id && id ≤ 0x14) || (0x20 ≤ id && id ≤ 0x2F) then some (freeNext s)
  else if 0x30 ≤ id && id ≤ 0x33 then some (healthyOn s (id - 0x30), s)
  else if id = 0x34 then some ((s.dirStatus.filter fun e => e.2.lost).length, s)
  else if 0x38 ≤ id && id ≤ 0x3B then some (fencedLanes s (id - 0x38), s)
  else if id = 0x40 then some (s.secondTier / 512, s)
  else none

def execGetSensorReading (s : State) : Ev :=
  .next (match s.input with
    | .getSensorReading id =>
      request_ s false fun s =>
        match sensor s id with
        | some (v, s1) => replyOk s1 v
        | none => replyBad s
    | _ => s)

/-! ### Firmware (19 R446, R447) -/

def typeOk (ty : Nat) : Bool := 1 ≤ ty && ty ≤ 4

def execCommitSvn (s : State) : Ev :=
  .next (match s.input with
    | .commitSvn ty =>
      request_ s false fun s =>
        match activeImage s.firmware ty with
        | some x =>
          if typeOk ty then
            replyOk { s with firmware := { s.firmware with
              minSvn := tblSet 0 s.firmware.minSvn ty (Nat.max (tblGet 0 s.firmware.minSvn ty) (imageSvn x)) } } 0
          else replyBad s
        | none => replyBad s
    | _ => s)

/-- An update of a TYPE writes the inactive bank. An image there that waited for a reset waits no more.
DEDUCED (unsafe), log entry 67. -/
def startUpdate (f : Firmware) (ty : Nat) (x : FwImage) : Firmware :=
  { f with
    update := some ty, verifiedUpdate := none
    pend := f.pend.filter fun p => !(ty = 2 && 8 ≤ p) && !(ty = 3 && p = 3)
    banks := tblPut f.banks (2 * ty + (1 - activeBank f ty)) x }

/-- DEDUCED (unsafe), log entry 67. -/
def execRequestUpdate (s : State) : Ev :=
  .next (match s.input with
    | .requestUpdate x =>
      request_ s true fun s =>
        let ty := imageField x 4 2
        if s.busy || s.firmware.update.isSome then replyBusy s
        else if !typeOk ty then replyBad s
        else replyOk { s with firmware := startUpdate s.firmware ty x } 0
    | _ => s)

/-- The inactive bank is verified under R444; an update that fails ends. -/
def execVerifyComplete (s : State) : Ev :=
  .next (match s.input with
    | .verifyComplete ty =>
      request_ s true fun s =>
        let f := s.firmware
        if f.update != some ty then replyBad s
        else if (tblFind f.banks (2 * ty + (1 - activeBank f ty))).any (imageOk f ty) then
          replyOk { s with firmware := { f with verifiedUpdate := some ty } } 0
        else replyBad { s with firmware := { f with update := none } }
    | _ => s)

/-- The verified image is applied: at once for TYPEs 1 and 4, at a reset for TYPEs 2 and 3.
DEDUCED (unsafe), log entry 67. -/
def activate (s : State) (ty : Nat) : State :=
  let f : Firmware := { s.firmware with update := none, verifiedUpdate := none }
  let flipped : Firmware := { f with active := tblSet 0 f.active ty (1 - activeBank f ty) }
  match ty with
  | 1 => { s with firmware := { flipped with restart := true } }
  | 2 => { s with firmware := { f with pend := (f.pend.filter fun p => p < 8) ++ [8, 9, 10, 11] } }
  | 3 => { s with firmware := { f with pend := (f.pend.filter fun p => p != 3) ++ [3] } }
  | _ => { s with
      firmware := flipped
      programs := ((tblFind f.banks (2 * ty + activeBank flipped ty)).map loadPrograms).getD s.programs }

def execActivateFirmware (s : State) : Ev :=
  .next (match s.input with
    | .activateFirmware ty =>
      request_ s true fun s => if s.firmware.verifiedUpdate = some ty then replyOk (activate s ty) 0 else replyBad s
    | _ => s)

/-- The host firmware runs again. -/
def execHostFirmwareRestart (s : State) : Ev := .next { s with firmware := { s.firmware with restart := false } }

/-! ### Attestation (19 R446): keys and signatures come from outside -/

/-- DESIGN CHOICE (safe), log entry 3. -/
def replyFree (s : State) : State :=
  let (v, s1) := freeNext s
  replyOk s1 v

def execGetCertificate (s : State) : Ev := .next (request_ s false replyFree)

def execChallenge (s : State) : Ev :=
  .next (match s.input with
    | .challenge _ => request_ s false replyFree
    | _ => s)

/-- Each active image's SHA-384 digest and SVN, TYPE 1 lowest. DEDUCED (unsafe), log entry 67. -/
def measurements (f : Firmware) : Nat :=
  (List.range 4).foldl (fun n i =>
    match activeImage f (i + 1) with
    | some x => n + (x.digest % 2 ^ 384 + imageSvn x * 2 ^ 384) * 2 ^ (416 * i)
    | none => n) 0

def execGetMeasurements (s : State) : Ev := .next (request_ s false fun s => replyOk s (measurements s.firmware))

/-! ### Ports and routes (14 R343, R347) -/

def execPortBreakout (s : State) : Ev :=
  .next (match s.input with
    | .portBreakout p ways =>
      request_ s false fun s =>
        if 24 ≤ p || (ways != 1 && ways != 2 && ways != 4) then replyBad s
        else replyOk { s with breakout := tblSet 1 s.breakout p ways } 0
    | _ => s)

def execRouteTable (s : State) : Ev :=
  .next (match s.input with
    | .routeTable pkg routes =>
      request_ s false fun s =>
        if 4096 ≤ pkg || routes.any fun r => 4096 ≤ r.1 || 96 ≤ r.2 then replyBad s
        else replyOk { s with ownPkg := BitVec.ofNat 12 pkg, routes := routes.foldl (fun t r => tblPut t r.1 r.2) [] } 0
    | _ => s)

end Sys2Proof.Machine
end

