-- ==== Sys2Proof/Machine/Schedule.lean ====
section
/-! DEFINITION. Events of the distributor and the context engine: acceptance, dependences, admission and placement
(16 R372-R384, 02 R48-R51), retirement and the ends of groups (15 R361, R367), curfews (15 R370), boosts (16 R385), the
fetch of lines (02 R30), slices, purses and cuts (18 R422, R432, R433; 17 R403, R406). -/

namespace Sys2Proof.Machine

/-! ### Acceptance (16 R376) -/

/-- The grid and the block that pushed an entry of a queue, with the grid's record. -/
def pusher (s : State) (q idx : Nat) : Option (Nat × Nat × Grid) :=
  match (queueOf s q).pushed.find? fun e => e.1 = idx with
  | none => none
  | some e => (tblFind s.grids e.2.1).map fun g => (e.2.1, e.2.2, g)

/-- A path of a group, or of its trap frame, whose LAUNCH waits for the answer to an entry of a queue. -/
def ticketWaits (g : Group) (q : Nat) : Bool :=
  (g.paths ++ (g.frame.map (·.paths)).getD []).any fun p =>
    match p.await with
    | some (.ticket k _) => k = q
    | _ => false

/-- The launch intake of a context is open for a queue: while it runs, with every block placed again, unless the mode
changes (01 R19); or while a stop waits for a LAUNCH that has pushed to it (17 R405).
DEDUCED (unsafe), log entry 43. -/
def intakeOpen (s : State) (k q : Nat) : Bool :=
  match tblFind s.ctxs k with
  | none => false
  | some c =>
    (!s.busy && sourcesOpen s k) ||
    (c.state = .stopping && s.groups.any fun e => ctxOf s e.2 = k && ticketWaits e.2 q)

/-- Entries of a queue that are pending. -/
def pendingIn (s : State) (q : Nat) : Nat := ((queueOf s q).tail - (queueOf s q).head).toNat

/-- The address of a queue's next entry. -/
def headEntry (s : State) (q : Nat) : Long :=
  (queueOf s q).base + BitVec.ofNat 64 (64 * ((queueOf s q).head.toNat % 2 ^ (queueOf s q).log2))

/-- A queue that the distributor looks at. -/
def queueLive (s : State) (k q : Nat) : Bool :=
  queueHolder s q = k && (queueOf s q).en && !(queueOf s q).fault && pendingIn s q != 0 && intakeOpen s k q

/-- A descriptor's priority, clamped to the context's ceiling and to the priority of the grid that pushed it (16 R375).
DEDUCED (unsafe), log entry 43. -/
def clampPrio (ceil : Nat) (up : Option Grid) (p : Nat) : Nat := Nat.min (Nat.min p ceil) ((up.map (·.desc.prio)).getD 7)

/-- The priority of a queue's head, if it can be read. -/
def headPrio (s : State) (k q : Nat) : Option Nat :=
  let ceil := ((tblFind s.ctxs k).map (·.ceil)).getD 7
  match engineRead s (whoEngine s k) (headEntry s q + 0x18) 8 .load with
  | .ok (_, bs) => some (clampPrio ceil ((pusher s q (queueOf s q).head.toNat).map (·.2.2)) (field bs 2 1 % 8))
  | .error _ => none

/-- A queue is the next to be served: no other has a head of higher priority, or of the same and earlier in turn.
DEDUCED (unsafe), log entry 43. -/
def queueTurn (s : State) (k q : Nat) : Bool :=
  let last := ((tblFind s.ctxs k).map (·.lastQ)).getD 0
  let after (x : Nat) : Nat := (x + 4095 - last) % 4096
  match headPrio s k q with
  | none => true
  | some p =>
    s.queues.all fun e =>
      e.1 = q || !queueLive s k e.1 ||
      match headPrio s k e.1 with
      | none => true
      | some p2 => p2 < p || (p2 = p && after q < after e.1)

/-- The grid of a command, before its checks; `t` is what its acceptance acquires (06 R157). -/
def commandGrid (k seq q : Nat) (head : BitVec 32) (d : Desc) (h : Header) (up : Option (Nat × Nat × Grid)) (ceil : Nat)
    (t : Times) : Grid where
  ctx := k
  seq := seq
  state := .accepted
  cause := 0
  detail := 0
  queue := q
  qidx := head
  launched := up.isSome
  parent := (up.map (·.1)).getD 0
  parentBlock := (up.map (·.2.1)).getD 0
  depth := (up.map fun u => u.2.2.depth + 1).getD 0
  image := d.image
  desc := { d with prio := clampPrio ceil (up.map (·.2.2)) d.prio }
  hdr := h
  cls := if bit d.dflags 2 then bits d.dflags 4 3 else h.progress
  ready := !bit d.dflags 1
  admitted := false
  nextBlock := 0
  coaches := 0
  runs := 0
  runClocks := 0
  failure := none
  energy := 0
  start := t
  ends := Times.zero

/-- Checks 1-16: the cause and detail of the first that fails; check 16 of a DIMMEM command comes later.
DEDUCED (unsafe), log entry 43. -/
def commandBad (s : State) (d : Desc) (dbs : List Byte) (hbs : Option (List Byte)) (cls id : Nat) : Option (Nat × Nat) :=
  if d.image.toNat % 256 != 0 then some (1, 0)
  else
    match hbs with
    | none => some (0x13, 0)
    | some bs =>
      match headerBad (featcap s) cls bs with
      | some e => some e
      | none =>
        match descBad dbs with
        | some e => some e
        | none => if !bit d.dflags 0 && !gridFits s id then some (0x17, 0) else none

/-- The LAUNCH that pushed a command has its ticket (15 R366). -/
def answerTicket (s : State) (q idx : Nat) (x : Long) : State :=
  let f (p : Path) : Path := if p.await = some (.ticket q idx) then { p with await := some (.answer x) } else p
  { s with groups := tblMap s.groups fun _ g => mapPaths g f }

/-- A command is accepted: its sequence number, its guestbook entry, its checks, its ticket.
DEDUCED (unsafe), log entry 43. -/
def acceptCommand (s : State) (k q : Nat) (c : Context) (dbs : List Byte) : State :=
  let d := parseDesc dbs
  let x := queueOf s q
  let idx := x.head.toNat
  let up := pusher s q idx
  let (s1, hbs) : State × Option (List Byte) :=
    if d.image.toNat % 256 != 0 then (s, none)
    else
      match engineReadLong s (whoEngine s k) d.image .load 32 with
      | .ok (s1, bs) => (s1, some bs)
      | .error _ => (s, none)
  let h := (hbs.map parseHeader).getD noHeader
  let id := s1.fresh
  let g := commandGrid k c.nextSeq q x.head d h up c.ceil x.times
  let took (x : Queue) : Queue := { x with head := x.head + 1, pushed := x.pushed.filter fun e => e.1 != idx }
  let s2 : State := { updQueue s1 q took with fresh := id + 1, grids := tblPut s1.grids id g }
  let s3 := updCtx s2 k fun c => { c with nextSeq := c.nextSeq + 1, lastQ := q, ndet := c.ndet || !h.det }
  let s4 := guestbookWrite s3 id
  let bad := commandBad s4 d dbs hbs g.cls id
  let s5 :=
    match bad with
    | some (cause, detail) => dropGrids (setGridState s4 id .failed cause detail) id
    | none => s4
  wake (answerTicket s5 q idx (BitVec.ofNat 64 (c.nextSeq % 2 ^ 32 + (if bad.isSome then 2 ^ 63 else 0))))

/-- One entry of a queue is taken (16 R373, R374, R376). -/
def takeCommand (s : State) (q : Nat) : State :=
  let k := queueHolder s q
  match tblFind s.ctxs k with
  | none => s
  | some c =>
    if 4096 ≤ q || !queueLive s k q then s
    else if 2 ^ (queueOf s q).log2 < pendingIn s q || !canonical (queueOf s q).base then ringFault s q 0 0 none
    else if !queueTurn s k q || !bookFree s k c then s
    else
      match engineReadLong s (whoEngine s k) (headEntry s q) .load 8 with
      | .error f => ringFault s q 0 0 (some f)
      | .ok (s1, bs) => acceptCommand s1 k q c bs

/-- DESIGN CHOICE (safe), log entry 7. -/
def execCommandAccept (s : State) : Ev :=
  .next (match s.input with
    | .commandAccept q => takeCommand s q
    | _ => s)

/-! ### Dependences and admission (16 R377, R380) -/

/-- An accepted command of a running context. -/
def pendingGrid (s : State) (id : Nat) : Option (Grid × Context) :=
  match tblFind s.grids id with
  | none => none
  | some g =>
    match tblFind s.ctxs g.ctx with
    | none => none
    | some c => if g.state = .accepted && c.state = .running then some (g, c) else none

def failCommand (s : State) (id cause detail : Nat) : State := wake (dropGrids (setGridState s id .failed cause detail) id)

/-- The dimensions that a command reads from memory, and check 16 with them. Bytes of the host or of a peer device are
asked for and waited for (07 R168). -/
def readDims (s : State) (id : Nat) (g : Grid) : State :=
  let (k, io) : Nat × Io :=
    match tblFind s.opReads id with
    | some k => (k, (tblFind s.ios k).getD ⟨0, 0, [], [], [], []⟩)
    | none => (s.fresh, ⟨0, 0, [], [], [], []⟩)
  if io.wants != 0 then s
  else
    let cleared (s : State) : State := { s with arrived := [], ios := tblDel s.ios k, opReads := tblDel s.opReads id }
    match vmRead { s with arrived := ioBytes io } (whoEngine s g.ctx) g.desc.dimva 8 .load with
    | .error (.host va ma n) =>
      { askBytes s k io g.ctx va ma n with opReads := tblPut s.opReads id k }
    | .error e => failCommand (afterEng (cleared s) (whoEngine s g.ctx) e) id 0x19 0
    | .ok (s1, bs) =>
      let s2 := updGrid (cleared s1) id fun g => { g with
        ready := true, desc := { g.desc with gx := field bs 0 4, gy := field bs 4 2, gz := field bs 6 2 } }
      if gridFits s2 id then wake s2 else failCommand s2 id 0x17 0

/-- A complete dependence is acquired, at `.sys` for a host's command and at `.pkg` for a LAUNCH (16 R377): the grid's
groups start with what the object's updates have released. -/
def acquireDep (s : State) (id : Nat) (g : Grid) : State :=
  let rs := relsAt s (asidOf g.ctx g.desc.depbo) g.desc.depbo.toNat 24
  let t := relTimes (paoridAgent g.ctx) (if g.launched then .pkg else .sys) false rs
  updGrid s id fun g => { g with start := g.start.join t }

def execDependenceComplete (s : State) : Ev :=
  .next (match s.input with
    | .dependenceComplete id =>
      match pendingGrid s id with
      | none => s
      | some (g, _) =>
        if g.ready then s
        else if (tblFind s.opReads id).isSome then readDims s id g
        else
          match vmRead s (whoEngine s g.ctx) g.desc.depbo 24 .load with
          | .error e => failCommand (afterEng s (whoEngine s g.ctx) e) id 0x19 0
          | .ok (s1, bs) =>
            let o := barObj bs
            if o.failed then failCommand s1 id 0x15 o.cause
            else if !boComplete o then s
            else if bit g.desc.dflags 0 then readDims (acquireDep s1 id g) id g
            else wake (updGrid (acquireDep s1 id g) id fun g => { g with ready := true })
    | _ => s)

/-- DESIGN CHOICE (safe), log entry 7; DEDUCED (unsafe), log entry 43. -/
def execAdmission (s : State) : Ev :=
  .next (match s.input with
    | .admission id =>
      match pendingGrid s id with
      | none => s
      | some (g, c) =>
        if c.purse ≤ 0 then exhaust s s g.ctx
        else if !g.ready || g.admitted || c.purse < (g.desc.pmin : Int) || unplaced s g.ctx then s
        else if gridBlocks g.desc = 0 then wake (dropGrids (setGridState s id .complete 0 0) id)
        else updGrid s id fun g => { g with admitted := true }
    | _ => s)

/-! ### Placement (16 R381-R383, 17 R404) -/

/-- Places the blocks of a context that a stop has put away, where they find room. -/
def placeSaved (s : State) (k : Nat) : State :=
  (ctxBlocks s k).foldl (fun s e => if e.2.saved && e.2.method.isSome then (resumeBlock s e.1).getD s else s) s

/-- A coach of a grid that waits to be placed for the first time. DESIGN CHOICE (unsafe), log entry 40. -/
def waitingCoach (s : State) (grid : Nat) : Option Nat :=
  (tblFirst s.blocks fun _ b => b.grid = grid && b.saved && b.method.isNone).map (·.1)

/-- The grid that a context's next placement serves: of those with a block or a coach to place, the highest priority,
then the earliest accepted. DEDUCED (unsafe), log entry 44. -/
def nextGrid (s : State) (k : Nat) : Option (Nat × Grid) :=
  let open_ := s.grids.filter fun e =>
    e.2.ctx = k && e.2.admitted && !gridFinal e.2.state &&
      (e.2.nextBlock < gridBlocks e.2.desc || (waitingCoach s e.1).isSome)
  open_.foldl (fun b e =>
    if b.all fun x => x.2.desc.prio < e.2.desc.prio || (x.2.desc.prio = e.2.desc.prio && e.2.seq < x.2.seq) then some e else b) none

/-- A command starts while an earlier one of its context is not final (18 R437). -/
def overlaps (s : State) (g : Grid) : Bool :=
  g.state = .accepted && s.grids.any fun e => e.2.ctx = g.ctx && e.2.seq < g.seq && !gridFinal e.2.state

/-- The next block, or gang, of a grid. DESIGN CHOICE (unsafe), log entry 40; DEDUCED (unsafe), log entry 44. -/
def placeBlocks (s : State) (k id : Nat) (g : Grid) : State :=
  if gridBlocks g.desc ≤ g.nextBlock then s
  else
    let s1 := if overlaps s g then updCtx s k fun c => { c with ndet := true } else s
    ((if g.cls = 0 then placeGang id (gridBlocks g.desc - g.nextBlock) s1 else placeNext s1 id)).getD s

/-- Serves one context: its saved blocks, then of its next grid a coach that waits, or else the next block or gang.
DEDUCED (unsafe), log entry 44. -/
def placeFor (s : State) (k : Nat) : State :=
  let s1 := placeSaved s k
  if unplaced s1 k then s1
  else
    match nextGrid s1 k with
    | none => s1
    | some (id, g) =>
      match (waitingCoach s1 id).bind (resumeBlock s1) with
      | some s2 => s2
      | none => placeBlocks s1 k id g

/-- DESIGN CHOICE (safe), log entry 7. -/
def execPlacementOpportunity (s : State) : Ev :=
  .next (match s.input with
    | .placementOpportunity part =>
      let here (k : Nat) : Bool := (ctxDies s k).any fun d => partitionOf s d = part
      wake ((s.ctxs.filter fun e => e.2.state = .running && here e.1).foldl (fun s e => placeFor s e.1) s)
    | _ => s)

/-! ### Ends (15 R361, R367, R370) -/

def execGridRetire (s : State) : Ev :=
  .next (match s.input with
    | .gridRetire id => retire s id
    | _ => s)

def execGroupFinalExit (s : State) : Ev :=
  .next (match s.input with
    | .groupFinalExit gid =>
      match tblFind s.groups gid with
      | some g => if g.live = 0 && !groupBusy s gid then endGroup s gid else s
      | none => s
    | _ => s)

def execCurfewExpiry (s : State) : Ev :=
  .next (match s.input with
    | .curfewExpiry k =>
      match tblFind s.inns k with
      | none => s
      | some x =>
        let ctx := ((tblFind s.grids x.grid).map (·.ctx)).getD 0
        if sourcesOpen s ctx && coachDue s x then
          (if x.lodgers = [] then { s with inns := tblPut s.inns k { x with timer := none } } else wake (departCoach s k))
        else s
    | _ => s)

/-- A split that has been ready for 64 cycles of its quadrant without issuing. DESIGN CHOICE (safe), log entry 5. -/
def boostDue (x : Split) : Bool := 64 ≤ x.ready && !x.boost

/-- Such a split is boosted (16 R385). -/
def execSplitBoost (s : State) : Ev :=
  .next (match s.input with
    | .splitBoost gid sp =>
      updGroup s gid fun g => { g with
        splits := g.splits.map fun x => if x.num = sp && boostDue x then { x with boost := true } else x }
    | _ => s)

/-! ### The fetch of a line (02 R29, R30) -/

/-- The parity of n bits of a number. -/
def oddOnes (x n : Nat) : Bool := (List.range n).foldl (fun b i => b != x.testBit i) false

/-- LPAR and every SPAR bit of a line agree with it. DEDUCED (safe), log entry 15. -/
def lineParityOk (l : FetchLine) : Bool :=
  let w := l.toNat
  w.testBit 31 == oddOnes (w % 2 ^ 26) 26 &&
  (List.range 5).all fun i => w.testBit (26 + i) == oddOnes (w >>> (32 + 96 * i) % 2 ^ 96) 96

/-- Reads a line of code through a quadrant's core, with its page's U bit. DEDUCED (unsafe), log entry 14. -/
def readCode (s : State) (w : Who) (va : Long) : Except LaneErr (State × FetchLine × Bool) :=
  match coreRead s w (w.core.getD 0) va .fetch false false false with
  | .ok (s1, x) =>
    if touchesPoison x.poison (va.toNat % 128) 64 then .error (.data va)
    else .ok (s1, BitVec.ofNat 512 (x.data.toNat >>> (8 * (va.toNat % 128))), x.perm.u)
  | .error (.fault f) => .error (.fault f)
  | .error (.special _ _) => .error (.fault ⟨0x02, va, 0, 0, false, .fetch, asidOf w.ctx va⟩)

/-- The state after a line's read that has failed: what its walk changed stays (04 R107). -/
def afterFetch (s : State) (w : Who) : LaneErr → State
  | .fault f => afterFault s w f
  | .access .. | .data _ => s

/-- Reads a line again: the copy of the core's L1 is discarded, so that the line comes from the L2 (02 R30).
DEDUCED (safe), log entry 15. -/
def readCodeAgain (s : State) (w : Who) (va : Long) : Except LaneErr (State × FetchLine × Bool) :=
  let mine (l : L1Line) : Bool :=
    l.core = w.core.getD 0 && l.ctx = w.ctx && l.asid = asidOf w.ctx va && l.va = lineOf va.toNat
  readCode { s with l1 := s.l1.filter fun l => !mine l } w va

/-- Puts a line into a quadrant's fetch buffer, with the address that its L2 has it from.
DEDUCED (unsafe), log entry 14. -/
def keepLine (s : State) (w : Who) (q : Nat) (va : Long) (u : Bool) (l : FetchLine) : State :=
  let asid := asidOf w.ctx va
  let ma := ((s.l2.find? fun x => x.asid = asid && x.va = lineOf va.toNat).map (·.ma)).getD 0
  { s with fetched := ⟨q, asid, va.toNat, ma, u, l⟩ ::
      s.fetched.filter fun f => !(f.quad = q && f.asid = asid && f.va = va.toNat) }

/-- A line arrives, possibly with flipped bits: a copy whose parity is wrong is discarded and the line is read once
more. A second copy that is wrong is not kept: the path that enters it takes its machine check when it fetches the
line. DEDUCED (unsafe), log entry 14; DEDUCED (safe), log entry 15. -/
def execLineFetch (s : State) : Ev :=
  .next (match s.input with
    | .lineFetch q asid line flip =>
      let w : Who := ⟨if asid = 0 then 1 else asid, dieOfQuad q, some (coreOfQuad q), true⟩
      let va : Long := BitVec.ofNat 64 (line.toNat / 64 * 64)
      if 640 ≤ q then s
      else
        match readCode s w va with
        | .error e => afterFetch s w e
        | .ok (s1, l, u) =>
          if lineParityOk (l ^^^ flip) then wake (keepLine s1 w q va u (l ^^^ flip))
          else
            match readCodeAgain s1 w va with
            | .error e => afterFetch s1 w e
            | .ok (s2, l2, u2) => if lineParityOk l2 then wake (keepLine s2 w q va u2 l2) else s2
    | _ => s)

/-! ### Slices, purses and cuts -/

def execSliceEnd (s : State) : Ev :=
  .next (match s.input with
    | .sliceEnd k =>
      match tblFind s.ctxs k with
      | some c =>
        if c.state = .running && c.sliceEnd.any (fun t => t ≤ s.clock) then
          wake (stopTree { s with ctxs := tblPut s.ctxs k { c with sliceEnd := none } } k 2 ⟨c.sliceD, s.clock, false⟩)
        else s
      | none => s
    | _ => s)

/-- Charges energy, in nanojoules, to a context and to the grid that caused it (18 R432, 16 R378 ENERGY). Energy that no
live context caused is the root's. DEDUCED (unsafe), log entry 55. -/
def chargeOne (s : State) (e : Nat × Nat × Nat) : State :=
  let k := if (tblFind s.ctxs e.1).isSome then e.1 else 1
  updGrid (updCtx s k fun c => { c with nano := c.nano + e.2.2 }) e.2.1 fun g => { g with energy := g.energy + e.2.2 }

/-- The whole microjoules that a context has accumulated are subtracted from its purse.
DEDUCED (unsafe), log entry 55. -/
def settlePurse (_ : Nat) (c : Context) : Context :=
  { c with purse := c.purse - (c.nano / 1000 : Nat), used := c.used + c.nano / 1000, nano := c.nano % 1000 }

def execPurseCharge (s : State) : Ev :=
  .next (match s.input with
    | .purseCharge l =>
      let s1 := l.foldl chargeOne s
      let s2 : State := { s1 with ctxs := tblMap s1.ctxs settlePurse }
      wake (s2.ctxs.foldl (fun t e => exhaust s t e.1) s2)
    | _ => s)

def execCutDrainComplete (s : State) : Ev :=
  .next (match s.input with
    | .cutDrainComplete k => cutStep s k
    | _ => s)

def execDrainDeadline (s : State) : Ev :=
  .next (match s.input with
    | .drainDeadline b => drainLate s b
    | _ => s)

end Sys2Proof.Machine
end

