-- ==== Sys2Proof/Machine/Fetch.lean ====
section
/-! DEFINITION. How a split comes to its next instruction: the fetch of its line and the checks of the line and of the
slot in their order (02 R28-R34, R45, R47, 15 R354), and which splits may issue (16 R385, 17 R389, R406). -/

namespace Sys2Proof.Machine

/-! ### The line (02 R29, R33) -/

/-- The 96 bits of a slot. -/
def slotWord (l : FetchLine) (i : Nat) : InsWord := l.extractLsb' (32 + 96 * i) 96

/-- TMASK names a slot. -/
def slotMarked (l : FetchLine) (i : Nat) : Bool := i < 5 && bit l.toNat i

/-- The slots that are not zero. -/
def fullSlots (l : FetchLine) : List Nat := (List.range 5).filter fun i => slotWord l i != 0

/-- The last slot that executes: in a line of KIND 1, the last that is not zero. -/
def lineTail (l : FetchLine) : Nat := if bits l.toNat 10 9 = 0 then 4 else (fullSlots l).foldl Nat.max 0

/-- Row 2 of 02 R34. -/
def lineLegal (l : FetchLine) : Bool :=
  let w := l.toNat
  let pair := bits w 8 5
  bits w 25 11 == 0 && bits w 10 9 < 2 && Nat.land pair (pair / 2) == 0 &&
    (bits w 10 9 == 0 || (fullSlots l != [] && bits w 4 0 < 2 ^ (lineTail l + 1) && pair < 2 ^ lineTail l))

/-- The line at a PC, through the quadrant's fetch buffer. A copy in it serves a group outside its handler only when
its page's U bit is set (04 R99). A line whose parity is wrong is discarded and read once more from the L2 (02 R30);
`none` when it is wrong again. DEDUCED (unsafe), log entry 14; DEDUCED (safe), log entry 15. -/
def fetchLine (s : State) (w : Who) (q : Nat) (va : Long) : Except LaneErr (State × Option FetchLine) :=
  let asid := asidOf w.ctx va
  match s.fetched.find? fun f => f.quad = q && f.asid = asid && f.va = va.toNat && (f.u || w.handler) with
  | some f => .ok (s, some f.line)
  | none =>
    match readCode s w va with
    | .error e => .error e
    | .ok (s1, l, u) =>
      if lineParityOk l then .ok (keepLine s1 w q va u l, some l)
      else
        match readCodeAgain s1 w va with
        | .error e => .error e
        | .ok (s2, l2, u2) =>
          if lineParityOk l2 then .ok (keepLine s2 w q va u2 l2, some l2) else .ok (count s2 36 q 1, none)

/-! ### Entering a slot (02 R34, R45) -/

/-- How a path's attempt to enter its slot ends: with its instruction; or with a change that is not an issue. -/
inductive Entry where
  | issue (i : Instr) (s : State)
  | taken (s : State)
  deriving DecidableEq, Repr

/-- A trap of the checks before issue, for every lane of the path that has yet to perform the instruction.
DEDUCED (unsafe), log entry 12. -/
def entryTrap (p : Path) (cls cause : Nat) : Trap := trapAt p cls cause (dueLanes p)

/-- The trap of a failed fetch: class 0x0A or 0x0B, with the same record for every lane.
DEDUCED (unsafe), log entry 12. -/
def fetchTrap (p : Path) (e : LaneErr) : Trap :=
  { entryTrap p (errClass e) (errCause e) with recs := (laneList (dueLanes p)).map fun l => (l, errRecord e) }

/-- The trap class of a slot that fails a check of 02 R45. -/
def slotClass : SlotErr → Nat
  | .instruction => 3
  | .type => 4
  | .scope => 5
  | .operand => 6

/-- A path of a family that the path shares is parked at its PC by JOIN (15 R354). -/
def joinedHere (g : Group) (p : Path) : Bool :=
  g.families.any fun f => f.lanes &&& p.lanes != 0 &&
    g.paths.any fun q => q.lanes != p.lanes && q.status = .join p.pc && q.lanes &&& f.lanes != 0

/-- A trap as a path enters a slot of a line whose last executable slot is `tail`, which the PC after the slot needs (17
R393). -/
def trapEntering (s : State) (gid : Nat) (p : Path) (tail : Nat) (t : Trap) : State :=
  wake (takeTrap (updGroup s gid fun g => updPath g p.lanes fun q => { q with tail := tail }) gid t)

/-- The path enters its slot: rows 1-4 of 02 R34 in order. An illegal line counts five executable slots (log entry 12).
DEDUCED (unsafe), log entry 12. -/
def enterLine (s : State) (gid : Nat) (g : Group) (p : Path) (l : FetchLine) : Entry :=
  let slot := p.pc.toNat % 8
  let trap (t : Trap) : Entry := .taken (trapEntering s gid p (lineTail l) t)
  if !lineLegal l then .taken (trapEntering s gid p 4 (entryTrap p 1 0))
  else if p.checked && !slotMarked l slot then trap (entryTrap p 2 0)
  else if lineTail l < slot then
    .taken (wake (updGroup s gid fun g => updPath g p.lanes fun p =>
      { p with pc := BitVec.ofNat 64 (p.pc.toNat / 64 * 64 + 64) }))
  else if p.enter && slotMarked l slot && joinedHere g p then
    .taken (wake (updGroup s gid fun g => settle (park g p.lanes p.pc (.marked p.pc))))
  else
    match decode (slotWord l slot) with
    | .error e => trap (entryTrap p (slotClass e) 0)
    | .ok i =>
      .issue i (updGroup s gid fun g => updPath g p.lanes fun p =>
        { p with enter := false, checked := false, tail := lineTail l, word := slotWord l slot })

/-- The path's next instruction. A path that has begun one keeps its word.
DEDUCED (unsafe), log entry 12; DEDUCED (unsafe), log entry 13. -/
def enterSlot (s : State) (gid : Nat) (g : Group) (p : Path) : Entry :=
  let trap (s : State) (t : Trap) : Entry := .taken (trapEntering s gid p 4 t)
  if p.await.isSome then
    match decode p.word with
    | .ok i => .issue i s
    | .error e => .taken (wake (takeTrap s gid (entryTrap p (slotClass e) 0)))
  else if badPc p.pc then trap s (entryTrap p 2 0)
  else
    match fetchLine s (whoOf s g) g.quad (BitVec.ofNat 64 (p.pc.toNat / 64 * 64)) with
    | .error e => trap (afterFetch s (whoOf s g) e) (fetchTrap p e)
    | .ok (s1, none) => trap s1 (entryTrap p 0x13 0)
    | .ok (s1, some l) => enterLine s1 gid g p l

/-- A slot whose opcode is unassigned (02 R47). -/
def execUnassignedOpcode (_ : InsWord) (s : State) : Host.Outcome State Fault Refusal :=
  .next (match issuing s with
    | none => s
    | some (_, p) => wake (takeTrap s s.gid (entryTrap p 3 0)))

/-! ### Who may issue -/

/-- A path may go on: its block is placed, its group is not held, and its context runs; while its context stops, only in
a block that runs to its end, or to the answer of what it has begun. In a held group only what other splits had begun
goes on (17 R389, R390). DESIGN CHOICE (safe), log entry 5; DEDUCED (unsafe), log entry 45. -/
def mayIssue (s : State) (g : Group) (p : Path) : Bool :=
  let c := (tblFind s.ctxs (ctxOf s g)).map (·.state)
  let begun := match p.await with
    | some (.io _) | some (.ticket _ _) | some (.answer _) => true
    | _ => false
  (g.held.isNone || p.await.isSome) &&
    match blockOf s g with
    | none => false
    | some b => !b.saved && (c = some .running || (c = some .stopping && (b.method = some .drain || begun)))

/-- Whether a path is ready (16 R385) as far as its group and its barrier tell: its registers let its instruction go on,
and the phase that it waits at is over. A path that has yet to enter its slot is ready to.
DESIGN CHOICE (safe), log entry 5. -/
def pathReady (s : State) (g : Group) (p : Path) : Bool :=
  if p.enter then true
  else
    match decode p.word with
    | .error _ => true
    | .ok i =>
      match p.await, i with
      | some (.bar phase _ _), .bar _ die id _ => phase < (getBarrier s g die id.toNat).phase
      | some _, _ => true
      | none, _ => issueCheck g p i (actLanes g p i) != .wait

/-- A path of a group's trap frame that may go on with what it had begun (17 R390). -/
def frameReady (s : State) (g : Group) : Bool :=
  ((g.frame.map (·.paths)).getD []).any fun p => p.await.isSome && mayIssue s g p

/-- A split that may take a turn: it has a current path that may issue, is ready and is not known to wait, or what the
group's frame has begun may go on. DESIGN CHOICE (safe), log entry 5. -/
def splitReady (s : State) (gid : Nat) (g : Group) (sp : Nat) : Bool :=
  match curPath g sp with
  | some p => !s.stalled.contains (gid, sp) && ((mayIssue s g p && pathReady s g p) || frameReady s g)
  | none => false

/-- A cycle of a quadrant in which a split issues (16 R385): the other splits that are ready have waited one cycle
more, and YIELD ranks a split last for this one cycle (15 R359). A boosted split has had its turn.
DESIGN CHOICE (safe), log entry 5. -/
def issueCycle (s : State) (gid sp q : Nat) : State :=
  let after (k : Nat) (g : Group) (x : Split) : Split :=
    let other := !(k = gid && x.num = sp)
    { x with yielded := false, ready := if other && splitReady s k g x.num then x.ready + 1 else 0 }
  let boosted := ((tblFind s.groups gid).map fun g => g.splits.any fun x => x.num = sp && x.boost).getD false
  { s with
    groups := tblMap s.groups fun k g => if g.quad = q then { g with splits := g.splits.map (after k g) } else g
    boostTurn := if boosted then tblSet 0 s.boostTurn q (4 * gid + sp) else s.boostTurn }

/-! ### An instruction placed where the next step finds it (log entry 6) -/

/-- A line of one word in slot 0, marked, with its parity. DESIGN CHOICE (safe), log entry 6. -/
def lineOfWord (w : InsWord) : FetchLine :=
  BitVec.ofNat 512 (1 + 2 ^ 31 + (if oddOnes w.toNat 96 then 2 ^ 26 else 0) + w.toNat * 2 ^ 32)

/-- A grid of the root at image base 0. DESIGN CHOICE (safe), log entry 6. -/
def placedGrid : Grid :=
  { commandGrid 1 0 0 0 ⟨0, 0, 1, 1, 1, 32, 0, 0, 0, 0, 0, 0, 0⟩
      { noHeader with progress := 1, regbase := 64, codesize := 0x40, imagesize := 0x140, entries := [0x100, 0, 0, 0] }
      none 7 Times.zero with state := .started, admitted := true, nextBlock := 1 }

/-- A started block of one group on quadrant 0, whose path enters a word, and the turn to run it.
DESIGN CHOICE (safe), log entry 6. -/
def placeSplit (s : State) (w : InsWord) : State :=
  let id := s.fresh
  let root := { ((tblFind s.ctxs 1).getD (rootContext s.firmware.boot)) with state := .running, stop := none }
  { s with
    fresh := id + 3
    ctxs := tblPut s.ctxs 1 root
    grids := tblPut s.grids id placedGrid
    blocks := tblPut s.blocks (id + 1) ⟨id, none, false, 0, 0, 0, [0], 1, false, [], [], [], [], s.clock, none⟩
    groups := tblPut s.groups (id + 2) (startGroup placedGrid id (id + 1) 0 0 0 allLanes (threadRegs 0) 0 0x100)
    fetched := ⟨0, 1, 0x100, 0x100, true, lineOfWord w⟩ :: s.fetched.filter fun f => !(f.quad = 0 && f.asid = 1 && f.va = 0x100)
    agenda := .split (id + 2) 0 :: s.agenda }

/-- An instance of a program of one relay word, and the turn to run it. DESIGN CHOICE (safe), log entry 6. -/
def placeRelay (s : State) (w : RelayWord) : State :=
  let i : Instance := ⟨0, 1, 0, 0, ⟨0, 4, true, [w]⟩, 1, [], 0, [], [], 0, false, false⟩
  { s with fresh := s.fresh + 1, instances := tblPut s.instances s.fresh i, agenda := .relay s.fresh :: s.agenda }

end Sys2Proof.Machine
end

