-- ==== Sys2Proof/Machine/HostEdge.lean ====
section
/-! DEFINITION. The host and peer edge (19 R439-R442, 16 R372, R373, 07 R168), and the links and power of the package
(01 R11, 04 R89, 14 R341, R344). -/

namespace Sys2Proof.Machine

/-! ### Virtual functions (19 R440) -/

/-- A root child for a virtual function: new, holding nothing but the frames of its frame map (04 R102). Its
descriptor's fields are the model's choice (log entry 66). DESIGN CHOICE (unsafe), log entry 66. -/
def vfContext (frames : List Nat) : Context :=
  { newContext [] 1 1 frames with fmlen := 2 ^ 23, gblog2 := 4, fq := ⟨0, 4, 1, 0⟩ }

/-- The frames for a frame map of 2^23 entries: the highest 32 of stack DRAM, at a multiple of 32, that the root can
lend. DESIGN CHOICE (unsafe), log entry 66. -/
def vfFrames (s : State) : Option (List (Nat × MapEntry)) :=
  (List.range 12288).findSome? fun i => (framesToLend s 1 (32 * (12287 - i)) 32).toOption

/-- Root children for the virtual functions 1 to n that have none. DESIGN CHOICE (unsafe), log entry 66. -/
def makeVfs : Nat → State → State
  | 0, s => s
  | n + 1, s =>
    let s1 := makeVfs n s
    if (tblFind s1.vfs (n + 1)).isSome then s1
    else
      match freeIdentity s1, vfFrames s1 with
      | some id, some l =>
        let s2 := lendMap s1 1 l
        { s2 with ctxs := tblPut s2.ctxs id (vfContext (l.map fun e => e.2.mfn)), vfs := tblPut s2.vfs (n + 1) id }
      | _, _ => s1

def execNumvfsWrite (s : State) : Ev :=
  .next (match s.input with
    | .numvfsWrite n =>
      if s.stage != .ready || 64 < n then s
      else if n = 0 then { s.vfs.foldl (fun s e => resetContext s e.2) s with vfs := [], numVfs := 0 }
      else makeVfs n { s with numVfs := n }
    | _ => s)

def execFunctionLevelReset (s : State) : Ev :=
  .next (match s.input with
    | .functionLevelReset vf =>
      match tblFind s.vfs vf with
      | some k => resetContext s k
      | none => s
    | _ => s)

/-! ### Accesses into the package (01 R20, 19 R439) -/

/-- An access waits while the mode changes. -/
def busArrive (s : State) (a : BusAccess) : State :=
  if s.busy then { s with heldAccess := s.heldAccess ++ [a] } else busPerform s a

/-- DESIGN CHOICE (safe), log entry 7. -/
def execHostMemoryAccess (s : State) : Ev :=
  .next (match s.input with
    | .hostMemoryAccess a => busArrive s a
    | _ => s)

def execPeerDeviceAccess (s : State) : Ev :=
  .next (match s.input with
    | .peerDeviceAccess a => busArrive s a
    | _ => s)

/-! ### Registers (19 R441, 16 R372) -/

def queueReg (q r : Nat) : Nat := 0x1000000 + 64 * q + r

def execPeerwinWrite (s : State) : Ev :=
  .next (match s.input with
    | .peerwinWrite n v ctx => if n < 64 then wake (regWrite s ctx (0x300000 + 8 * n) 8 v.toNat 0 0) else s
    | _ => s)

/-- DESIGN CHOICE (safe), log entry 7. -/
def execQtailWrite (s : State) : Ev :=
  .next (match s.input with
    | .qtailWrite q v => if q < 4096 then wake (regWrite s none (queueReg q 0x18) 4 v.toNat 0 0) else s
    | _ => s)

def execQctlWrite (s : State) : Ev :=
  .next (match s.input with
    | .qctlWrite q v => if q < 4096 then wake (regWrite s none (queueReg q 0x08) 4 v.toNat 0 0) else s
    | _ => s)

/-- A write of one to FAULT, the other fields as they are. -/
def execQctlFaultClear (s : State) : Ev :=
  .next (match s.input with
    | .qctlFaultClear q =>
      if q < 4096 then
        let w := qctlWord { queueOf s q with fault := true }
        wake (regWrite s none (queueReg q 0x08) 4 w 0 0)
      else s
    | _ => s)

/-- A write of 4 or 8 bytes, aligned, through the physical function's BAR0. -/
def execRegisterWrite (s : State) : Ev :=
  .next (match s.input with
    | .registerWrite off wide v =>
      let n := if wide then 8 else 4
      if off % n = 0 then wake (regWrite s none off n v.toNat 0 0) else s
    | _ => s)

/-! ### Completions (07 R168, 19 R441) -/

/-- The answer to a read or an atomic that an instruction waits for: its bytes, or a failure, which reads ones and
leaves its lane a data error. A remote atomic that hears of it goes on (08 R208). DEDUCED (unsafe), log entry 31. -/
def answerRequest (s : State) (r : Request) (data : Option (List Byte)) : State :=
  let v := match data with
    | some bs => natOfBytes (bs.take r.bytes)
    | none => 2 ^ (8 * r.bytes) - 1
  let fill (o : Io) : Io := { o with
    wants := o.wants - 1
    vals := tblPut o.vals r.lane (Nat.lor (tblGet 0 o.vals r.lane) (v <<< (8 * r.off)))
    errs := if data.isNone then o.errs ++ [(r.lane, .data r.va)] else o.errs }
  wake (answerAtom { s with requests := s.requests.erase r, ios := tblUpd s.ios r.io fill } r.io)

def requestOf (s : State) (tag : Nat) : Option Request := s.requests.find? fun r => r.tag = tag

/-- A completion from a function that a peer window does not name is discarded, and the request counts as timed out. -/
def execNonpostedCompletion (s : State) : Ev :=
  .next (match s.input with
    | .nonpostedCompletion tag rid st data =>
      match requestOf s tag with
      | none => s
      | some r => answerRequest s r (if st = .ok && r.peer.all fun p => p = rid then some data else none)
    | _ => s)

def execCompletionTimeout (s : State) : Ev :=
  .next (match s.input with
    | .completionTimeout tag =>
      match requestOf s tag with
      | none => s
      | some r => answerRequest s r none
    | _ => s)

/-! ### Links and power -/

/-- A CXL link goes down: the lines it serves are poisoned (19 R442). -/
def execCxlLinkDown (s : State) : Ev :=
  .next (match s.input with
    | .cxlLinkDown link => if link < 4 then { s with linkDown := tblSet false s.linkDown link true } else s
    | _ => s)

/-- A die link replays a flit: nothing is duplicated, dropped or reordered (01 R11). -/
def execFlitReplay (s : State) : Ev := .next s

/-- A lane group fails a retraining; the third fences it (01 R11). -/
def execLaneGroupRetrainFail (s : State) : Ev :=
  .next (match s.input with
    | .laneGroupRetrainFail link lane =>
      if link < 4 && lane < 32 then
        { s with laneGroups := tblSet 0 s.laneGroups (32 * link + lane) (Nat.min 3 (tblGet 0 s.laneGroups (32 * link + lane) + 1)) }
      else s
    | _ => s)

/-- The second tier's power domain loses power: its content is lost, as if nothing had written it (04 R89).
DESIGN CHOICE (unsafe), log entry 8. -/
def execSecondTierPowerLoss (s : State) : Ev :=
  .next { s with
    mem := s.mem.filter fun e => regionOf s e.1 != .tier
    poison := s.poison.filter fun e => regionOf s (64 * e.1) != .tier
    rewritten := s.rewritten.filter fun e => regionOf s (128 * e.1) != .tier }

/-- A port's link-level retry: its buffers are apart from every slot (14 R341). -/
def execLinkLevelRetry (s : State) : Ev := .next s

/-- RUDI and UUD are not used: such a packet is discarded and counted (14 R344). -/
def execRudiUudPacket (s : State) : Ev :=
  .next (match s.input with
    | .rudiUudPacket port => count s 35 port 1
    | _ => s)

end Sys2Proof.Machine
end

