-- ==== Sys2Proof/Machine/TrapIns.lean ====
section
/-! DEFINITION. Opcodes 0xCC-0xD3: software traps, the return from the handler, fault records, checkpoints, the IDEM flag,
the purse and the wait for fault records (17 R393-R400, 18 R435). -/

namespace Sys2Proof.Machine

/-- TRAP and BRK (17 R394): a trap that records the PC after it. -/
def codeTrap (c : Ins) (cls : Nat) (code : BitVec 16) : Trap :=
  let next := nextPc c.p.pc c.p.tail
  { c.trap cls 0 with info := code.toNat, pc := next, offPc := next }

def execTrap (g : Guard) (code : BitVec 16) (s : State) : Host.Outcome State Fault Refusal :=
  issue (.trap g code) (fun c s => .trap (codeTrap c 0x11 code) s) s

def execBrk (g : Guard) (code : BitVec 16) (s : State) : Host.Outcome State Fault Refusal :=
  issue (.brk g code) (fun c s => .trap (codeTrap c 0x12 code) s) s

/-- RTE parks its whole path; the last path to park returns (17 R393). -/
def execRte (g : Guard) (f : RteForm) (s : State) : Host.Outcome State Fault Refusal :=
  issue (.rte g f) (fun c s =>
    if !c.g.handler then .trap (c.trap 3 0) s
    else
      let a : RteArg := match f with
        | .plain => .plain
        | .to a => .to (srcVal c.g c.p a 2 0)
        | .skip => .skip
      .moved (updGroup s c.gid fun g => park g c.p.lanes c.p.pc (.rte a))) s

def execGetflt (g : Guard) (f : GetfltForm) (d : Dst) (s : State) : Host.Outcome State Fault Refusal :=
  issue (.getflt g f d) (fun c s =>
    match f with
    | .fault =>
      groupDone s c fun g =>
        (laneList c.act).foldl (fun g l =>
          let r : BitVec 256 := if c.g.handler && c.g.fltmask.getLsbD l then tblGet 0 c.g.recs l else 0
          (List.range 8).foldl (fun g i => vSet g (d.reg.toNat + i) l (r.extractLsb' (32 * i) 32)) g) g
    | .pc =>
      result c s d 1 fun _ => if c.g.handler then ((c.g.frame).map (·.pc)).getD 0 else 0
    | .gser => result c s d 1 fun _ => if c.g.handler then c.g.serial else 0) s

/-- CKPT (17 R399). -/
def execCkpt (g : Guard) (idem : Bool) (vfirst : BitVec 8) (nv : BitVec 5) (sfirst : BitVec 6) (ns : BitVec 5)
    (s : State) : Host.Outcome State Fault Refusal :=
  issue (.ckpt g idem vfirst nv sfirst ns) (fun c s =>
    let vs := (List.range nv.toNat).map (vfirst.toNat + ·)
    let ss := (List.range ns.toNat).map (sfirst.toNat + ·)
    let single := c.g.paths.length = 1 && c.g.families.all fun f => f.lanes &&& c.g.live == 0
    if !single then groupDone s c fun g => { g with ckpt := none, ranCkpt := true }
    else if vs.any (fun r => isEmpty c.g (regKey .lane r)) || ss.any (fun r => isEmpty c.g (regKey .scalar r)) then .wait
    else
      let k : Ckpt := ⟨c.p.pc, c.g.v.filter fun e => vs.contains (e.1 / 32), c.g.s.filter fun e => ss.contains e.1,
        c.g.preds, c.p.fmt, c.g.scl, c.g.chunks⟩
      groupDone s c fun g => { g with ckpt := some k, idem := idem, ranCkpt := true }) s

def execIdem (g : Guard) (clear : Bool) (s : State) : Host.Outcome State Fault Refusal :=
  issue (.idem g clear) (fun c s => groupDone s c fun g => { g with idem := !clear }) s

/-- The issuer itself (0), or a live child of it (18 R409). -/
def selfOrChild (s : State) (ctx : Nat) (x : Long) : Option Context :=
  if x = 0 then tblFind s.ctxs ctx else (tblFind s.ctxs x.toNat).filter fun k => k.parent = ctx

/-- PURSE (18 R435). -/
def purseVal (f : PurseForm) (k : Context) : Long :=
  match f with
  | .rem => BitVec.ofInt 64 k.purse
  | .used => BitVec.ofNat 64 k.used
  | .granted => BitVec.ofNat 64 k.granted

def execPurse (g : Guard) (f : PurseForm) (d : Dst) (a : Src) (s : State) : Host.Outcome State Fault Refusal :=
  issue (.purse g f d a) (fun c s =>
    result c s d 1 fun _ =>
      match selfOrChild s (ctxOf s c.g) (srcVal c.g c.p a 2 0) with
      | some k => purseVal f k
      | none => 0x8000000000000000) s

/-- The record number in the entry of record n of a context's own fault queue. -/
def queuedRecord (s : State) (ctx n : Nat) : Option Nat :=
  match tblFind s.ctxs ctx with
  | none => none
  | some k =>
    match engineRead s (whoEngine s ctx) (ringEntry k.fq.base k.fq.log2 (if n = 0 then 2 ^ 32 else n) + 0x38) 8 .load with
    | .ok (_, bs) => some (natOfBytes bs % 2 ^ 32)
    | .error _ => none

/-- The acquire at `.sys` of the word that ends a record (17 R398). -/
def hearRecord (s : State) (c : Ins) (n : Nat) : State :=
  match tblFind s.ctxs (ctxOf s c.g) with
  | none => s
  | some k =>
    let a := ringEntry k.fq.base k.fq.log2 (if n = 0 then 2 ^ 32 else n) + 0x38
    takeUp s c.gid .sys false true (relsAt s (asidOf (ctxOf s c.g) a) a.toNat 8)

/-- EVWAIT (17 R398). -/
def execEvwait (g : Guard) (d : Dst) (a b : Src) (s : State) : Host.Outcome State Fault Refusal :=
  issue (.evwait g d a b) (fun c s =>
    let k := srcVal c.g c.p b 2 0
    let (n, limit) : Nat × Option Nat :=
      match c.p.await with
      | some (.evwait n t) => (n, t)
      | _ => ((srcVal c.g c.p a 2 0).toNat % 2 ^ 32,
          if k = 0xFFFFFFFFFFFFFFFF then none else some (s.clock + k.toNat))
    match c.p.await with
    | some (.answer x) => answered s c d x
    | _ =>
      if queuedRecord s (ctxOf s c.g) n = some n then answered (hearRecord s c n) c d (BitVec.ofNat 64 n)
      else if limit.any fun t => t ≤ s.clock then answered s c d 0
      else awaiting s c d (.evwait n limit)) s

end Sys2Proof.Machine
end

