-- ==== Sys2Proof/Machine/Dispatch.lean ====
section
/-! DEFINITION. The one match from an instruction or event to its meaning. -/

namespace Sys2Proof.Machine

def exec (i : Instr) (s : State) : Host.Outcome State Fault Refusal :=
  match i with
  | .nop g => Sys2Proof.Machine.execNop g s
  | .bra g t => Sys2Proof.Machine.execBra g t s
  | .bri g a => Sys2Proof.Machine.execBri g a s
  | .brx g t b c => Sys2Proof.Machine.execBrx g t b c s
  | .call g d t => Sys2Proof.Machine.execCall g d t s
  | .calli g d a => Sys2Proof.Machine.execCalli g d a s
  | .ret g a => Sys2Proof.Machine.execRet g a s
  | .join g t => Sys2Proof.Machine.execJoin g t s
  | .wsync g => Sys2Proof.Machine.execWsync g s
  | .loop g d t => Sys2Proof.Machine.execLoop g d t s
  | .bar g die id n => Sys2Proof.Machine.execBar g die id n s
  | .bara g die id n => Sys2Proof.Machine.execBara g die id n s
  | .barw g die id => Sys2Proof.Machine.execBarw g die id s
  | .yield g => Sys2Proof.Machine.execYield g s
  | .exit g => Sys2Proof.Machine.execExit g s
  | .spawn g k d a t => Sys2Proof.Machine.execSpawn g k d a t s
  | .spawnw g k d a t => Sys2Proof.Machine.execSpawnw g k d a t s
  | .innset g d a b => Sys2Proof.Machine.execInnset g d a b s
  | .curfew g a => Sys2Proof.Machine.execCurfew g a s
  | .launch g d a b => Sys2Proof.Machine.execLaunch g d a b s
  | .lwait g d a => Sys2Proof.Machine.execLwait g d a s
  | .mov g ty d a => Sys2Proof.Machine.execMov g ty d a s
  | .movi g zx d imm => Sys2Proof.Machine.execMovi g zx d imm s
  | .movhi g d imm => Sys2Proof.Machine.execMovhi g d imm s
  | .sel g k ty d a b => Sys2Proof.Machine.execSel g k ty d a b s
  | .plop g lut pd pa pb pc => Sys2Proof.Machine.execPlop g lut pd pa pb pc s
  | .s2p g f => Sys2Proof.Machine.execS2p g f s
  | .getc g hi d idx => Sys2Proof.Machine.execGetc g hi d idx s
  | .setc g hi idx a => Sys2Proof.Machine.execSetc g hi idx a s
  | .setfmt g mask b => Sys2Proof.Machine.execSetfmt g mask b s
  | .setscl g k b => Sys2Proof.Machine.execSetscl g k b s
  | .racq g try_ mask pd => Sys2Proof.Machine.execRacq g try_ mask pd s
  | .rrel g mask => Sys2Proof.Machine.execRrel g mask s
  | .fewait g r => Sys2Proof.Machine.execFewait g r s
  | .fechk g pd a n => Sys2Proof.Machine.execFechk g pd a n s
  | .iadd g sat ty d a b => Sys2Proof.Machine.execIadd g sat ty d a b s
  | .iadd3 g ty d a b c => Sys2Proof.Machine.execIadd3 g ty d a b c s
  | .iaddc g ty d a b cin cout => Sys2Proof.Machine.execIaddc g ty d a b cin cout s
  | .isub g sat ty d a b => Sys2Proof.Machine.execIsub g sat ty d a b s
  | .imul g ty d a b => Sys2Proof.Machine.execImul g ty d a b s
  | .imulhi g ty d a b => Sys2Proof.Machine.execImulhi g ty d a b s
  | .imad g ty d a b c => Sys2Proof.Machine.execImad g ty d a b c s
  | .imadw g ty d a b c => Sys2Proof.Machine.execImadw g ty d a b c s
  | .idiv g rem ty d a b => Sys2Proof.Machine.execIdiv g rem ty d a b s
  | .imin g ty d a b => Sys2Proof.Machine.execImin g ty d a b s
  | .imax g ty d a b => Sys2Proof.Machine.execImax g ty d a b s
  | .iabs g sat ty d a => Sys2Proof.Machine.execIabs g sat ty d a s
  | .isad g ty d a b c => Sys2Proof.Machine.execIsad g ty d a b c s
  | .isat g tgt ty d a => Sys2Proof.Machine.execIsat g tgt ty d a s
  | .lop3 g ty d a b c lut => Sys2Proof.Machine.execLop3 g ty d a b c lut s
  | .shl g wrap ty d a b => Sys2Proof.Machine.execShl g wrap ty d a b s
  | .shr g wrap ty d a b => Sys2Proof.Machine.execShr g wrap ty d a b s
  | .sar g wrap ty d a b => Sys2Proof.Machine.execSar g wrap ty d a b s
  | .fshf g right wrap ty d a b c => Sys2Proof.Machine.execFshf g right wrap ty d a b c s
  | .bfe g ty d a b => Sys2Proof.Machine.execBfe g ty d a b s
  | .bfi g ty d a b c => Sys2Proof.Machine.execBfi g ty d a b c s
  | .bmsk g ty d a b => Sys2Proof.Machine.execBmsk g ty d a b s
  | .popc g ty d a => Sys2Proof.Machine.execPopc g ty d a s
  | .clz g ty d a => Sys2Proof.Machine.execClz g ty d a s
  | .brev g ty d a => Sys2Proof.Machine.execBrev g ty d a s
  | .prmt g d a b c => Sys2Proof.Machine.execPrmt g d a b c s
  | .icmp g cc ty a b w => Sys2Proof.Machine.execIcmp g cc ty a b w s
  | .lea g d m => Sys2Proof.Machine.execLea g d m s
  | .idot4 g ub sat ty d a b c => Sys2Proof.Machine.execIdot4 g ub sat ty d a b c s
  | .fadd g rm ty d a b => Sys2Proof.Machine.execFadd g rm ty d a b s
  | .fsub g rm ty d a b => Sys2Proof.Machine.execFsub g rm ty d a b s
  | .fmul g rm ty d a b => Sys2Proof.Machine.execFmul g rm ty d a b s
  | .ffma g rm ty d a b c => Sys2Proof.Machine.execFfma g rm ty d a b c s
  | .fmin g num ty d a b => Sys2Proof.Machine.execFmin g num ty d a b s
  | .fmax g num ty d a b => Sys2Proof.Machine.execFmax g num ty d a b s
  | .fcmp g cc ty a b w => Sys2Proof.Machine.execFcmp g cc ty a b w s
  | .fcpys g m ty d a b => Sys2Proof.Machine.execFcpys g m ty d a b s
  | .frnd g rm ty d a => Sys2Proof.Machine.execFrnd g rm ty d a s
  | .frcp g rm ty d a => Sys2Proof.Machine.execFrcp g rm ty d a s
  | .frsq g rm ty d a => Sys2Proof.Machine.execFrsq g rm ty d a s
  | .fsqrt g rm ty d a => Sys2Proof.Machine.execFsqrt g rm ty d a s
  | .fdiv g rm ty d a b => Sys2Proof.Machine.execFdiv g rm ty d a b s
  | .fexp2 g ty d a => Sys2Proof.Machine.execFexp2 g ty d a s
  | .flog2 g ty d a => Sys2Proof.Machine.execFlog2 g ty d a s
  | .ftanh g ty d a => Sys2Proof.Machine.execFtanh g ty d a s
  | .ferf g ty d a => Sys2Proof.Machine.execFerf g ty d a s
  | .fsin g ty d a => Sys2Proof.Machine.execFsin g ty d a s
  | .fcos g ty d a => Sys2Proof.Machine.execFcos g ty d a s
  | .fclass g ty a b w => Sys2Proof.Machine.execFclass g ty a b w s
  | .fscale g rm ty d a b => Sys2Proof.Machine.execFscale g rm ty d a b s
  | .fdot2 g ty d a b c => Sys2Proof.Machine.execFdot2 g ty d a b c s
  | .fdot4 g mix ty d a b c => Sys2Proof.Machine.execFdot4 g mix ty d a b c s
  | .cvt g m sat elt dt st d a => Sys2Proof.Machine.execCvt g m sat elt dt st d a s
  | .cvtn g k ty d a seed => Sys2Proof.Machine.execCvtn g k ty d a seed s
  | .qntg g scale rm ty d a b c => Sys2Proof.Machine.execQntg g scale rm ty d a b c s
  | .dqnt g grp ty d a b c => Sys2Proof.Machine.execDqnt g grp ty d a b c s
  | .shfl g m ty d a b pv => Sys2Proof.Machine.execShfl g m ty d a b pv s
  | .vote g m q pd ballot => Sys2Proof.Machine.execVote g m q pd ballot s
  | .scan g op excl ty d a => Sys2Proof.Machine.execScan g op excl ty d a s
  | .lred g op ty d a => Sys2Proof.Machine.execLred g op ty d a s
  | .topk g w ty d a b k seg pf => Sys2Proof.Machine.execTopk g w ty d a b k seg pf s
  | .bsort g desc ty d a b seg => Sys2Proof.Machine.execBsort g desc ty d a b seg s
  | .lmatch g ty d a => Sys2Proof.Machine.execLmatch g ty d a s
  | .compact g d a q => Sys2Proof.Machine.execCompact g d a q s
  | .lhist g rank d a b => Sys2Proof.Machine.execLhist g rank d a b s
  | .ld g ty at_ d m => Sys2Proof.Machine.execLd g ty at_ d m s
  | .st g ty at_ d m => Sys2Proof.Machine.execSt g ty at_ d m s
  | .lds g ty at_ d m => Sys2Proof.Machine.execLds g ty at_ d m s
  | .sts g ty at_ d m => Sys2Proof.Machine.execSts g ty at_ d m s
  | .ldd g ty at_ d m => Sys2Proof.Machine.execLdd g ty at_ d m s
  | .std g ty at_ d m => Sys2Proof.Machine.execStd g ty at_ d m s
  | .ldk g ty at_ d m => Sys2Proof.Machine.execLdk g ty at_ d m s
  | .stk g ty at_ d m => Sys2Proof.Machine.execStk g ty at_ d m s
  | .atom g op ty at_ d m => Sys2Proof.Machine.execAtom g op ty at_ d m s
  | .atoms g op ty at_ d m => Sys2Proof.Machine.execAtoms g op ty at_ d m s
  | .atomf g op ty at_ d m => Sys2Proof.Machine.execAtomf g op ty at_ d m s
  | .atomfs g op ty at_ d m => Sys2Proof.Machine.execAtomfs g op ty at_ d m s
  | .cas g ty at_ d m => Sys2Proof.Machine.execCas g ty at_ d m s
  | .cass g ty at_ d m => Sys2Proof.Machine.execCass g ty at_ d m s
  | .prom g op ty at_ d m => Sys2Proof.Machine.execProm g op ty at_ d m s
  | .amaxr g ty at_ d m => Sys2Proof.Machine.execAmaxr g ty at_ d m s
  | .fence g o sc => Sys2Proof.Machine.execFence g o sc s
  | .fencea g c => Sys2Proof.Machine.execFencea g c s
  | .pref g k cache m => Sys2Proof.Machine.execPref g k cache m s
  | .cwb g cache m => Sys2Proof.Machine.execCwb g cache m s
  | .cinv g cache sc m => Sys2Proof.Machine.execCinv g cache sc m s
  | .pcopy g ctl d a b c => Sys2Proof.Machine.execPcopy g ctl d a b c s
  | .pcopy2 g ctl d a b c => Sys2Proof.Machine.execPcopy2 g ctl d a b c s
  | .pgath g ctl d a b c => Sys2Proof.Machine.execPgath g ctl d a b c s
  | .pscat g ctl d a b c => Sys2Proof.Machine.execPscat g ctl d a b c s
  | .pwait g sc d a => Sys2Proof.Machine.execPwait g sc d a s
  | .pyield g sc a slot disp => Sys2Proof.Machine.execPyield g sc a slot disp s
  | .pstat g recd d a => Sys2Proof.Machine.execPstat g recd d a s
  | .pcancel g d a => Sys2Proof.Machine.execPcancel g d a s
  | .arrset g die a b => Sys2Proof.Machine.execArrset g die a b s
  | .arrwait g die sc d a => Sys2Proof.Machine.execArrwait g die sc d a s
  | .fxfer g ssp rcnt lane d a => Sys2Proof.Machine.execFxfer g ssp rcnt lane d a s
  | .fatom g op ty lane d a => Sys2Proof.Machine.execFatom g op ty lane d a s
  | .mres g pd => Sys2Proof.Machine.execMres g pd s
  | .mrel g => Sys2Proof.Machine.execMrel g s
  | .mldb g die a b c => Sys2Proof.Machine.execMldb g die a b c s
  | .mldbR g a b => Sys2Proof.Machine.execMldbR g a b s
  | .mlda g die d m => Sys2Proof.Machine.execMlda g die d m s
  | .mldt g die pitch w16 d m => Sys2Proof.Machine.execMldt g die pitch w16 d m s
  | .mmaq g d a b sx sy => Sys2Proof.Machine.execMmaq g d a b sx sy s
  | .mmaqw g d a b sx sy => Sys2Proof.Machine.execMmaqw g d a b sx sy s
  | .mmaqi g ua ub d a b => Sys2Proof.Machine.execMmaqi g ua ub d a b s
  | .mfence g => Sys2Proof.Machine.execMfence g s
  | .mwait g sc => Sys2Proof.Machine.execMwait g sc s
  | .mstat g d => Sys2Proof.Machine.execMstat g d s
  | .mselft g d => Sys2Proof.Machine.execMselft g d s
  | .tlu g cont a n1 => Sys2Proof.Machine.execTlu g cont a n1 s
  | .tchol g a n1 => Sys2Proof.Machine.execTchol g a n1 s
  | .tqr g a n1 => Sys2Proof.Machine.execTqr g a n1 s
  | .ttrs g up unit tr a b n1 r1 => Sys2Proof.Machine.execTtrs g up unit tr a b n1 r1 s
  | .tperm g inv a n1 r1 => Sys2Proof.Machine.execTperm g inv a n1 r1 s
  | .tqapp g tr a b n1 r1 => Sys2Proof.Machine.execTqapp g tr a b n1 r1 s
  | .tnorm g k d a n1 r1 => Sys2Proof.Machine.execTnorm g k d a n1 r1 s
  | .tres g cont => Sys2Proof.Machine.execTres g cont s
  | .tstat g full d => Sys2Proof.Machine.execTstat g full d s
  | .boarm g reset at_ d m => Sys2Proof.Machine.execBoarm g reset at_ d m s
  | .bowait g at_ d m => Sys2Proof.Machine.execBowait g at_ d m s
  | .botest g at_ d m => Sys2Proof.Machine.execBotest g at_ d m s
  | .cwinBind g d a b => Sys2Proof.Machine.execCwinBind g d a b s
  | .cwinUnbind g d a => Sys2Proof.Machine.execCwinUnbind g d a s
  | .cwinEp g d a b => Sys2Proof.Machine.execCwinEp g d a b s
  | .cwinTrace g d a b => Sys2Proof.Machine.execCwinTrace g d a b s
  | .trap g code => Sys2Proof.Machine.execTrap g code s
  | .rte g f => Sys2Proof.Machine.execRte g f s
  | .brk g code => Sys2Proof.Machine.execBrk g code s
  | .getflt g f d => Sys2Proof.Machine.execGetflt g f d s
  | .ckpt g idem vfirst nv sfirst ns => Sys2Proof.Machine.execCkpt g idem vfirst nv sfirst ns s
  | .idem g clear => Sys2Proof.Machine.execIdem g clear s
  | .purse g f d a => Sys2Proof.Machine.execPurse g f d a s
  | .evwait g d a b => Sys2Proof.Machine.execEvwait g d a b s
  | .ctxnew g d a => Sys2Proof.Machine.execCtxnew g d a s
  | .ctxgrantQuad g d a b c => Sys2Proof.Machine.execCtxgrantQuad g d a b c s
  | .ctxgrantQueue g d a b c => Sys2Proof.Machine.execCtxgrantQueue g d a b c s
  | .ctxgrantPort g d a b c => Sys2Proof.Machine.execCtxgrantPort g d a b c s
  | .ctxgrantRelay g d a b c => Sys2Proof.Machine.execCtxgrantRelay g d a b c s
  | .ctxgrantPurse g d a b => Sys2Proof.Machine.execCtxgrantPurse g d a b s
  | .ctxgrantSave g d a b c => Sys2Proof.Machine.execCtxgrantSave g d a b c s
  | .ctxgrantRights g d a b c => Sys2Proof.Machine.execCtxgrantRights g d a b c s
  | .ctxmap g lard d a b c n1 fw fx => Sys2Proof.Machine.execCtxmap g lard d a b c n1 fw fx s
  | .ctxrevokeQuad g d a b c => Sys2Proof.Machine.execCtxrevokeQuad g d a b c s
  | .ctxrevokeQueue g d a b c => Sys2Proof.Machine.execCtxrevokeQueue g d a b c s
  | .ctxrevokePort g d a b c => Sys2Proof.Machine.execCtxrevokePort g d a b c s
  | .ctxrevokeRelay g d a b c => Sys2Proof.Machine.execCtxrevokeRelay g d a b c s
  | .ctxrevokePurse g d a b => Sys2Proof.Machine.execCtxrevokePurse g d a b s
  | .ctxrevokeFrame g d a b c => Sys2Proof.Machine.execCtxrevokeFrame g d a b c s
  | .ctxrevokeSave g d a b c => Sys2Proof.Machine.execCtxrevokeSave g d a b c s
  | .ctxrevokeAll g d a => Sys2Proof.Machine.execCtxrevokeAll g d a s
  | .ctxrun g d a b deadline => Sys2Proof.Machine.execCtxrun g d a b deadline s
  | .ctxstop g save ckpt d a deadline => Sys2Proof.Machine.execCtxstop g save ckpt d a deadline s
  | .ctxsw g d a b c deadline => Sys2Proof.Machine.execCtxsw g d a b c deadline s
  | .ctxqry g d a b field pd => Sys2Proof.Machine.execCtxqry g d a b field pd s
  | .ctxrefl g k d a b => Sys2Proof.Machine.execCtxrefl g k d a b s
  | .invlva g sel lines d a b => Sys2Proof.Machine.execInvlva g sel lines d a b s
  | .relayMatch imm kd ka n => Sys2Proof.Machine.execRelayMatch imm kd ka n s
  | .waitin kd port => Sys2Proof.Machine.execWaitin kd port s
  | .seqchk kd ka => Sys2Proof.Machine.execSeqchk kd ka s
  | .comb kd ka kb => Sys2Proof.Machine.execComb kd ka kb s
  | .holdb kd ka => Sys2Proof.Machine.execHoldb kd ka s
  | .fwd rod ka h => Sys2Proof.Machine.execFwd rod ka h s
  | .mcast rod ka kb n => Sys2Proof.Machine.execMcast rod ka kb n s
  | .emit ka => Sys2Proof.Machine.execEmit ka s
  | .bump ka => Sys2Proof.Machine.execBump ka s
  | .nack ka => Sys2Proof.Machine.execNack ka s
  | .relayLdk mode kd ka n => Sys2Proof.Machine.execRelayLdk mode kd ka n s
  | .addk imm kd ka kb n => Sys2Proof.Machine.execAddk imm kd ka kb n s
  | .bne ka kb target => Sys2Proof.Machine.execBne ka kb target s
  | .jmp target => Sys2Proof.Machine.execJmp target s
  | .relayDone => Sys2Proof.Machine.execRelayDone s
  | .trace ka tag => Sys2Proof.Machine.execTrace ka tag s
  | .unassignedOpcode w => Sys2Proof.Machine.execUnassignedOpcode w s
  | .packageReset => Sys2Proof.Machine.execPackageReset s
  | .paoridReset => Sys2Proof.Machine.execPaoridReset s
  | .zcDieReset => Sys2Proof.Machine.execZcDieReset s
  | .coreReset => Sys2Proof.Machine.execCoreReset s
  | .quadrantReset => Sys2Proof.Machine.execQuadrantReset s
  | .porterReset => Sys2Proof.Machine.execPorterReset s
  | .relayEngineReset => Sys2Proof.Machine.execRelayEngineReset s
  | .contextReset => Sys2Proof.Machine.execContextReset s
  | .porterNoProgress => Sys2Proof.Machine.execPorterNoProgress s
  | .relayNoProgress => Sys2Proof.Machine.execRelayNoProgress s
  | .imageVerify => Sys2Proof.Machine.execImageVerify s
  | .stageReady => Sys2Proof.Machine.execStageReady s
  | .partmodeChange => Sys2Proof.Machine.execPartmodeChange s
  | .partmodeMoveComplete => Sys2Proof.Machine.execPartmodeMoveComplete s
  | .directorySliceFence => Sys2Proof.Machine.execDirectorySliceFence s
  | .directorySliceLost => Sys2Proof.Machine.execDirectorySliceLost s
  | .sliceRecoveryComplete => Sys2Proof.Machine.execSliceRecoveryComplete s
  | .vfContextGrant => Sys2Proof.Machine.execVfContextGrant s
  | .getCounter => Sys2Proof.Machine.execGetCounter s
  | .getSensorReading => Sys2Proof.Machine.execGetSensorReading s
  | .setRootSettings => Sys2Proof.Machine.execSetRootSettings s
  | .grantRootPurse => Sys2Proof.Machine.execGrantRootPurse s
  | .commitSvn => Sys2Proof.Machine.execCommitSvn s
  | .requestUpdate => Sys2Proof.Machine.execRequestUpdate s
  | .verifyComplete => Sys2Proof.Machine.execVerifyComplete s
  | .activateFirmware => Sys2Proof.Machine.execActivateFirmware s
  | .hostFirmwareRestart => Sys2Proof.Machine.execHostFirmwareRestart s
  | .getCertificate => Sys2Proof.Machine.execGetCertificate s
  | .challenge => Sys2Proof.Machine.execChallenge s
  | .getMeasurements => Sys2Proof.Machine.execGetMeasurements s
  | .numvfsWrite => Sys2Proof.Machine.execNumvfsWrite s
  | .functionLevelReset => Sys2Proof.Machine.execFunctionLevelReset s
  | .hostMemoryAccess => Sys2Proof.Machine.execHostMemoryAccess s
  | .peerDeviceAccess => Sys2Proof.Machine.execPeerDeviceAccess s
  | .peerwinWrite => Sys2Proof.Machine.execPeerwinWrite s
  | .qtailWrite => Sys2Proof.Machine.execQtailWrite s
  | .qctlWrite => Sys2Proof.Machine.execQctlWrite s
  | .qctlFaultClear => Sys2Proof.Machine.execQctlFaultClear s
  | .registerWrite => Sys2Proof.Machine.execRegisterWrite s
  | .nonpostedCompletion => Sys2Proof.Machine.execNonpostedCompletion s
  | .completionTimeout => Sys2Proof.Machine.execCompletionTimeout s
  | .cxlLinkDown => Sys2Proof.Machine.execCxlLinkDown s
  | .flitReplay => Sys2Proof.Machine.execFlitReplay s
  | .laneGroupRetrainFail => Sys2Proof.Machine.execLaneGroupRetrainFail s
  | .commandAccept => Sys2Proof.Machine.execCommandAccept s
  | .dependenceComplete => Sys2Proof.Machine.execDependenceComplete s
  | .admission => Sys2Proof.Machine.execAdmission s
  | .placementOpportunity => Sys2Proof.Machine.execPlacementOpportunity s
  | .gridRetire => Sys2Proof.Machine.execGridRetire s
  | .groupFinalExit => Sys2Proof.Machine.execGroupFinalExit s
  | .splitBoost => Sys2Proof.Machine.execSplitBoost s
  | .curfewExpiry => Sys2Proof.Machine.execCurfewExpiry s
  | .lineFetch => Sys2Proof.Machine.execLineFetch s
  | .sliceEnd => Sys2Proof.Machine.execSliceEnd s
  | .purseCharge => Sys2Proof.Machine.execPurseCharge s
  | .cutDrainComplete => Sys2Proof.Machine.execCutDrainComplete s
  | .drainDeadline => Sys2Proof.Machine.execDrainDeadline s
  | .storePerform => Sys2Proof.Machine.execStorePerform s
  | .acquireLeaseExpiry => Sys2Proof.Machine.execAcquireLeaseExpiry s
  | .directoryRead => Sys2Proof.Machine.execDirectoryRead s
  | .directoryWrite => Sys2Proof.Machine.execDirectoryWrite s
  | .directoryWriteBack => Sys2Proof.Machine.execDirectoryWriteBack s
  | .patrolScrub => Sys2Proof.Machine.execPatrolScrub s
  | .frameScrubComplete => Sys2Proof.Machine.execFrameScrubComplete s
  | .producerCompletion => Sys2Proof.Machine.execProducerCompletion s
  | .chunkGrant => Sys2Proof.Machine.execChunkGrant s
  | .evwaitTimeout => Sys2Proof.Machine.execEvwaitTimeout s
  | .porterDispatch => Sys2Proof.Machine.execPorterDispatch s
  | .transferWritten => Sys2Proof.Machine.execTransferWritten s
  | .transferAcknowledgement => Sys2Proof.Machine.execTransferAcknowledgement s
  | .porterOperationEnd => Sys2Proof.Machine.execPorterOperationEnd s
  | .fxferData => Sys2Proof.Machine.execFxferData s
  | .fatomRequest => Sys2Proof.Machine.execFatomRequest s
  | .fatomReply => Sys2Proof.Machine.execFatomReply s
  | .refusal => Sys2Proof.Machine.execRefusal s
  | .contribution => Sys2Proof.Machine.execContribution s
  | .partialArrival => Sys2Proof.Machine.execPartialArrival s
  | .resultArrival => Sys2Proof.Machine.execResultArrival s
  | .negativeAcknowledgement => Sys2Proof.Machine.execNegativeAcknowledgement s
  | .packetResendTimeout => Sys2Proof.Machine.execPacketResendTimeout s
  | .passStart => Sys2Proof.Machine.execPassStart s
  | .passEnd => Sys2Proof.Machine.execPassEnd s
  | .selfTestInject => Sys2Proof.Machine.execSelfTestInject s
  | .loftFillComplete => Sys2Proof.Machine.execLoftFillComplete s
  | .columnCommit => Sys2Proof.Machine.execColumnCommit s
  | .factorisationEnd => Sys2Proof.Machine.execFactorisationEnd s
  | .secondTierPowerLoss => Sys2Proof.Machine.execSecondTierPowerLoss s
  | .linkLevelRetry => Sys2Proof.Machine.execLinkLevelRetry s
  | .portBreakout => Sys2Proof.Machine.execPortBreakout s
  | .routeTable => Sys2Proof.Machine.execRouteTable s
  | .rudiUudPacket => Sys2Proof.Machine.execRudiUudPacket s

end Sys2Proof.Machine
end

