-- ==== Sys2Proof/Machine/Run.lean ====
section
/-! DEFINITION. One turn of the machine: a split's next instruction, a relay instance's, or an event; and which turn comes
next when the agenda does not say (16 R385, 95). -/

namespace Sys2Proof.Machine

/-! ### Turns -/

/-- What a path of a trap frame had begun goes on (17 R390): its instruction has a turn in the group as the frame
keeps it, with the predicates of the frame, and what it leaves of the paths is the frame's. It is not taken up if it
still waits as it did. DEDUCED (unsafe), log entry 87. -/
def framedTurn (gid : Nat) (s : State) (p : Path) : State :=
  match tblFind s.groups gid, decode p.word with
  | some g, .ok i =>
    match g.frame, p.await.isSome && mayIssue s g p with
    | some f, true =>
      let before : Group := { g with
        paths := f.paths, splits := f.splits, families := f.families, preds := f.preds, frame := none, handler := false
        held := some (trapAt p 0 0 0) }
      match exec i { updGroup s gid (fun _ => before) with gid := gid, sp := p.split } with
      | .next t =>
        match tblFind t.groups gid with
        | none => t
        | some h =>
          if (h.paths.find? fun q => q.lanes = p.lanes).any fun q => q.await = p.await then s
          else
            wake (updGroup { t with gid := s.gid, sp := s.sp } gid fun h => { h with
              paths := g.paths, splits := g.splits, families := g.families, preds := g.preds, handler := true
              idem := g.idem, held := g.held
              frame := some { f with paths := h.paths, splits := h.splits, families := h.families, preds := h.preds } })
      | .fault _ | .refused _ => s
    | _, _ => s
  | _, _ => s

/-- What the paths of a group's trap frame had begun goes on. DEDUCED (unsafe), log entry 87. -/
def framedTurns (s : State) (gid : Nat) : State :=
  match (tblFind s.groups gid).bind (·.frame) with
  | none => s
  | some f => f.paths.foldl (framedTurn gid) s

/-- A turn of a split: its path enters its slot, and the instruction it finds issues. A path that may not issue lets its
turn pass. In a handler, what its other paths had issued may complete first (17 R390). -/
def runSplit (s : State) (gid sp : Nat) : Host.Outcome State Fault Refusal :=
  let s1 := framedTurns { s with gid := gid, sp := sp } gid
  match issuing s1 with
  | none => .next (stall s1)
  | some (g, p) =>
    if !mayIssue s1 g p then .next (stall s1)
    else
      match enterSlot s1 gid g p with
      | .taken s2 => .next s2
      | .issue i s2 => exec i (issueCycle s2 gid sp g.quad)

/-- A turn of a relay instance: its next instruction (14 R331). An instance whose program has no further instruction
stands still. DEDUCED (unsafe), log entry 62. -/
def runRelay (s : State) (k : Nat) : Host.Outcome State Fault Refusal :=
  let s1 : State := { s with inst := k }
  if (tblFind s.instances k).any fun i => !instanceRuns s i then .next s1
  else
  match (tblFind s.instances k).bind fun i => (i.prog.code[i.pc]?).bind decodeRelay with
  | some i => exec i s1
  | none => .next (updInstance s1 k fun i => { i with blocked := true })

/-- Events are what no split and no relay instance executes. DESIGN CHOICE (safe), log entry 78. -/
def isEvent (i : Instr) : Bool :=
  i.guard.isNone && (encodeRelay i).isNone && match i with | .unassignedOpcode _ => false | _ => true

/-- DESIGN CHOICE (unsafe), log entry 4; DESIGN CHOICE (safe), log entry 78; DESIGN CHOICE (unsafe), log entry 79. -/
def runTurn (s : State) : Turn → Host.Outcome State Fault Refusal
  | .split gid sp => runSplit s gid sp
  | .relay k => runRelay s k
  | .event i x => if isEvent i then exec i { s with input := x } else .fault .strayTurn

/-! ### The default turn (log entry 5) -/

/-- When a group started: when its block was placed first (15 R350, R370). -/
def startedAt (s : State) (g : Group) : Nat := ((blockOf s g).map (·.start)).getD 0

/-- Puts a group among others by its age; of equals it comes first. -/
def insertAged (s : State) (e : Nat × Group) : Tbl Group → Tbl Group
  | [] => [e]
  | x :: r => if startedAt s e.2 ≤ startedAt s x.2 then e :: x :: r else x :: insertAged s e r

/-- The splits that may take a turn, by the age of their groups and then by their numbers.
DESIGN CHOICE (safe), log entry 5. -/
def readySplits (s : State) : List (Nat × Split) :=
  (s.groups.foldr (insertAged s) []).flatMap fun e =>
    (((List.range 4).filterMap fun n => e.2.splits.find? fun x => x.num = n).filter fun x =>
      splitReady s e.1 e.2 x.num).map fun x => (e.1, x)

/-- A list from its entry k on, and then the entries before it. -/
def rotate {α : Type} (l : List α) (k : Nat) : List α := l.drop (k % l.length) ++ l.take (k % l.length)

/-- The quadrants take turns. In its turn a quadrant's boosted splits go on round-robin, else its oldest, those that
YIELD ranks last after the others; a split that has waited 64 cycles is boosted first (16 R385).
DESIGN CHOICE (safe), log entry 5. -/
def pickSplit (s : State) : Option Turn :=
  let l := readySplits s
  let quad (gid : Nat) : Nat := ((tblFind s.groups gid).map (·.quad)).getD 0
  match l.find? fun e => boostDue e.2 with
  | some e => some (.event .splitBoost (.splitBoost e.1 e.2.num))
  | none =>
    match (rotate l s.clock).head? with
    | none => none
    | some e =>
      let q := quad e.1
      let l := l.filter fun e => quad e.1 = q
      let b := l.filter fun e => e.2.boost
      let later := b.find? fun e => tblGet 0 s.boostTurn q < 4 * e.1 + e.2.num
      ((later.or b.head?).or ((l.find? fun e => !e.2.yielded).or l.head?)).map fun e => .split e.1 e.2.num

/-- The first relay instance that can go on, from the one that the clock names. DESIGN CHOICE (safe), log entry 5. -/
def pickRelay (s : State) : Option Turn :=
  ((rotate s.instances s.clock).find? fun e => !e.2.blocked && !e.2.sending && instanceRuns s e.2).map fun e =>
    .relay e.1

/-- The events of the machine's own agents that the state gives cause for.
DESIGN CHOICE (safe), log entry 5; DESIGN CHOICE (safe), log entry 7. -/
def innerEvents (s : State) : List (Instr × Input) :=
  let keys (t : List Nat) (f : Nat → Instr × Input) : List (Instr × Input) := t.map f
  keys (if s.stage = .rom || s.stage = .firmware then [s.firmware.verified.length + 1] else [])
    (fun t => (.imageVerify, .imageVerify t)) ++
  [(.stageReady, .stageReady 0 0 [])] ++
  keys (s.producers.map (·.1)) (fun i => (.producerCompletion, .producerCompletion i)) ++
  keys ((s.late ++ s.sq).map (·.core)) (fun c => (.storePerform, .storePerform c)) ++
  keys (s.chunkQ.map (·.1)) (fun q => (.chunkGrant, .chunkGrant q)) ++
  (s.quads.map (·.1)).flatMap (fun q =>
    [(.passStart, .passStart q), (.passEnd, .passEnd q none 0 .clean), (.loftFillComplete, .loftFillComplete q 0 .clean),
      (.columnCommit, .columnCommit q none [] 0 .clean), (.factorisationEnd, .factorisationEnd q [] 0 .clean)]) ++
  (if s.porterOps = [] then [] else keys (List.range 48) fun p => (.porterDispatch, .porterDispatch p)) ++
  s.porterOps.flatMap (fun e =>
    (.transferWritten, .transferWritten e.1 0 .clean) :: (.porterOperationEnd, .porterOperationEnd e.1) ::
      e.2.unacked.map fun i => (.transferAcknowledgement, .transferAcknowledgement (.op e.1) (e.2.seq + BitVec.ofNat 32 i))) ++
  keys ((s.bindings.filter fun e => e.2.stages.any fun g => g.sent && !g.taken).map (·.1)) (fun m =>
    let b := tblFind s.bindings m
    (.contribution, .contribution ((b.map (·.engine)).getD 0) (96 + (b.map (·.die)).getD 0) none false)) ++
  keys (s.queues.map (·.1)) (fun q => (.commandAccept, .commandAccept q)) ++
  keys (s.grids.map (·.1)) (fun g => (.dependenceComplete, .dependenceComplete g)) ++
  keys (s.grids.map (·.1)) (fun g => (.admission, .admission g)) ++
  keys (List.range 4) (fun p => (.placementOpportunity, .placementOpportunity p)) ++
  keys (s.groups.map (·.1)) (fun g => (.groupFinalExit, .groupFinalExit g)) ++
  keys (s.grids.map (·.1)) (fun g => (.gridRetire, .gridRetire g)) ++
  keys ((s.owners.filter fun e => e.2.state = .scrubbing).map (·.1)) (fun m => (.frameScrubComplete, .frameScrubComplete m)) ++
  keys (s.ctxs.map (·.1)) (fun k => (.cutDrainComplete, .cutDrainComplete k)) ++
  keys (s.blocks.map (·.1)) (fun b => (.drainDeadline, .drainDeadline b)) ++
  [(.partmodeMoveComplete, .nothing)] ++
  keys (s.ctxs.map (·.1)) (fun k => (.sliceEnd, .sliceEnd k)) ++
  keys (s.inns.map (·.1)) (fun k => (.curfewExpiry, .curfewExpiry k)) ++
  s.groups.flatMap (fun e => keys (e.2.splits.map (·.num)) fun n => (.evwaitTimeout, .evwaitTimeout e.1 n)) ++
  [(.hostFirmwareRestart, .nothing)] ++
  keys (s.dirStatus.map (·.1)) (fun j => (.sliceRecoveryComplete, .sliceRecoveryComplete j))

/-- Two states that differ only in caches, counters and the model's own fields. -/
def sameState (s t : State) : Bool :=
  decide (t = { s with
    input := t.input, stalled := t.stalled, free := t.free, counters := t.counters
    tlb := t.tlb, tables := t.tables, frames := t.frames, fetched := t.fetched
    l1 := t.l1, written := t.written, parts := t.parts, l2 := t.l2, sliceMts := t.sliceMts, wb := t.wb, dir := t.dir })

/-- An event that changes more than caches and counters. -/
def eventActs (s : State) (e : Instr × Input) : Bool :=
  match exec e.1 { s with input := e.2 } with
  | .next t => !sameState s t
  | .fault _ => true
  | .refused _ => true

/-- The turn that comes when the agenda is empty: a split's, else an instance's, else an event's. Every 32nd turn is an
event's or an instance's if there is one, the events from the one that the count of such turns names, so that no agent
waits for ever. DESIGN CHOICE (safe), log entry 5. -/
def defaultTurn (s : State) : Option Turn :=
  let event (k : Nat) : Option Turn := ((rotate (innerEvents s) k).find? (eventActs s)).map fun e => .event e.1 e.2
  if s.clock % 32 = 31 then
    if s.clock / 32 % 2 = 0 then (event (s.clock / 32)).or ((pickRelay s).or (pickSplit s))
    else (pickRelay s).or ((event (s.clock / 32)).or (pickSplit s))
  else (pickSplit s).or ((pickRelay s).or (event 0))

/-- The turn of a step, and the machine with that turn taken from its agenda. DESIGN CHOICE (unsafe), log entry 4. -/
def nextTurn (s : State) : Option Turn × State :=
  match s.agenda with
  | t :: r => (some t, { s with agenda := r })
  | [] => (defaultTurn s, s)

/-- Time goes on. DEDUCED (unsafe), log entry 35; DESIGN CHOICE (unsafe), log entry 79. -/
def tick (s : State) : State := { s with clock := s.clock + 1 }

/-- One step: the next turn; with none, the waiting paths are looked at again. DESIGN CHOICE (unsafe), log entry 4. -/
def runStep (s : State) : Host.Outcome State Fault Refusal :=
  match nextTurn s with
  | (none, s1) => .next (tick (wake s1))
  | (some t, s1) =>
    match runTurn s1 t with
    | .next s2 => .next (tick s2)
    | .fault f => .fault f
    | .refused r => .refused r

end Sys2Proof.Machine
end

