-- ==== Sys2Proof/Machine/Step.lean ====
section
/-! DEFINITION. The step, and an instruction placed where the next step fetches it. -/

namespace Sys2Proof.Machine

/-- One step of the machine: one turn of one of its agents. -/
def step (s : State) : Host.Outcome State Fault Refusal := runStep s

/-- The state with an instruction placed so that the next step fetches and runs it: 64 bits are a relay instruction of
an instance, any other width a word in slot 0 of the line that a split of the root enters (log entry 6).
DESIGN CHOICE (safe), log entry 6. -/
def State.withFetchWord (s : State) (nbits w : Nat) : State :=
  if nbits = 64 then placeRelay s (BitVec.ofNat 64 w) else placeSplit s (BitVec.ofNat 96 w)

end Sys2Proof.Machine
end

