-- ==== Sys2Proof/Safety.lean ====
section
/-! DEFINITION. The terms of the statements: when a split's instruction issues, the machine after it, the forms that
every step keeps, and what a safe run is. -/

namespace Sys2Proof.Machine

/-! ### Safe runs and the forms that steps keep -/

/-- The memory's canonical form: addresses rise strictly, and no listed byte is what an unlisted one reads as.
DESIGN CHOICE (safe), log entry 1. -/
abbrev Memory.wf (m : Tbl Byte) : Prop := tblWf 0 m = true

/-- A legal PARTMODE (01 R18). -/
def legalMode (m : Nat) : Prop := m = 1 ∨ m = 2 ∨ m = 4

/-- The mode, the mode that the next package reset takes, and the mode that a change is moving to are legal. -/
structure ModeInv (s : State) : Prop where
  now : legalMode s.mode
  boot : legalMode s.firmware.boot.partmode
  next : ∀ m, s.newMode = some m → legalMode m

/-- A run is safe for n steps: none of them stops the model. -/
def runsSafely : Nat → State → Prop
  | 0, _ => True
  | n + 1, s => ∃ t, step s = .next t ∧ runsSafely n t

/-! ### The issue of an instruction -/

/-- What a meaning is given when path p of group g issues i. -/
def insOf (i : Instr) (s : State) (g : Group) (p : Path) : Ins := ⟨s.gid, g, p, actLanes g p i, i⟩

/-- Path p of group g has its turn with instruction i: it has not begun it, no check of its issue stops it (17 R388
steps 3-5), and some lane acts. -/
structure Issues (i : Instr) (s : State) (g : Group) (p : Path) : Prop where
  turn : issuing s = some (g, p)
  new : p.await = none
  acts : actLanes g p i ≠ 0
  go : issueCheck g p i (actLanes g p i) = .go

/-- The machine as i issues, before its own effect: latches have aged, and IDEM is clear if 17 R401 says so. -/
def atIssue (i : Instr) (s : State) (g : Group) (p : Path) : State := issued s (insOf i s g p)

/-- The machine when the own effect of i has led to u: the path goes on at the next PC, with the latch that HOLD
fills, its split has lost its boost, and waiting splits are looked at again. -/
def goesOn (i : Instr) (s : State) (g : Group) (p : Path) (u : State) : State :=
  wake (unboost (advance u (insOf i s g p)) s.gid p.split)

/-- The same when the effect of i is a change f of its own group. -/
def changes (i : Instr) (s : State) (g : Group) (p : Path) (f : Group → Group) : State :=
  goesOn i s g p (updGroup (atIssue i s g p) s.gid f)

/-- The machine when i, having led to u, has itself placed the paths of its group; what follows from their new places is
settled (15 R353-R356), and a return to a malformed PC takes its trap (17 R393). -/
def placed (s : State) (p : Path) (u : State) : State :=
  wake (badReturn (updGroup (unboost u s.gid p.split) s.gid settle) s.gid)

/-- The same when the effect of i is a change f of its own group. -/
def replaces (i : Instr) (s : State) (g : Group) (p : Path) (f : Group → Group) : State :=
  placed s p (updGroup (atIssue i s g p) s.gid f)

/-- The path stands at i again, as before its issue, in u: its latches and its replay mask. -/
def rewinds (s : State) (p : Path) (u : State) : State :=
  updGroup u s.gid fun h => updPath h p.lanes fun q => { q with latches := p.latches, replay := p.replay }

/-- The machine when i, having led to u, waits to be answered: its path keeps what it holds, and its split has lost its
boost where the wait is an issue (16 R385). -/
def waits (i : Instr) (s : State) (g : Group) (p : Path) (u : State) : State :=
  let (h, u1) := heldValue u (insOf i s g p)
  let u2 := updGroup (rewinds s p u1) s.gid fun g => updPath g p.lanes fun q => { q with hold := h }
  stall (if issuesAsWaits i then unboost u2 s.gid p.split else u2)

/-- The machine when i, having led to u, raises the trap t: it is precise at i, and knows the destinations of i. -/
def raises (i : Instr) (s : State) (p : Path) (t : Trap) (u : State) : State :=
  wake (takeTrap (rewinds s p u) s.gid { t with dsts := destKeys i })

/-- As `Issues`, whatever the predicate. -/
structure Reaches (i : Instr) (s : State) (g : Group) (p : Path) : Prop where
  turn : issuing s = some (g, p)
  new : p.await = none
  go : issueCheck g p i (actLanes g p i) = .go

/-! ### Addresses -/

/-- Byte x of machine memory. -/
def byteAt (s : State) (x : Nat) : Byte := memByte s.mem x

end Sys2Proof.Machine
end

