-- ==== Sys2Proof/Certificates/Slice0/Obligations.lean ====
section
/-! DEFINITION. The statements for the provers, with the tables of rule values that they quantify over. A table gives,
for each instruction it lists, what the rules named at it say; `none` elsewhere. -/

namespace Sys2Proof.Machine

/-! ### Register results -/

/-- Moves, selection, predicates and scales (09 R221-R223), FECHK (09 R226) and IDEM (17 R400). -/
def moveRule (i : Instr) (g : Group) (p : Path) (act : Lanes) : Option (Group → Group) :=
  match i with
  | .mov _ t d a => some fun h => writeDst h d t.regs act (srcVal g p a t.regs)
  | .movi _ zero d x => some fun h => writeDst h d 1 act fun _ => if zero then x.setWidth 64 else x.signExtend 64
  | .movhi _ d x => some fun h => writeDst h d 1 act fun _ => x ++ (sGet g d.reg.toNat).extractLsb' 0 32
  | .sel _ k t d a b => some fun h => writeDst h d t.regs act fun l =>
      if (pGet g k.toNat).getLsbD l then srcVal g p a t.regs l else bVal g p b t.regs (t = .i64) l
  | .plop _ lut pd pa pb pc => some fun h => pSet h pd.toNat act (laneMask fun l =>
      lut.getLsbD (4 * one ((pGet g pa.toNat).getLsbD l) + 2 * one ((pGet g pb.toNat).getLsbD l) +
        one ((pGet g pc.toNat).getLsbD l)))
  | .s2p _ (.toPred pk a) => some fun h => pSet h pk.toNat act ((sGet g a.reg.toNat).setWidth 32)
  | .s2p _ (.rev d pk) => some fun h => writeDst h d 1 act fun _ => (act &&& pGet g pk.toNat).setWidth 64
  | .s2p _ (.all a) => some fun h =>
      (List.range 7).foldl (fun h k => pSet h k act (laneMask fun l => (vGet g a.reg.toNat l).getLsbD k)) h
  | .s2p _ (.vr d) => some fun h => writeDst h d 1 act fun l => BitVec.ofNat 64 (predByte g l)
  | .setscl _ k b => some fun h =>
      { h with scl := tblSet 0x3F800000 h.scl k.toNat ((bVal g p b 1 false 0).setWidth 32) }
  | .fechk _ pd a n => some fun h => pSet h pd.toNat act (if anyEmpty g (some (a, n)) then 0 else allLanes)
  | .idem _ clear => some fun h => { h with idem := !clear }
  | _ => none

/-- The exact integer results of 10 R231-R234, and the addresses of LEA (10 R237). -/
def integerRule (i : Instr) (g : Group) (p : Path) (act : Lanes) : Option (Group → Group) :=
  let a (t : Fmt) (x : Src) (l : Nat) : Long := srcVal g p x t.regs l
  let b (t : Fmt) (x : BOpd) (l : Nat) : Long := bVal g p x t.regs (intSigned t) l
  let x (t : Fmt) (r : Src) (l : Nat) : Int := readInt t (a t r l)
  let y (t : Fmt) (r : BOpd) (l : Nat) : Int := readInt t (b t r l)
  let m (t : Fmt) (r : Src) (l : Nat) : Nat := readNat t (a t r l)
  let put (t : Fmt) (d : Dst) (f : Nat → Int) : Option (Group → Group) :=
    some fun h => writeDst h d t.regs act fun l => extInt (intN t) (intSigned t) (f l)
  let put32 (d : Dst) (f : Nat → Long) : Option (Group → Group) := some fun h => writeDst h d 1 act f
  match i with
  | .iadd _ sat t d r q => put t d fun l => if sat then satInt t (x t r l + y t q l) else x t r l + y t q l
  | .iadd3 _ t d r q w => put t d fun l => x t r l + y t q l + x t w l
  | .isub _ sat t d r q => put t d fun l => if sat then satInt t (x t r l - y t q l) else x t r l - y t q l
  | .imul _ t d r q => put t d fun l => x t r l * y t q l
  | .imulhi _ t d r q => put t d fun l => (x t r l * y t q l) / 2 ^ intN t
  | .imad _ t d r q w => put t d fun l => x t r l * y t q l + x t w l
  | .imadw _ t d r q w => some fun h => writeDst h d 2 act fun l =>
      extInt 64 true (x t r l * y t q l + (srcVal g p w 2 l).toInt)
  | .idiv _ rem t d r q => put t d fun l => if rem then remInt (x t r l) (y t q l) else divInt t (x t r l) (y t q l)
  | .imin _ t d r q => put t d fun l => min (x t r l) (y t q l)
  | .imax _ t d r q => put t d fun l => max (x t r l) (y t q l)
  | .iabs _ sat t d r => put t d fun l => if sat then satInt t ((x t r l).natAbs : Int) else ((x t r l).natAbs : Int)
  | .isad _ t d r q w => put t d fun l => ((x t r l - y t q l).natAbs : Int) + x t w l
  | .isat _ tgt t d r => put32 d fun l =>
      extInt (isatFmt tgt).1 (isatFmt tgt).2 (clampInt (x t r l) (intMin (isatFmt tgt).1 (isatFmt tgt).2)
        (intMax (isatFmt tgt).1 (isatFmt tgt).2))
  | .lop3 _ t d r q w lut => put t d fun l => ((lop3 lut (a t r l) (a t q l) (a t w l)).toNat : Int)
  | .shl _ wrap t d r q => put t d fun l => (shlNat (intN t) (m t r l) (shiftCount wrap (intN t) (b t q l)) : Int)
  | .shr _ wrap t d r q => put t d fun l => (shrNat (intN t) (m t r l) (shiftCount wrap (intN t) (b t q l)) : Int)
  | .sar _ wrap t d r q => put t d fun l =>
      intOf (intN t) true (a t r l).toNat / 2 ^ Nat.min (intN t) (shiftCount wrap (intN t) (b t q l))
  | .fshf _ right wrap t d r q w => put t d fun l =>
      (fshf right (intN t) (m t r l) (readNat t (b t q l)) (Nat.min (intN t) (shiftCount wrap (intN t) (a t w l))) : Int)
  | .bfe _ t d r q => put t d fun l => bfe t (a t r l) (b t q l)
  | .bfi _ t d r q w => put t d fun l =>
      (bfi (intN t) (m t r l) (m t w l) (fieldPos (intN t) (b t q l)) (fieldLen (intN t) (b t q l)) : Int)
  | .bmsk _ t d r q => put t d fun l =>
      (((2 ^ Nat.min ((b t q l).toNat % 2 ^ 32) (intN t) - 1) * 2 ^ Nat.min ((a t r l).toNat % 2 ^ 32) (intN t) : Nat) : Int)
  | .popc _ t d r => put32 d fun l => BitVec.ofNat 64 (popCount (intN t) (m t r l))
  | .clz _ t d r => put32 d fun l => BitVec.ofNat 64 (leadZeros (intN t) (m t r l))
  | .brev _ t d r => put t d fun l => (bitRev (intN t) (m t r l) : Int)
  | .prmt _ d r q w => put32 d fun l => BitVec.ofNat 64 (prmt (a .bits r l).toNat (b .bits q l).toNat (a .bits w l).toNat)
  | .idot4 _ ub sat t d r q w => put .i32 d fun l =>
      let z := dot4 (t = .u8x4) ub (a t r l).toNat (b t q l).toNat (readInt .i32 (a t w l))
      if sat then satInt .i32 z else z
  | .lea _ d mo => some fun h => writeDst h d 2 act (memAddr g p mo)
  | _ => none

/-- The predicate results of 10 R235, R236 and 11 R257, and IADDC's sum and carry (10 R232). -/
def predicateRule (i : Instr) (g : Group) (p : Path) (act : Lanes) : Option (Group → Group) :=
  let combine (w : PredWrite) (t : Nat → Bool) : Option (Group → Group) :=
    some fun h => pSet h w.pd.toNat act (laneMask fun l =>
      let q := (predLanes g w.q).getLsbD l
      match w.comb.toNat with
      | 0 => t l
      | 1 => t l && q
      | 2 => t l || q
      | _ => t l != q)
  let c : Ins := ⟨0, g, p, act, i⟩
  match i with
  | .icmp _ cc t a b w => combine w fun l =>
      cmpInt cc (readInt t (srcVal g p a t.regs l)) (readInt t (bVal g p b t.regs (intSigned t) l))
  | .fcmp _ cc t a b w => combine w fun l => cmpFlt cc (elemVal t (fltA c a l) 0) (elemVal t (fltB c t b l) 0)
  | .fclass _ t a b w => combine w fun l =>
      (List.range t.elems).any fun k =>
        bit (bVal g p b 1 false l).toNat (fltClass (elemFmt t) (elemOf t (fltA c a l) k))
  | .iaddc _ t d a b cin cout =>
    let sum (l : Nat) : Nat :=
      readNat t (srcVal g p a t.regs l) + readNat t (bVal g p b t.regs (intSigned t) l) + one ((predLanes g cin).getLsbD l)
    some fun h =>
      pSet (writeDst h d t.regs act fun l => extInt (intN t) (intSigned t) (sum l)) cout.toNat act
        (if d.file = .scalar then (if 2 ^ intN t ≤ sum (firstLane act) then allLanes else 0)
         else laneMask fun l => 2 ^ intN t ≤ sum l)
  | _ => none

/-- The floating results of 11 R255-R259: each element of the result is rounded once. -/
def floatRule (i : Instr) (g : Group) (p : Path) (act : Lanes) : Option (Group → Group) :=
  let c : Ins := ⟨0, g, p, act, i⟩
  let x (t : Fmt) (a : Src) (l k : Nat) : Val := elemVal t (fltA c a l) k
  let y (t : Fmt) (b : BOpd) (l k : Nat) : Val := elemVal t (fltB c t b l) k
  let put (t : Fmt) (d : Dst) (f : Nat → Nat → Nat) : Option (Group → Group) :=
    some fun h => writeDst h d 1 act fun l => BitVec.ofNat 64 (packWith t (f l))
  let round (t : Fmt) (rm : RMode) (d : Dst) (f : Nat → Nat → Val) : Option (Group → Group) :=
    put t d fun l k => roundIeee (elemFmt t) (rndOf rm) (f l k)
  let tr (f : Trans) (t : Fmt) (d : Dst) (a : Src) : Option (Group → Group) :=
    put t d fun l k => transcend f (elemFmt t) (elemOf t (fltA c a l) k)
  let one32 (d : Dst) (f : Nat → Nat) : Option (Group → Group) := some fun h => writeDst h d 1 act fun l => BitVec.ofNat 64 (f l)
  match i with
  | .fadd _ rm t d a b => round t rm d fun l k => vAdd (isDown rm) (x t a l k) (y t b l k)
  | .fsub _ rm t d a b => round t rm d fun l k => vAdd (isDown rm) (x t a l k) (vNeg (y t b l k))
  | .fmul _ rm t d a b => round t rm d fun l k => vMul (x t a l k) (y t b l k)
  | .ffma _ rm t d a b w => round t rm d fun l k => vAdd (isDown rm) (vMul (x t a l k) (y t b l k)) (x t w l k)
  | .fdiv _ rm t d a b => round t rm d fun l k => vDiv (x t a l k) (y t b l k)
  | .frcp _ rm t d a => round t rm d fun l k => vDiv vOne (x t a l k)
  | .frsq _ rm t d a => round t rm d fun l k => vRsqrt (x t a l k)
  | .fsqrt _ rm t d a => round t rm d fun l k => vSqrt (x t a l k)
  | .fscale _ rm t d a b => round t rm d fun l k => scaleBy (intOf 32 true (bVal g p b 1 false l).toNat) (x t a l k)
  | .fmin _ num t d a b => put t d fun l k =>
      fltPick (elemFmt t) num (fun u v => vBelow v u) (elemOf t (fltA c a l) k) (elemOf t (fltB c t b l) k)
  | .fmax _ num t d a b => put t d fun l k =>
      fltPick (elemFmt t) num (fun u v => vBelow u v) (elemOf t (fltA c a l) k) (elemOf t (fltB c t b l) k)
  | .frnd _ rm t d a => put t d fun l k =>
      match x t a l k with
      | .inf _ => elemOf t (fltA c a l) k
      | v => roundIeee (elemFmt t) (rndOf rm) (vRound (rndOf rm) v)
  | .fcpys _ m t d a b => put t d fun l k =>
      let w := (elemFmt t).width
      let u := elemOf t (fltA c a l) k
      let sb := bit (elemOf t (fltB c t b l) k) (w - 1)
      let neg := match m with
        | .cpy => sb
        | .neg => !sb
        | .xor => bit u (w - 1) != sb
      u % 2 ^ (w - 1) + one neg * 2 ^ (w - 1)
  | .fexp2 _ t d a => tr .exp2 t d a
  | .flog2 _ t d a => tr .log2 t d a
  | .ftanh _ t d a => tr .tanh t d a
  | .ferf _ t d a => tr .erf t d a
  | .fsin _ t d a => tr .sin t d a
  | .fcos _ t d a => tr .cos t d a
  | .fdot2 _ t d a b w => one32 d fun l => dotShort p.fmt g.nbv t t (fltA c a l) (fltA c b l) (fltA c w l)
  | .fdot4 _ mix t d a b w => one32 d fun l =>
      dotShort p.fmt g.nbv t (if mix then otherFp8 t else t) (fltA c a l) (fltA c b l) (fltA c w l)
  | .cvtn _ k t d a seed => one32 d fun l => packWith t fun j =>
      convertVal t (fmtMode p.fmt (srcVal g p seed 1 l).toNat l j) (fmtSat p.fmt) false
        (vMul (valOf fp32 (blockElem c a j l)) (valOf fp32 (tblGet 0x3F800000 g.scl k.toNat).toNat))
  | _ => none

/-- The conversions of 11 R260-R265: CVT, QNTG and DQNT. -/
def convertRule (i : Instr) (g : Group) (p : Path) (act : Lanes) : Option (Group → Group) :=
  let c : Ins := ⟨0, g, p, act, i⟩
  let opt (x : Option Src) (l : Nat) : Nat :=
    match x with
    | some x => fltA c x l
    | none => 0
  match i with
  | .cvt _ m sat elt dt st d a =>
    let mode (l k : Nat) : Rnd := match m with
      | .fixed rm => rndOf rm
      | .fmt seed => fmtMode p.fmt (srcVal g p seed 1 l).toNat l k
    let sat1 := match m with
      | .fixed _ => sat
      | .fmt _ => sat || fmtSat p.fmt
    let elem (l k : Nat) : Nat :=
      convertVal dt (mode l k) sat1 (intFmt st).isSome
        (valAs st (flushFor p.fmt g.nbv st (elemOf st (srcVal g p a st.regs l).toNat (if dt.elems = 1 then elt.toNat else k))))
    some fun h => writeDst h d dt.regs act fun l =>
      if dt.elems = 1 then convBits dt (elem l 0) else BitVec.ofNat 64 (packWith dt (elem l))
  | .qntg _ true _ t d a b _ =>
    let r (l : Nat) : Nat × Nat := groupScale t (fmtSfmt p.fmt) (valOf fp32 (fltA c a l)) (valOf fp32 (opt b l))
    some fun h => writeBlock h d.reg.toNat 2 act fun l k => if k = 0 then (r l).1 else (r l).2
  | .qntg _ false rm t d a b z =>
    let word (l : Nat) : Nat :=
      packElems (groupBits t) ((List.range (if t = .int3g then 32 else 8)).map fun k =>
        truncInt (groupBits t) (quantise t (rndOf rm) (if t = .uint4g then opt z l % 16 else 0)
          (sfmtVal p.fmt (opt b l)) (valOf fp32 (vGet g (a.reg.toNat + k) l).toNat)))
    some fun h => writeBlock h d.reg.toNat (if t = .int3g then 3 else 1) act fun l k => word l / 2 ^ (32 * k)
  | .dqnt _ grp t d a b z =>
    let unit (l : Nat) : Nat :=
      if t = .int3g then packElems 32 ((List.range 3).map fun k => (vGet g (a.reg.toNat + k) l).toNat) else fltA c a l
    some fun h => writeBlock h d.reg.toNat 8 act fun l k =>
      dequantise (expandElem t (unit l) (8 * grp.toNat + k) (opt z l)) (sfmtVal p.fmt (fltA c b l))
  | _ => none

/-- The cross-lane results that are written at issue (10 R241-R243, R249). -/
def crossRule (i : Instr) (g : Group) (p : Path) (act : Lanes) : Option (Group → Group) :=
  let c : Ins := ⟨0, g, p, act, i⟩
  match i with
  | .shfl _ m t d a b pv =>
    let src (l : Nat) : Option Nat := (shflLane m l (bVal g p b 1 false l)).filter fun k => act.getLsbD k
    some fun h =>
      let h1 := writeDst h d t.regs act fun l => srcVal g p a t.regs ((src l).getD l)
      match pv with
      | none => h1
      | some k => pSet h1 k.toNat act (laneMask fun l => (src l).isSome)
  | .vote _ _ q _ (some d) => some fun h => writeDst h d 1 act fun _ => (predLanes g q &&& act).setWidth 64
  | .vote _ m q pd none =>
    let x := predLanes g q &&& act
    let r : Bool := match m with
      | .all => x = act
      | .any => x != 0
      | .uni => x = act || x = 0
    some fun h => pSet h pd.toNat act (if r then allLanes else 0)
  | .lmatch _ t d a =>
    let x (l : Nat) : Nat := readNat (if t.wide then .u64 else .u32) (srcVal g p a t.regs l)
    some fun h => writeDst h d t.regs act fun l => (laneMask fun k => act.getLsbD k && x k = x l).setWidth 64
  | .scan _ op excl t d a =>
    let ys := scanVals (redOp op t) none (redVals c t a)
    some fun h => writeDst h d t.regs act fun l =>
      redBits t (tblGet 0 (if excl then exclVals (redIdentity op t) ys else ys) l)
  | .lred _ op t d a => some fun h => writeDst h d t.regs act fun _ =>
      redBits t (treeFold (redOp op t) 6 ((redVals c t a).map (·.2)))
  | .compact _ d a q =>
    let sel := laneList (act &&& predLanes g q)
    some fun h => writeBlock h d.reg.toNat 2 act fun l k =>
      if k = 0 then
        match sel[((laneList act).filter fun x => x < l).length]? with
        | some j => fltA c a j
        | none => 0
      else sel.length
  | .lhist _ rank d a b =>
    let nb := Nat.min ((bVal g p b 1 false (firstLane act)).toNat % 2 ^ 32) 32
    let among (q : Nat → Bool) : Nat := ((laneList act).filter q).length
    some fun h => writeDst h d 1 act fun l => BitVec.ofNat 64 (
      if rank then if fltA c a l < nb then among fun k => k < l && fltA c a k = fltA c a l else 0xFFFFFFFF
      else if l < nb then among fun k => fltA c a k = l else 0)
  | _ => none

end Sys2Proof.Machine

open Sys2Proof Sys2Proof.Machine

/-! ### Obligations -/

/-- A move, selection, predicate, scale or flag instruction, and one that tests a condition, changes its group as its
rule says, and its path goes on. -/
def Obligations.RegisterResults : Prop :=
  (∀ (i : Instr) (s : State) (g : Group) (p : Path) (f : Group → Group),
      moveRule i g p (actLanes g p i) = some f → Issues i s g p → exec i s = .next (changes i s g p f)) ∧
  (∀ (i : Instr) (s : State) (g : Group) (p : Path) (f : Group → Group),
      predicateRule i g p (actLanes g p i) = some f → Issues i s g p → exec i s = .next (changes i s g p f))

/-- A floating-point instruction or a conversion changes its group as its rule says, and its path goes on. That an
infinity that is an exact result stays itself under the directed roundings is the model's choice (log entry 24), and so
are integer narrowing and the conversions between integers of one width, which 03 R72 gives for narrower targets only
(log entry 85). -/
def Obligations.FloatResults : Prop :=
  (∀ (i : Instr) (s : State) (g : Group) (p : Path) (f : Group → Group),
      floatRule i g p (actLanes g p i) = some f → Issues i s g p → exec i s = .next (changes i s g p f)) ∧
  (∀ (i : Instr) (s : State) (g : Group) (p : Path) (f : Group → Group),
      convertRule i g p (actLanes g p i) = some f → Issues i s g p → exec i s = .next (changes i s g p f))

/-- An integer or cross-lane instruction changes its group as its rule says, and its path goes on. That LMATCH writes a
pair for a 64-bit TYPE, where 10 R242 gives a mask of 32 bits, and that SHFL reads its index in the low word of a pair
then, are the model's choice, from 10 R227 (log entry 25). -/
def Obligations.IntegerResults : Prop :=
  (∀ (i : Instr) (s : State) (g : Group) (p : Path) (f : Group → Group),
      integerRule i g p (actLanes g p i) = some f → Issues i s g p → exec i s = .next (changes i s g p f)) ∧
  (∀ (i : Instr) (s : State) (g : Group) (p : Path) (f : Group → Group),
      crossRule i g p (actLanes g p i) = some f → Issues i s g p → exec i s = .next (changes i s g p f))

/-- GETC, SETC and SETFMT write, unless the sequencer still writes the register or the format is invalid. RACQ is
granted when no request of its quadrant waits before it and the pool holds its chunks; RREL gives back the held chunks
of its mask once they are full; FEWAIT ends when no register it names is empty. TOPK and BSORT mark their destination
empty and leave a producer with their results. -/
def Obligations.GroupResults : Prop :=
  ((∀ gd hi d idx s g p, Issues (.getc gd hi d idx) s g p →
      factBusy (atIssue (.getc gd hi d idx) s g p) s.gid g.quad idx.toNat = false →
      exec (.getc gd hi d idx) s = .next (changes (.getc gd hi d idx) s g p fun h =>
        writeDst h d 1 (actLanes g p (.getc gd hi d idx)) fun l =>
          let x := specialVal (atIssue (.getc gd hi d idx) s g p) g p idx.toNat l
          if hi then x >>> 32 else x)) ∧
    (∀ gd hi idx a s g p, let i : Instr := .setc gd hi idx a
      let l := firstLane (actLanes g p i)
      let x := setcVal (specialVal (atIssue i s g p) g p idx.toNat l) (srcVal g p a 1 l) idx.toNat hi (a.file = .scalar)
      Issues i s g p → factBusy (atIssue i s g p) s.gid g.quad idx.toNat = false →
      (idx.toNat = 0x10 → fmtValid (x.setWidth 32) = true) →
      exec i s = .next (changes i s g p fun h => specialSet h p idx.toNat x)) ∧
    (∀ gd m b s g p, let i : Instr := .setfmt gd m b
      let y : Word := (bVal g p b 1 false 0).setWidth 32
      let x : Word := match m with
        | none => y
        | some a => (p.fmt &&& ~~~((srcVal g p a 1 0).setWidth 32)) ||| (y &&& (srcVal g p a 1 0).setWidth 32)
      Issues i s g p → fmtValid x = true →
      exec i s = .next (changes i s g p fun h => updPath h p.lanes fun q => { q with fmt := x }))) ∧
  ((∀ gd try_ mask pd s g p, let i : Instr := .racq gd try_ mask pd
      let u := atIssue i s g p
      Issues i s g p → mask ≠ 0 → chunkCount mask ≤ g.regext → g.chunks = 0 → g.splits.length = 1 →
      tblGet [] u.chunkQ g.quad = [] → chunkCount mask ≤ poolFree u g.quad →
      exec i s = .next (goesOn i s g p (updGroup (grantChunks u s.gid mask) s.gid fun h =>
        if try_ then pSet h pd.toNat (actLanes g p i) allLanes else h))) ∧
    (∀ gd mask s g p, let i : Instr := .rrel gd mask
      Issues i s g p → g.splits.length = 1 →
      (g.empty.any fun e => e.1 < 256 && inChunks (mask &&& g.chunks) e.1) = false →
      exec i s = .next (changes i s g p fun h =>
        { clearChunks h (mask &&& g.chunks) with chunks := h.chunks &&& ~~~(mask &&& g.chunks) })) ∧
    (∀ gd r s g p, Issues (.fewait gd r) s g p → anyEmpty g r = false →
      exec (.fewait gd r) s = .next (goesOn (.fewait gd r) s g p (atIssue (.fewait gd r) s g p)))) ∧
  ((∀ gd w t d a b k seg pf s g p, let i : Instr := .topk gd w t d a b k seg pf
      let c := insOf i s g p
      let S := segLanes seg.toNat
      let val (l r : Nat) : Nat :=
        match r with
        | 0 => (((segOf c t true a b S l).1[(segOf c t true a b S l).2]?).map (·.key)).getD 0
        | 1 => (((segOf c t true a b S l).1[(segOf c t true a b S l).2]?).map (·.payload)).getD 0
        | 2 => if w then (topkWeights k.toNat (segOf c t true a b S l).1).getD (segOf c t true a b S l).2 0 else 0
        | _ => rankOf l (segOf c t true a b S l).1
      let sticky (l : Nat) : Bool :=
        (segItems c a b S (l / S)).any fun x => t = .f32 && 0x7F800000 ≤ x.key % 2 ^ 31
      let flags : List (Nat × Lanes × Lanes) := match pf with
        | none => []
        | some q => [(q.toNat, c.act &&& laneMask sticky, allLanes)]
      Issues i s g p →
      exec i s = .next (goesOn i s g p (produce (atIssue i s g p) s.gid
        ((List.range 4).map fun j => regKey .lane (d.reg.toNat + j)) (blockWrites d.reg.toNat 4 c.act val) flags))) ∧
    (∀ gd desc t d a b seg s g p, let i : Instr := .bsort gd desc t d a b seg
      let c := insOf i s g p
      let at_ (l : Nat) := (segOf c t desc a b (segLanes seg.toNat) l).1[(segOf c t desc a b (segLanes seg.toNat) l).2]?
      Issues i s g p →
      exec i s = .next (goesOn i s g p (produce (atIssue i s g p) s.gid
        ((List.range 2).map fun j => regKey .lane (d.reg.toNat + j))
        (blockWrites d.reg.toNat 2 c.act fun l r => ((at_ l).map fun x => if r = 0 then x.key else x.payload).getD 0) []))))

/-- An instruction of a split in which no lane acts lets its path go on, and does nothing else but what every issue
does: latches age, and IDEM is cleared by an instruction that 17 R401 names, which is the model's reading (log entry
22). -/
def Obligations.NoLaneActs : Prop :=
  ∀ (i : Instr) (s : State) (g : Group) (p : Path),
    i.guard.isSome → (∀ gd, i ≠ .wsync gd) → Reaches i s g p → actLanes g p i = 0 →
    exec i s = .next (goesOn i s g p (atIssue i s g p))

/-- A lane destination of one or two registers is written in the lanes of the mask and nowhere else; a scalar once. A
predicate write reaches the lanes of its mask only; p7 reads true whatever is written to it (09 R209, R210). -/
def Obligations.RegisterWrites : Prop :=
  (∀ (g : Group) (d : Dst) (n : Nat) (act : Lanes) (f : Nat → Long), n = 1 ∨ n = 2 →
      (∀ r l, l < 32 → vGet (writeDst g d n act f) r l =
        if d.file = .lane ∧ act.getLsbD l ∧ r = d.reg.toNat then (f l).setWidth 32
        else if d.file = .lane ∧ act.getLsbD l ∧ n = 2 ∧ r = d.reg.toNat + 1 then (f l).extractLsb' 32 32
        else vGet g r l) ∧
      (∀ r, sGet (writeDst g d n act f) r = if d.file = .scalar ∧ r = d.reg.toNat then f (firstLane act) else sGet g r) ∧
      writeDst g d n act f = { g with v := (writeDst g d n act f).v, s := (writeDst g d n act f).s }) ∧
  (∀ (g : Group) (k : Nat) (m x : Lanes),
      (∀ j, pGet (pSet g k m x) j = if j = k ∧ k ≠ 7 then (pGet g k &&& ~~~m) ||| (x &&& m) else pGet g j) ∧
      pGet (pSet g 7 m x) 7 = allLanes ∧ pSet g 7 m x = g ∧
      pSet g k m x = { g with preds := (pSet g k m x).preds })

/-- The 32-bit results of addition, subtraction and multiplication are those of two's complement words; IDIV's
quotient and remainder are the parts of its dividend; and a shift of a word of n bits, at any count, n and above too,
is the shift of the word: it brings in zeros, or for SAR the sign, and `.wrap` takes its count modulo n (10 R234). -/
def Obligations.IntegerArithmetic : Prop :=
  (∀ x y : Long, ∀ t : Fmt, t = .i32 ∨ t = .u32 →
    (extInt (intN t) (intSigned t) (readInt t x + readInt t y)).setWidth 32 = (x.setWidth 32 + y.setWidth 32 : Word) ∧
    (extInt (intN t) (intSigned t) (readInt t x - readInt t y)).setWidth 32 = (x.setWidth 32 - y.setWidth 32 : Word) ∧
    (extInt (intN t) (intSigned t) (readInt t x * readInt t y)).setWidth 32 = (x.setWidth 32 * y.setWidth 32 : Word)) ∧
  (∀ (t : Fmt) (x y : Int), y ≠ 0 →
    y * divInt t x y + remInt x y = x ∧ (remInt x y).natAbs < y.natAbs) ∧
  (∀ x : Int, remInt x 0 = x ∧ divInt .i32 x 0 = -1 ∧ divInt .u32 x 0 = 2 ^ 32 - 1) ∧
  (∀ (n : Nat) (x y : BitVec n) (b : Long) (wrap : Bool), n = 8 ∨ n = 16 ∨ n = 32 ∨ n = 64 →
    let k := if wrap then b.toNat % n else b.toNat % 2 ^ 32
    BitVec.ofNat n (shlNat n x.toNat (shiftCount wrap n b)) = x <<< k ∧
    BitVec.ofNat n (shrNat n x.toNat (shiftCount wrap n b)) = x >>> k ∧
    BitVec.ofInt n (intOf n true x.toNat / 2 ^ Nat.min n (shiftCount wrap n b)) = x.sshiftRight k ∧
    BitVec.ofNat n (fshf false n x.toNat y.toNat (Nat.min n (shiftCount wrap n b))) =
      ((x ++ y) <<< Nat.min n k).extractLsb' n n ∧
    BitVec.ofNat n (fshf true n x.toNat y.toNat (Nat.min n (shiftCount wrap n b))) =
      ((x ++ y) >>> Nat.min n k).extractLsb' 0 n)

/-! ### Control -/

namespace Sys2Proof.Machine

/-- The destination of each lane that acts, and the other effect, of 15 R359. -/
def transferRule (i : Instr) (g : Group) (p : Path) (act : Lanes) : Option ((Nat → Long) × (Group → Group)) :=
  let next := nextPc p.pc p.tail
  match i with
  | .bra _ t => some (fun _ => targetPc p.pc t, id)
  | .bri _ a => some (srcVal g p a 2, id)
  | .ret _ a => some (srcVal g p a 2, id)
  | .brx _ t b c => some (fun l =>
      let k := (srcVal g p b 1 l).toNat % 2 ^ 32
      if k < (srcVal g p c 1 l).toNat % 2 ^ 32 then targetPc p.pc t + BitVec.ofNat 64 (64 * k) else next, id)
  | .call _ d t => some (fun _ => targetPc p.pc t, fun h => writeDst h d 2 act fun _ => next)
  | .calli _ d a => some (srcVal g p a 2, fun h => writeDst h d 2 act fun _ => next)
  | .loop _ d t =>
    let old (l : Nat) : Long := if d.file = .scalar then sGet g d.reg.toNat else (vGet g d.reg.toNat l).setWidth 64
    let n (l : Nat) : Nat := ((old l).toNat + 2 ^ 32 - 1) % 2 ^ 32
    some (fun l => if n l = 0 then next else targetPc p.pc t, fun h => writeDst h d 1 act fun l => BitVec.ofNat 64 (n l))
  | _ => none

/-- The group has one path and no open family (15 R355). -/
def single (g : Group) : Prop := g.paths.length = 1 ∧ ∀ f ∈ g.families, f.lanes &&& g.live = 0

end Sys2Proof.Machine

/-- The lanes that act go to their destinations and the others to the next PC, when no destination is malformed. A
malformed destination raises the bad-target trap at the transferring instruction for the lanes it concerns, before
anything is written. -/
def Obligations.Transfers : Prop :=
  (∀ (i : Instr) (s : State) (g : Group) (p : Path) (d : Nat → Long) (f : Group → Group),
      transferRule i g p (actLanes g p i) = some (d, f) → Issues i s g p →
      (∀ l, (actLanes g p i).getLsbD l → badPc (d l) = false) →
      exec i s = .next (replaces i s g p fun h =>
        transfer (f h) (agePath p) fun l => if (actLanes g p i).getLsbD l then d l else nextPc p.pc p.tail)) ∧
  (∀ (i : Instr) (s : State) (g : Group) (p : Path) (d : Nat → Long) (f : Group → Group),
      transferRule i g p (actLanes g p i) = some (d, f) → Issues i s g p →
      (∃ l, (actLanes g p i).getLsbD l ∧ badPc (d l)) →
      exec i s = .next (raises i s p
        (trapAt p 2 0 (laneMask fun l => (actLanes g p i).getLsbD l && badPc (d l))) (atIssue i s g p)))

/-- A divergence gives each lane of the path to exactly one new path, at the lane's own destination; the new paths
stand in the order of their lowest lanes. -/
def Obligations.DivergenceParts : Prop :=
  ∀ (d : Nat → Long) (m : Lanes),
    let parts := gatherDests d (laneList m)
    (∀ l, m.getLsbD l → ∃ e ∈ parts, e.2.getLsbD l) ∧
    (∀ e ∈ parts, ∀ l, e.2.getLsbD l → m.getLsbD l ∧ d l = e.1) ∧
    (parts.map (·.1)).Nodup ∧
    parts.Pairwise fun a b => firstLane a.2 < firstLane b.2

/-- JOIN parks its whole path at its target, or divides it; WSYNC parks at the next PC, or, when the group is one path
with no open family, leaves its latches invalid and goes on; EXIT takes the lanes that act out of the group; YIELD
ranks its split last, and gives a queued path of its list its turn; NOP does nothing. -/
def Obligations.PathControl : Prop :=
  (∀ gd s g p, Issues (.nop gd) s g p → exec (.nop gd) s = .next (goesOn (.nop gd) s g p (atIssue (.nop gd) s g p))) ∧
  (∀ gd t s g p, let i : Instr := .join gd t
    Issues i s g p → exec i s = .next (replaces i s g p fun h =>
      if actLanes g p i = p.lanes then park h p.lanes (targetPc p.pc t) (.join (targetPc p.pc t))
      else joinSome h (agePath p) (actLanes g p i) (targetPc p.pc t) (nextPc p.pc p.tail))) ∧
  (∀ gd s g p, let i : Instr := .wsync gd
    Reaches i s g p → ¬ (gd.pred.neg = true ∧ gd.pred.idx = 7) →
    (single g → exec i s = .next (changes i s g p fun h => updPath h p.lanes fun q => { q with latches := [] })) ∧
    (¬ single g → exec i s = .next (replaces i s g p fun h => park h p.lanes (nextPc p.pc p.tail) .wsync))) ∧
  (∀ gd s g p, let i : Instr := .exit gd
    let m := actLanes g p i
    Issues i s g p → exec i s = .next (placed s p (settleBarriers
      (updGroup (atIssue i s g p) s.gid fun h => updPath (exitLanes h m) (p.lanes &&& ~~~m) fun q =>
        { q with pc := nextPc p.pc p.tail, enter := true, checked := false }) s.gid g))) ∧
  (∀ gd s g p, let i : Instr := .yield gd
    let on : Path := { agePath p with pc := nextPc p.pc p.tail, enter := true, checked := false }
    let last (l : List Split) : List Split := l.map fun x => if x.num = p.split then { x with yielded := true } else x
    Issues i s g p → exec i s = .next (replaces i s g p fun h =>
      let rest := h.paths.filter fun q => q.lanes != p.lanes
      if rest.any fun q => q.split = p.split && q.status = .queued then
        { h with paths := rest ++ [{ on with status := .queued }], splits := last h.splits }
      else { updPath h p.lanes (fun _ => on) with splits := last h.splits }))

/-- A transfer of a path whose lanes all go to one PC moves that path there, and nothing else of the group. A
divergence records the old path's lanes and its `fmt` copy as a family (15 R352). Lanes that exit have left the group
and every path; the other lanes have not. -/
def Obligations.PathMoves : Prop :=
  (∀ (g : Group) (p : Path) (pc : Long), p.lanes ≠ 0 →
      transfer g p (fun _ => pc) = updPath g p.lanes fun _ =>
        { p with pc := pc, enter := true, checked := pc != nextPc p.pc p.tail, replay := none, await := none }) ∧
  (∀ (g : Group) (p : Path) (d : Nat → Long),
      (∃ l k, p.lanes.getLsbD l ∧ p.lanes.getLsbD k ∧ d l ≠ d k) →
      (transfer g p d).families = g.families ++ [⟨p.lanes, p.fmt⟩] ∧ (transfer g p d).live = g.live ∧
        (transfer g p d).v = g.v ∧ (transfer g p d).s = g.s ∧ (transfer g p d).preds = g.preds) ∧
  (∀ (g : Group) (m : Lanes),
      (exitLanes g m).live = g.live &&& ~~~m ∧
      (∀ q ∈ (exitLanes g m).paths, q.lanes &&& m = 0 ∧ q.lanes ≠ 0) ∧
      (∀ q ∈ g.paths, q.lanes &&& ~~~m ≠ 0 → ∃ r ∈ (exitLanes g m).paths, r = { q with lanes := q.lanes &&& ~~~m }) ∧
      exitLanes g m = { g with live := (exitLanes g m).live, paths := (exitLanes g m).paths })

/-- Lanes arrive at a barrier, but for those whose last arrival is in the phase that is open: these arrive when it is
over. BAR goes on when the phases of all its lanes are over, and else waits; BARA waits only for lanes that arrive
again; BARW goes on unless a lane's last arrival was in the phase that is open. A barrier instruction that 15 R364
forbids raises the barrier-class trap with its cause before any lane arrives. -/
def Obligations.BarrierResults : Prop :=
  ((∀ gd die id n s g p, let i : Instr := .bar gd die id n
      let u := atIssue i s g p
      let c := insOf i s g p
      let phase (t : State) : Nat := (getBarrier t g die id.toNat).phase
      let again := arrivedNow (getBarrier u g die id.toNat) s.gid c.act
      let v := barrierArrive c u die id.toNat n.toNat (c.act &&& ~~~again)
      let w := barrierArrive c v die id.toNat n.toNat again
      let parked (t : State) (k : Nat) (m r : Lanes) : State := waits i s g p (updGroup t s.gid fun h =>
        updPath h p.lanes fun q => { q with await := some (.bar k m r) })
      Issues i s g p → barrierCause u c die n.toNat (getBarrier u g die id.toNat) true = none →
      releaseHeld u g (barScope die) = false →
      (phase u < phase v → again = 0 → exec i s = .next (goesOn i s g p (barrierAcquire v c die id.toNat))) ∧
      (phase v ≤ phase u → exec i s = .next (parked v (phase u) (c.act &&& ~~~again) again)) ∧
      (phase u < phase v → again ≠ 0 → phase w ≤ phase v → exec i s = .next (parked w (phase v) again 0))) ∧
    (∀ gd die id n s g p, let i : Instr := .bara gd die id n
      let u := atIssue i s g p
      let c := insOf i s g p
      Issues i s g p → barrierCause u c die n.toNat (getBarrier u g die id.toNat) true = none →
      releaseHeld u g (barScope die) = false → arrivedNow (getBarrier u g die id.toNat) s.gid c.act = 0 →
      exec i s = .next (goesOn i s g p (barrierArrive c u die id.toNat n.toNat (c.act &&& ~~~0#32)))) ∧
    (∀ gd die id s g p, let i : Instr := .barw gd die id
      let u := atIssue i s g p
      let c := insOf i s g p
      Issues i s g p → barrierCause u c die 0 (getBarrier u g die id.toNat) false = none →
      (∀ l ∈ laneList c.act, tblFind (getBarrier u g die id.toNat).last (32 * s.gid + l) ≠
        some (getBarrier u g die id.toNat).phase) →
      exec i s = .next (goesOn i s g p (barrierAcquire u c die id.toNat)))) ∧
  (∀ (gd : Guard) (die : Bool) (id : BitVec 4) (n : BitVec 10) (s : State) (g : Group) (p : Path) (e : Nat) (i : Instr),
      (i = .bar gd die id n ∧ barrierCause (atIssue i s g p) (insOf i s g p) die n.toNat
          (getBarrier (atIssue i s g p) g die id.toNat) true = some e ∨
        i = .bara gd die id n ∧ barrierCause (atIssue i s g p) (insOf i s g p) die n.toNat
          (getBarrier (atIssue i s g p) g die id.toNat) true = some e ∨
        i = .barw gd die id ∧ barrierCause (atIssue i s g p) (insOf i s g p) die 0
          (getBarrier (atIssue i s g p) g die id.toNat) false = some e) →
      Issues i s g p →
      exec i s = .next (raises i s p (trapAt p 0x0E e (actLanes g p i)) (atIssue i s g p)))

/-! ### Inns and child grids -/

/-- SPAWN and SPAWNW release at die scope and deposit a lodger for each lane that acts; INNSET gives an inn its
curfew; CURFEW sends off the partial coaches of the inns it names. LAUNCH reads its descriptor, releases, writes it
into the ring's free entry, advances QTAIL and waits for the ticket, which then goes into its destination; LWAIT ends
when the child it names is final. -/
def Obligations.LaunchResults : Prop :=
  ((∀ gd k d a t s g p, let i : Instr := .spawn gd k d a t
      let u := atIssue i s g p
      let c := insOf i s g p
      let r := depositLanes c (targetPc p.pc t)
        (fun l => (List.range (k.toNat + 1)).map fun j => vGet g (a.reg.toNat + j) l) (laneList c.act) (release u g .die)
      Issues i s g p → isDet u g = false → releaseHeld u g .die = false →
      exec i s = .next (goesOn i s g p (produce r.1 s.gid (dstKeys d 1 1)
        (regWrites d 1 c.act fun l => BitVec.ofNat 64 (tblGet 0 r.2 l)) []))) ∧
    (∀ gd k d a t s g p, let i : Instr := .spawnw gd k d a t
      let u := atIssue i s g p
      let c := insOf i s g p
      let off (l : Nat) : Nat := if a.file = .lane then (vGet g a.reg.toNat l).toNat else (srcVal g p a 1 l).toNat
      let r := depositLanes c (targetPc p.pc t)
        (fun l => (List.range (k.toNat + 1)).map fun j =>
          BitVec.ofNat 32 (natOfBytes (scratchRead u g.block false (off l + 4 * j) 4))) (laneList c.act) (release u g .die)
      Issues i s g p → isDet u g = false → releaseHeld u g .die = false →
      (∀ l ∈ laneList c.act, off l % 4 = 0 ∧ off l + 4 * (k.toNat + 1) ≤ scratchSize u g.block false ∧
        scratchPoison u g.block false (off l) (4 * (k.toNat + 1)) = false) →
      exec i s = .next (goesOn i s g p (produce r.1 s.gid (dstKeys d 1 1)
        (regWrites d 1 c.act fun l => BitVec.ofNat 64 (tblGet 0 r.2 l)) []))) ∧
    (∀ gd d a b s g p gr k x, let i : Instr := .innset gd d a b
      let u := atIssue i s g p
      let c := insOf i s g p
      let entry := srcVal g p a 2 0
      let v := if (findInn u g.grid (dieOf c) entry).isNone && innFree u gr.ctx (dieOf c) then
        takeInn u g.grid (dieOf c) entry else u
      Issues i s g p → gridOf u g = some gr → inCode gr entry = true → findInn v g.grid (dieOf c) entry = some (k, x) →
      exec i s = .next (goesOn i s g p (updGroup
        { v with inns := tblPut v.inns k { x with curfew := Nat.min ((srcVal g p b 2 0).toNat % 2 ^ 32) 0xFFFFFF } }
        s.gid fun h => writeDst h d 1 c.act fun _ => 0))) ∧
    (∀ gd a s g p, let i : Instr := .curfew gd a
      let u := atIssue i s g p
      Issues i s g p → exec i s = .next (goesOn i s g p
        ((u.inns.filter fun e => e.2.grid = g.grid && e.2.die = dieOf (insOf i s g p) && e.2.lodgers != [] &&
          match a with
          | none => true
          | some x => e.2.entry = srcVal g p x 2 0).foldl (fun v e => departPartial v e.1) u)))) ∧
  ((∀ gd d a b s g p u1 desc w, let i : Instr := .launch gd d a b
      let u := atIssue i s g p
      let c := insOf i s g p
      let q := (srcVal g p b 2 0).toNat
      let t : State := { drainGroup u g with arrived := [] }
      let v : State := { u1 with arrived := [], ios := tblDel u1.ios t.fresh }
      let x := queueOf v q
      Issues i s g p → g.idx = 0 → c.act.getLsbD 0 = true → ((gridOf u g).map (·.depth)).getD 0 < 10 →
      q < 4096 → queueHolder u q = ctxOf u g → canPush u (ctxOf u g) q = true →
      drainHeld u (ownStore u g) = false → vmRead t (whoOf t g) (srcVal g p a 2 0) 64 .load = .ok (u1, desc) →
      canPush v (ctxOf v g) q = true → (x.tail - x.head).toNat < 2 ^ x.log2 → releaseHeld v g .pkg = false →
      sourcesOpen v (ctxOf v g) = true →
      vmWrite (release v g .pkg) (whoOf v g) (x.base + BitVec.ofNat 64 (64 * (x.tail.toNat % 2 ^ x.log2))) desc .store =
        .ok w →
      exec i s = .next (waits i s g p (updGroup (updQueue w q fun y => { y with
          tail := y.tail + 1, times := y.times.join (knowOf w s.gid), pushed := y.pushed ++ [(y.tail.toNat, g.grid, g.block)] })
        s.gid fun h => setEmpty (updPath h p.lanes fun r => { r with await := some (.ticket q x.tail.toNat) })
          [regKey d.file d.reg.toNat] true))) ∧
    (∀ gd d a b s g p x, let i : Instr := .launch gd d a b
      issuing s = some (g, p) → p.await = some (.answer x) → actLanes g p i ≠ 0 →
      exec i s = .next (changes i s g p fun h =>
        setEmpty (sSet h d.reg.toNat x) [regKey d.file d.reg.toNat] false)) ∧
    (∀ gd d x s g p k, let i : Instr := .lwait gd d (some x)
      let u := atIssue i s g p
      let t := srcVal g p x 2 0
      Issues i s g p → t.getLsbD 63 = false →
      ((u.grids.filter fun e => e.2.parent = g.grid).map (·.2)).find? (fun r => r.seq % 2 ^ 32 = t.toNat % 2 ^ 32) = some k →
      gridFinal k.state = true →
      exec i s = .next (goesOn i s g p (updGroup (learnAll u s.gid k.ends) s.gid fun h =>
        writeDst h d 1 (actLanes g p i) fun _ => gridReport k))))

/-! ### Memory -/

namespace Sys2Proof.Machine

/-- A load instruction: its space, type, attributes, destination and address. -/
def loadOf : Instr → Option (Space × Fmt × MAttr × Dst × MemOpd)
  | .ld _ t a d m => some (.vm, t, a, d, m)
  | .lds _ t a d m => some (.bs, t, a, d, m)
  | .ldd _ t a d m => some (.ds, t, a, d, m)
  | .ldk _ t a d m => some (.k, t, a, d, m)
  | _ => none

/-- A store instruction. -/
def storeOf : Instr → Option (Space × MAttr × Dst × MemOpd)
  | .st _ _ a d m => some (.vm, a, d, m)
  | .sts _ _ a d m => some (.bs, a, d, m)
  | .std _ _ a d m => some (.ds, a, d, m)
  | .stk _ _ a d m => some (.k, a, d, m)
  | _ => none

/-- An atomic: its space, attributes, destination, address, the registers it leaves empty, and what a lane makes of
the old value (07 R171-R176), nothing for CAS that does not match; an AtomicOp of the bus for ATOM `.add` and `.exch`
and CAS (07 R163). -/
def atomicOf (i : Instr) (g : Group) : Option (Space × MAttr × Dst × MemOpd × List Nat × Rmw) :=
  let v (a : MAttr) (d : Dst) (l : Nat) : Nat := natOfBytes (storeData g d a.size.bytes l)
  let int (sp : Space) (r : Reach) (op : AtomOp) (t : Fmt) (a : MAttr) (d : Dst) (m : MemOpd) :=
    some (sp, a, d, m, dstKeys d a.size.regs 1, (⟨r, fun l old => some (atomNew op t (8 * a.size.bytes) old (v a d l)), fun l =>
      if r = .own ∧ op = .add then some ⟨0, v a d l, 0⟩
      else if r = .own ∧ op = .exch then some ⟨1, v a d l, 0⟩
      else none⟩ : Rmw))
  let flt (sp : Space) (op : AtomFOp) (t : Fmt) (a : MAttr) (d : Dst) (m : MemOpd) :=
    some (sp, a, d, m, dstKeys d 1 1,
      (⟨.own, fun l old => some (atomFNew op t old (natOfBytes (storeData g d 4 l))), fun _ => none⟩ : Rmw))
  let cas (sp : Space) (a : MAttr) (d : Dst) (m : MemOpd) :=
    let v := casOperands g d a.size.bytes
    some (sp, a, d, m, dstKeys d (2 * a.size.regs) 2,
      (⟨.own, fun l old => if old = (v l).1 then some (v l).2 else none, fun l => some ⟨2, (v l).1, (v l).2⟩⟩ : Rmw))
  match i with
  | .atom _ op t a d m => int .vm .own op t a d m
  | .atoms _ op t a d m => int .bs .own op t a d m
  | .prom _ op t a d m => int .vm .prom op t a d m
  | .atomf _ op t a d m => flt .vm op t a d m
  | .atomfs _ op t a d m => flt .bs op t a d m
  | .cas _ _ a d m => cas .vm a d m
  | .cass _ _ a d m => cas .bs a d m
  | .amaxr _ _ a d m => some (.vm, a, d, m, dstKeys d 1 1, ⟨.reset, fun _ _ => some 0, fun _ => none⟩)
  | _ => none

/-- The type in which an atomic's old value fills a scalar register (03 R61); CAS's TYPE selects only the width (07
R175). -/
def oldType : Instr → Fmt
  | .atom _ _ t _ _ _ | .atoms _ _ t _ _ _ | .prom _ _ t _ _ _ | .atomf _ _ t _ _ _ | .atomfs _ _ t _ _ _ => t
  | _ => .bits

/-- The lanes of a list, as a mask. -/
def maskOf (ls : List Nat) : Lanes := laneMask fun l => ls.contains l

/-- A lane's address is in its scratchpad, aligned if the access is ordered, and its words hold no poison. -/
def scratchOk (s : State) (g : Group) (die : Bool) (at_ : MAttr) (ordered : Bool) (a : Long) : Prop :=
  a.toNat + at_.size.bytes ≤ scratchSize s g.block die ∧ (ordered = true → a.toNat % at_.size.bytes = 0) ∧
    scratchPoison s g.block die a.toNat at_.size.bytes = false

/-- The registers that a read's values fill, each lane's as its type says (07 R164, R172). -/
def laneWrites (d : Dst) (n : Nat) (vals : Tbl Nat) (f : Nat → Nat) : List RegWrite :=
  let lanes := vals.foldl (fun t e => t ||| laneBit e.1) 0
  if lanes = 0 then [] else wordWrites d n lanes fun l => f (tblGet 0 vals l)

/-- The lanes whose access failed. -/
def failedLanes (errs : List (Nat × LaneErr)) (l : Nat) : Bool := errs.any fun e => e.1 = l

/-- The machine in which an ATOMF may add: the launch is not DET. -/
def mayAdd (i : Instr) (s : State) (g : Group) : Prop :=
  ∀ gd t a d m, (i = .atomf gd .add t a d m ∨ i = .atomfs gd .add t a d m) →
    ((gridOf s g).map (·.hdr.det)).getD false = false

end Sys2Proof.Machine

/-- A load from block or die scratchpad reads the bytes at each lane's address, lowest byte first, takes up or keeps the
releases that they carry, and leaves a producer that writes them. A store to block or die scratchpad writes each lane's
bytes at its address, in lane order, with the releases that they carry, after the release that its order asks for. -/
def Obligations.ScratchResults : Prop :=
  (∀ (i : Instr) (sp : Space) (t : Fmt) (at_ : MAttr) (d : Dst) (mo : MemOpd) (die : Bool) (s : State) (g : Group) (p : Path),
      loadOf i = some (sp, t, at_, d, mo) → sp = (if die then .ds else .bs) → Issues i s g p →
      let u := atIssue i s g p
      let act := actLanes g p i
      let ls := memLanes d act
      let x := accessOf (insOf i s g p) u sp .load at_
      (∀ l ∈ ls, scratchOk u g die at_ (at_.ord != .plain) (memAddr g p mo l)) →
      exec i s = .next (goesOn i s g p (produce (ls.foldl (fun v l =>
          readBare v x (scratchSpace v g.block die) (memAddr g p mo l).toNat at_.size.bytes) u) s.gid
        (dstKeys d at_.size.regs 1)
        (wordWrites d at_.size.regs (maskOf ls) fun l => if ls.contains l then
          extendLoad t at_.size.bytes (natOfBytes (scratchRead u g.block die (memAddr g p mo l).toNat at_.size.bytes)) else 0) []))) ∧
  (∀ (i : Instr) (sp : Space) (at_ : MAttr) (d : Dst) (mo : MemOpd) (die : Bool) (s : State) (g : Group) (p : Path),
      storeOf i = some (sp, at_, d, mo) → sp = (if die then .ds else .bs) → Issues i s g p →
      let u := if releases at_.ord then release (atIssue i s g p) g at_.scope else atIssue i s g p
      let ls := memLanes d (actLanes g p i)
      let x := accessOf (insOf i s g p) (atIssue i s g p) sp .store at_
      storeWaits (atIssue i s g p) x ls (memAddr g p mo) = false →
      (∀ l ∈ ls, (memAddr g p mo l).toNat + at_.size.bytes ≤ scratchSize u g.block die ∧
        (at_.ord ≠ .plain → (memAddr g p mo l).toNat % at_.size.bytes = 0)) →
      exec i s = .next (goesOn i s g p (ls.foldl (fun v l =>
        wroteBare (scratchWrite v g.block die (memAddr g p mo l).toNat (storeData g d at_.size.bytes l)) x
          (scratchSpace v g.block die) (memAddr g p mo l).toNat at_.size.bytes false) u)))

/-- A scratchpad reads back what was written to it; its other bytes stay, and so do the block's other scratchpad, every
other block's scratchpad, every other die slice, and memory. -/
def Obligations.ScratchBytes : Prop :=
  ∀ (s : State) (b : Nat) (die : Bool) (off : Nat) (bs : List Byte) (k : Block), tblFind s.blocks b = some k →
    (die = true → (sliceOf s k.grid k.die).isSome) →
    scratchRead (scratchWrite s b die off bs) b die off bs.length = bs ∧
    (∀ o n, o + n ≤ off ∨ off + bs.length ≤ o →
      scratchRead (scratchWrite s b die off bs) b die o n = scratchRead s b die o n) ∧
    (∀ o n, scratchRead (scratchWrite s b die off bs) b (!die) o n = scratchRead s b (!die) o n) ∧
    (∀ c o n, c ≠ b → scratchRead (scratchWrite s b die off bs) c false o n = scratchRead s c false o n) ∧
    (∀ c x o n, tblFind s.blocks c = some x → die = false ∨ x.grid ≠ k.grid ∨ x.die ≠ k.die →
      scratchRead (scratchWrite s b die off bs) c true o n = scratchRead s c true o n) ∧
    (∀ x, byteAt (scratchWrite s b die off bs) x = byteAt s x)

/-- Machine memory reads back what was written, the other bytes stay, and the canonical form is kept. Bytes written
into a line are read from it, and its other bytes stay. -/
def Obligations.MemoryBytes : Prop :=
  (∀ (m : Tbl Byte) (a : Nat) (bs : List Byte),
      memBytes (memWrite m a bs) a bs.length = bs ∧
      (∀ x, x < a ∨ a + bs.length ≤ x → memByte (memWrite m a bs) x = memByte m x) ∧
      (Memory.wf m → Memory.wf (memWrite m a bs)) ∧
      (∀ d, memLine (memSetLine m a d) a = d)) ∧
  (∀ (d : Line) (off : Nat) (bs : List Byte), off + bs.length ≤ 128 →
      lineBytes (lineSet d off bs) off bs.length = bs ∧
      ∀ o n, o + n ≤ off ∨ (off + bs.length ≤ o ∧ o + n ≤ 128) → lineBytes (lineSet d off bs) o n = lineBytes d o n)

/-- A store that has entered the core's queue is what the core's later loads of the line see, over any data the line
has. A load of a line that the core's L1 holds valid, with a permission for it, reads the line's bytes; a lane reads
them into its value. -/
def Obligations.OwnStoresRead : Prop :=
  (∀ (s : State) (x : Access) (id : Nat) (lane va : Long) (bs : List Byte) (carry : List Rel) (d : Line),
     let core := coreOfQuad x.c.g.quad
     let asid := asidOf x.w.ctx va
     let line (t : State) : Line := overlay t core x.w.ctx asid (lineOf va.toNat) d
     va.toNat % 128 + bs.length ≤ 128 →
     (s.sq.filter fun e => e.core = core).length < 32 →
     lineBytes (line (pushStore s x id lane va bs carry)) (va.toNat % 128) bs.length = bs ∧
     (∀ o n, o + n ≤ va.toNat % 128 ∨ (va.toNat % 128 + bs.length ≤ o ∧ o + n ≤ 128) →
       lineBytes (line (pushStore s x id lane va bs carry)) o n = lineBytes (line s) o n) ∧
     (pushStore s x id lane va bs carry).mem = s.mem) ∧
  (∀ (x : Access) (addr : Nat → Long) (m : Prog) (l : Nat) (c : L1Line),
     let a := addr l
     let core := coreOfQuad x.c.g.quad
     x.sp = .vm → x.ord = .plain → x.c.p.full = false → addressFault m.s x.w a x.acc = none → canonical a = true →
     piecesOf a x.size = [(a, x.size)] →
     l1Find m.s core x.w.ctx (asidOf x.w.ctx a) (lineOf a.toNat) = some c → l1Valid m.s c = true →
     permOk c.perm x.acc x.w.handler = true → touchesPoison c.poison (a.toNat % 128) x.size = false →
     (loadLane x addr m l).errs = m.errs ∧ (loadLane x addr m l).wants = m.wants ∧
     tblFind (loadLane x addr m l).vals l = some (natOfBytes (lineBytes c.data (a.toNat % 128) x.size)) ∧
     (∀ k, k ≠ l → tblFind (loadLane x addr m l).vals k = tblFind m.vals k) ∧
     (loadLane x addr m l).s.mem = m.s.mem ∧ (loadLane x addr m l).s.sq = m.s.sq)

/-- A load of which no lane meets an error, or has to ask the host, goes on with a producer of what its lanes read. A
store of which no lane meets an error goes on in the machine its lanes have led to, lowest lane first. Neither does so
while a slice that is being recovered holds its requests (05 R132). -/
def Obligations.AccessResults : Prop :=
  (∀ (i : Instr) (sp : Space) (t : Fmt) (at_ : MAttr) (d : Dst) (mo : MemOpd) (s : State) (g : Group) (p : Path) (m : Prog),
      loadOf i = some (sp, t, at_, d, mo) → Issues i s g p →
      let u := atIssue i s g p
      let x := accessOf (insOf i s g p) u sp .load at_
      linesHeld u x false (memLanes d (actLanes g p i)) (memAddr g p mo) = false →
      (memLanes d (actLanes g p i)).foldl (loadLane x (memAddr g p mo)) (newProg u) = m → m.errs = [] → m.wants = 0 →
      exec i s = .next (goesOn i s g p (produce (readDev x m) s.gid (dstKeys d at_.size.regs 1)
        (laneWrites d at_.size.regs m.vals (extendLoad t at_.size.bytes)) []))) ∧
  (∀ (i : Instr) (sp : Space) (at_ : MAttr) (d : Dst) (mo : MemOpd) (s : State) (g : Group) (p : Path) (m : Prog),
      storeOf i = some (sp, at_, d, mo) → Issues i s g p →
      let u := atIssue i s g p
      let x := accessOf (insOf i s g p) u sp .store at_
      storeWaits u x (memLanes d (actLanes g p i)) (memAddr g p mo) = false →
      (memLanes d (actLanes g p i)).foldl (storeLane x d (memAddr g p mo))
        (newProg (if releases at_.ord then release u g at_.scope else u)) = m → m.errs = [] →
      exec i s = .next (goesOn i s g p m.s))

/-- An atomic of which no lane meets an error, or has to ask the host, goes on with a producer of the old values its
lanes read, lowest lane first. -/
def Obligations.AtomicResults : Prop :=
  ∀ (i : Instr) (sp : Space) (at_ : MAttr) (d : Dst) (mo : MemOpd) (marks : List Nat) (r : Rmw) (s : State) (g : Group)
    (p : Path) (m : Prog),
    atomicOf i g = some (sp, at_, d, mo, marks, r) → Issues i s g p → mayAdd i (atIssue i s g p) g →
    let u := atIssue i s g p
    let x := accessOf (insOf i s g p) u sp .atomic at_
    rmwHeld u x r (memLanes d (actLanes g p i)) (memAddr g p mo) = false →
    (memLanes d (actLanes g p i)).foldl (rmwLane x r (memAddr g p mo))
      (newProg (if releases at_.ord then release u g at_.scope else u)) = m → m.errs = [] → m.wants = 0 →
    exec i s = .next (goesOn i s g p (produce (readDev x m) s.gid marks
      (laneWrites d at_.size.regs m.vals (extendOld (oldType i))) []))

/-- The operation and the width that an atomic's word selects (07 R171): MOD gives the operation in the order add,
and, or, xor, min, max, exch, inc, and SIZE 32 or 64 bits. The new values, at 32 and 64 bits, as two's complement
words: the sum, the bit operations, the smaller and the larger, signed for INT32 and INT64 and unsigned for the other
types, the exchange, and `.inc`, which wraps at its operand. A word of `.inc` whose type is INT32 or INT64 is refused
with the illegal-type trap's class. An atomic in block scratchpad reads the old value and writes the new one, or
nothing. -/
def Obligations.AtomicValues : Prop :=
  ((∀ (w : InsWord) (i : Instr), decode w = .ok i → w.toNat % 256 = 0x8C ∨ w.toNat % 256 = 0x8D ∨ w.toNat % 256 = 0x92 →
      ∃ gd op t at_ d m,
        i = (if w.toNat % 256 = 0x8C then .atom gd op t at_ d m else if w.toNat % 256 = 0x8D then .atoms gd op t at_ d m
          else .prom gd op t at_ d m) ∧
        [AtomOp.add, .and, .or, .xor, .min, .max, .exch, .inc][(w.extractLsb' 12 3).toNat]? = some op ∧
        ((w.extractLsb' 49 3 = 2 ∧ 8 * at_.size.bytes = 32) ∨ (w.extractLsb' 49 3 = 3 ∧ 8 * at_.size.bytes = 64))) ∧
    (∀ (n : Nat) (t : Fmt) (x y : BitVec n), n = 32 ∨ n = 64 →
      let sg := t = .i32 ∨ t = .i64
      BitVec.ofNat n (atomNew .add t n x.toNat y.toNat) = x + y ∧
      BitVec.ofNat n (atomNew .and t n x.toNat y.toNat) = x &&& y ∧
      BitVec.ofNat n (atomNew .or t n x.toNat y.toNat) = x ||| y ∧
      BitVec.ofNat n (atomNew .xor t n x.toNat y.toNat) = x ^^^ y ∧
      (sg → BitVec.ofNat n (atomNew .min t n x.toNat y.toNat) = if y.slt x then y else x) ∧
      (sg → BitVec.ofNat n (atomNew .max t n x.toNat y.toNat) = if x.slt y then y else x) ∧
      (¬ sg → BitVec.ofNat n (atomNew .min t n x.toNat y.toNat) = if y.ult x then y else x) ∧
      (¬ sg → BitVec.ofNat n (atomNew .max t n x.toNat y.toNat) = if x.ult y then y else x) ∧
      BitVec.ofNat n (atomNew .exch t n x.toNat y.toNat) = y ∧
      BitVec.ofNat n (atomNew .inc t n x.toNat y.toNat) = if y.toNat ≤ x.toNat then 0 else x + 1) ∧
    (∀ gd t a d m w, t = .i32 ∨ t = .i64 →
      (∀ i : Instr, i = .atom gd .add t a d m ∨ i = .atoms gd .add t a d m ∨ i = .prom gd .add t a d m → i.wf = true →
        encode i = some w → decode (w ||| 0x7000) = .error .type))) ∧
  (∀ (x : Access) (r : Rmw) (addr : Nat → Long) (m : Prog) (l : Nat),
      let a := addr l
      let b := x.c.g.block
      let old := natOfBytes (scratchRead m.s b false a.toNat x.size)
      let sp := scratchSpace m.s b false
      let t := readBare m.s x sp a.toNat x.size
      x.sp = .bs → a.toNat + x.size ≤ scratchSize m.s b false → a.toNat % x.size = 0 →
      scratchPoison m.s b false a.toNat x.size = false →
      (rmwLane x r addr m l).s = (match r.new l old with
        | some y => wroteBare (scratchWrite t b false a.toNat (bytesOfNat x.size y)) x sp a.toNat x.size true
        | none => t) ∧
      tblFind (rmwLane x r addr m l).vals l = some (natOfBytes (bytesOfNat x.size old)) ∧
      (rmwLane x r addr m l).errs = m.errs ∧ (rmwLane x r addr m l).wants = m.wants)

/-- The checks of a lane's address: outside its scratchpad or its spill stack, cause 2; misaligned in an ordered access,
cause 1, whatever else its address is (that the misalignment of an address that is not canonical goes first is the
model's choice, log entry 85); not canonical, the fault of class 0x05. A lane that fails one is recorded as failed, and
nothing is read or written for it. An instruction of which some lane has failed takes the trap of its lanes' errors,
after what its other lanes have done; a load or an atomic has then written the registers of those lanes, and all its
registers are full. -/
def Obligations.AddressTraps : Prop :=
  (∀ (s : State) (x : Access) (a : Long) (ordered : Bool),
    let within (size : Nat) : Option LaneErr :=
      if size < a.toNat + x.size then some (.access 2 a (accCode x.acc))
      else if ordered = true ∧ a.toNat % x.size ≠ 0 then some (.access 1 a (accCode x.acc))
      else none
    (x.sp = .bs → addrErr s x a ordered = within (scratchSize s x.c.g.block false)) ∧
    (x.sp = .ds → addrErr s x a ordered = within (scratchSize s x.c.g.block true)) ∧
    (x.sp = .k → addrErr s x a ordered = within x.c.g.ksize) ∧
    (x.sp = .vm → addrErr s x a ordered =
      if ordered = true ∧ a.toNat % x.size ≠ 0 then some (.access 1 a (accCode x.acc))
      else if canonical a then none else some (.fault ⟨0x05, a, 0, 0, false, x.acc, asidOf x.w.ctx a⟩))) ∧
  (∀ (x : Access) (addr : Nat → Long) (m : Prog) (l : Nat) (e : LaneErr),
    (addrErr m.s x (addr l) (x.ord != .plain) = some e →
      loadLane x addr m l = { m with errs := m.errs ++ [(l, e)] } ∧
      ∀ d, storeLane x d addr m l = { m with errs := m.errs ++ [(l, e)] }) ∧
    (addrErr m.s x (addr l) true = some e → ∀ r, rmwLane x r addr m l = { m with errs := m.errs ++ [(l, e)] })) ∧
  (∀ (i : Instr) (sp : Space) (t : Fmt) (at_ : MAttr) (d : Dst) (mo : MemOpd) (s : State) (g : Group) (p : Path) (m : Prog),
      loadOf i = some (sp, t, at_, d, mo) → Issues i s g p →
      let u := atIssue i s g p
      let x := accessOf (insOf i s g p) u sp .load at_
      linesHeld u x false (memLanes d (actLanes g p i)) (memAddr g p mo) = false →
      (memLanes d (actLanes g p i)).foldl (loadLane x (memAddr g p mo)) (newProg u) = m → m.errs ≠ [] → m.wants = 0 →
      exec i s = .next (raises i s p (memTrap (insOf i s g p) m.errs) (updGroup (readDev x m) s.gid fun h =>
        setEmpty ((laneWrites d at_.size.regs (m.vals.filter fun e => !failedLanes m.errs e.1)
          (extendLoad t at_.size.bytes)).foldl writeReg h) (dstKeys d at_.size.regs 1) false))) ∧
  (∀ (i : Instr) (sp : Space) (at_ : MAttr) (d : Dst) (mo : MemOpd) (s : State) (g : Group) (p : Path) (m : Prog),
      storeOf i = some (sp, at_, d, mo) → Issues i s g p →
      let u := atIssue i s g p
      let x := accessOf (insOf i s g p) u sp .store at_
      storeWaits u x (memLanes d (actLanes g p i)) (memAddr g p mo) = false →
      (memLanes d (actLanes g p i)).foldl (storeLane x d (memAddr g p mo))
        (newProg (if releases at_.ord then release u g at_.scope else u)) = m → m.errs ≠ [] →
      exec i s = .next (raises i s p (memTrap (insOf i s g p) m.errs) m.s)) ∧
  (∀ (i : Instr) (sp : Space) (at_ : MAttr) (d : Dst) (mo : MemOpd) (marks : List Nat) (r : Rmw) (s : State) (g : Group)
      (p : Path) (m : Prog),
      atomicOf i g = some (sp, at_, d, mo, marks, r) → Issues i s g p → mayAdd i (atIssue i s g p) g →
      let u := atIssue i s g p
      let x := accessOf (insOf i s g p) u sp .atomic at_
      rmwHeld u x r (memLanes d (actLanes g p i)) (memAddr g p mo) = false →
      (memLanes d (actLanes g p i)).foldl (rmwLane x r (memAddr g p mo))
        (newProg (if releases at_.ord then release u g at_.scope else u)) = m → m.errs ≠ [] → m.wants = 0 →
      exec i s = .next (raises i s p (memTrap (insOf i s g p) m.errs) (updGroup (readDev x m) s.gid fun h =>
        setEmpty ((laneWrites d at_.size.regs (m.vals.filter fun e => !failedLanes m.errs e.1)
          (extendOld (oldType i))).foldl writeReg h) marks false)))

/-- FENCE releases and acquires at its scope; FENCEA passes what its group knows to the operations of its class; PREF,
CWB and CINV act on the line of each lane that acts. None goes on while a slice that is being recovered holds a store
that it must perform. A release of a scope wider than the core leaves no queued store of the group's way partition;
one of `.grp` does nothing. -/
def Obligations.FenceResults : Prop :=
  (∀ gd o sc s g p, let i : Instr := .fence gd o sc
    let u := atIssue i s g p
    let v := fenceAt u s.gid g o sc
    Issues i s g p → releaseHeld u g sc = false →
    exec i s = .next (goesOn i s g p (if o = .acqrel ∧ (sc = .die ∨ sc = .pkg ∨ sc = .sys) then
      updGroup v s.gid fun h => { h with
        paths := h.paths.map fun q => if q.split = p.split then { q with full := true } else q } else v))) ∧
  (∀ gd cl s g p, let i : Instr := .fencea gd cl
    let u := atIssue i s g p
    let t := knowOf (drainGroup u g) s.gid
    Issues i s g p → drainHeld u (ownStore u g) = false →
    exec i s = .next (goesOn i s g p (updGroup (drainGroup u g) s.gid fun h =>
      match cl with
      | .porter => { h with fenced := h.fenced.join t }
      | .relay => { h with relayed := h.relayed.join t }
      | .matrix => h))) ∧
  (∀ gd k ca mo s g p, let i : Instr := .pref gd k ca mo
    Issues i s g p → exec i s = .next (goesOn i s g p
      ((laneList (actLanes g p i)).foldl (fun v l => prefLane k (insOf i s g p) v (memAddr g p mo l)) (atIssue i s g p)))) ∧
  (∀ gd ca mo s g p, let i : Instr := .cwb gd ca mo
    let u := atIssue i s g p
    Issues i s g p → drainHeld u (ownStore u g) = false → (∀ l ∈ laneList (actLanes g p i), canonical (memAddr g p mo l) = true) →
    exec i s = .next (goesOn i s g p ((laneList (actLanes g p i)).foldl (fun v l =>
      let asid := asidOf (ctxOf v g) (memAddr g p mo l)
      let lva := lineOf (memAddr g p mo l).toNat
      cleanLine (if v.sq.any fun e => ownStore v g e && e.asid = asid && e.va = lva then drainGroup v g else v)
        asid lva) u))) ∧
  (∀ gd ca sc mo s g p, let i : Instr := .cinv gd ca sc mo
    let u := atIssue i s g p
    Issues i s g p → drainHeld u (ownStore u g) = false →
    (∀ l ∈ laneList (actLanes g p i), canonical (memAddr g p mo l) = true) →
    exec i s = .next (goesOn i s g p ((laneList (actLanes g p i)).foldl (fun v l =>
      cinvLine g sc (ctxOf u g) v (memAddr g p mo l)) (drainGroup u g)))) ∧
  (∀ (s : State) (g : Group) (sc : Scope),
     (wideScope s g sc = true → ∀ e ∈ (release s g sc).sq, ¬ (e.core = coreOfQuad g.quad ∧ e.ctx = ctxOf s g)) ∧
     (wideScope s g .grp = false ∧ release s g .grp = s) ∧
     (sc = .die ∨ sc = .pkg ∨ sc = .sys → wideScope s g sc = true))

/-! ### Porters, arrival counters and the fabric -/

namespace Sys2Proof.Machine

/-- A scalar operand of a porter instruction. -/
def scalarAt (g : Group) (a : Src) (k : Nat) : Nat := (sGet g (a.reg.toNat + k)).toNat

/-- The runs of the copies of 08 R194-R197, with their attributes, destination and endpoints: none of a copy of 4 GiB or
more, or of a gather into registers. -/
def copyOf (i : Instr) (g : Group) (act : Lanes) : Option (PCtl × Dst × Src × Src × List PSeg) :=
  match i with
  | .pcopy _ ctl d a b c =>
    if scalarAt g c 0 < 2 ^ 32 then some (ctl, d, a, b, [⟨scalarAt g a 0, scalarAt g b 0, scalarAt g c 0⟩]) else none
  | .pcopy2 _ ctl d a b c =>
    let w := scalarAt g c 0 % 2 ^ 32
    let rows := scalarAt g c 0 / 2 ^ 32
    if w * rows < 2 ^ 32 then
      some (ctl, d, a, b, if w = 0 then [] else (List.range rows).map fun (k : Nat) =>
        ⟨endAdd (scalarAt g a 0) (intOf 32 true (scalarAt g c 1) * (k : Int)),
          endAdd (scalarAt g b 0) (intOf 32 true (scalarAt g c 1 / 2 ^ 32) * (k : Int)), w⟩)
    else none
  | .pgath _ ctl d a b c =>
    let e := 2 ^ ctl.esz.toNat
    if ctl.dsp = .rg then none
    else some (ctl, d, a, b, (ranked act).map fun x =>
      ⟨endAdd (scalarAt g a 0) (x.2 * e : Nat), endAdd (scalarAt g b 0) ((vGet g c.reg.toNat x.1).toNat * e : Nat), e⟩)
  | .pscat _ ctl d a b c =>
    let e := 2 ^ ctl.esz.toNat
    some (ctl, d, a, b, (ranked act).map fun x =>
      ⟨endAdd (scalarAt g a 0) ((vGet g c.reg.toNat x.1).toNat * e : Nat), endAdd (scalarAt g b 0) (x.2 * e : Nat), e⟩)
  | _ => none

/-- The counter that an operation adds to. -/
def counterOf (ctl : PCtl) : Option (Bool × Nat) := if ctl.cnt then some (ctl.csp, 8 * ctl.cidx.toNat) else none

/-- A new operation of a group (08 R192): queued, with nothing written. -/
def newOp (i : Instr) (s u : State) (g : Group) (p : Path) (slot : Nat) (dsp ssp : PSpace) (segs : List PSeg)
    (cnt : Option (Bool × Nat)) (reg : Option (Nat × Nat × Lanes)) (remote : Option Remote) : PorterOp :=
  ⟨s.gid, g.serial, p.pc, slot, ctxOf u g, dieOf (insOf i s g p), g.block, g.handler, (takeSeqs u (ctxOf u g) 0).1,
    (transfersOf segs).length, dsp, ssp, segs, cnt, reg, remote, 0, [], 0, false, .queued, 0, 0⟩

/-- What an operation knows as it begins: what the group's FENCEA has passed on (06 R151). -/
def opView (u : State) (g : Group) (die id : Nat) : PartView := ⟨opCore id, ctxOf u g, g.fenced.at die, 0, g.fenced⟩

/-- The ticket of an operation (08 R192): its slot and its first sequence number. -/
def ticketOf (slot : Nat) (seq : BitVec 32) : Long := BitVec.ofNat 64 (slot * 2 ^ 32 + seq.toNat)

end Sys2Proof.Machine

/-- A copy of memory takes a free slot and sequence numbers for its transfers, is queued, and gives its ticket; one of
no bytes gives its ticket only; with all 64 slots holding failures that nothing has read, it gives the refused ticket.
A gather into registers marks the register empty until its operation ends, and gives its ticket. A porter instruction
whose endpoint or counter fails its check takes the trap of the check, and issues nothing. -/
def Obligations.CopyIssues : Prop :=
  (∀ (i : Instr) (s : State) (g : Group) (p : Path) (ctl : PCtl) (d : Dst) (a b : Src) (segs : List PSeg),
      copyOf i g (actLanes g p i) = some (ctl, d, a, b, segs) → Issues i s g p →
      let u := atIssue i s g p
      let n := (transfersOf segs).length
      let seq := (takeSeqs u (ctxOf u g) n).1
      let v := (takeSeqs u (ctxOf u g) n).2
      let put (x : Long) (h : Group) : Group := writeDst h d 1 (actLanes g p i) fun _ => x
      segsErr u g ctl.dsp ctl.ssp (scalarAt g a 0) (scalarAt g b 0) segs = none → counterErr u g ctl = none →
      (freeOpSlot u s.gid = none → slotsFailed u s.gid = true →
        exec i s = .next (changes i s g p (put 0x8000000000000001))) ∧
      (∀ slot, freeOpSlot u s.gid = some slot → dispatcherFull u (dieOf (insOf i s g p)) = false →
        (n = 0 → exec i s = .next (goesOn i s g p (updGroup v s.gid (put (ticketOf slot seq))))) ∧
        (n ≠ 0 → exec i s = .next (goesOn i s g p (updGroup (setPartView
          { v with
            fresh := v.fresh + 1
            porterOps := tblPut v.porterOps v.fresh (newOp i s u g p slot ctl.dsp ctl.ssp segs (counterOf ctl) none none) }
          (opView u g (dieOf (insOf i s g p)) v.fresh)) s.gid (put (ticketOf slot seq))))))) ∧
  (∀ (gd : Guard) (ctl : PCtl) (d : Dst) (a b c : Src) (s : State) (g : Group) (p : Path) (slot : Nat),
      let i : Instr := .pgath gd ctl d a b c
      let u := atIssue i s g p
      let act := actLanes g p i
      let segs : List PSeg := (ranked act).map fun x =>
        ⟨4 * x.2, endAdd (scalarAt g b 0) ((vGet g c.reg.toNat x.1).toNat * 2 ^ ctl.esz.toNat : Nat), 4⟩
      let seq := (takeSeqs u (ctxOf u g) (transfersOf segs).length).1
      let v := (takeSeqs u (ctxOf u g) (transfersOf segs).length).2
      Issues i s g p → ctl.dsp = .rg → segsErr u g .rg ctl.ssp 0 (scalarAt g b 0) segs = none →
      freeOpSlot u s.gid = some slot →
      dispatcherFull u (dieOf (insOf i s g p)) = false → transfersOf segs ≠ [] →
      exec i s = .next (goesOn i s g p (updGroup (setPartView
        { v with
          fresh := v.fresh + 2
          groups := (updGroup v s.gid fun h => setEmpty h [regKey .lane a.reg.toNat] true).groups
          producers := tblUpd (tblPut v.producers (v.fresh + 1) ⟨s.gid, [regKey .lane a.reg.toNat], [], [], true⟩) (v.fresh + 1)
            fun x => { x with ready := false }
          porterOps := tblPut v.porterOps v.fresh
            (newOp i s u g p slot .rg ctl.ssp segs none (some (a.reg.toNat, v.fresh + 1, act)) none) }
        (opView u g (dieOf (insOf i s g p)) v.fresh)) s.gid fun h => writeDst h d 1 act fun _ => ticketOf slot seq))) ∧
  (∀ (i : Instr) (s : State) (g : Group) (p : Path) (ctl : PCtl) (d : Dst) (a b : Src) (segs : List PSeg) (e : LaneErr),
      copyOf i g (actLanes g p i) = some (ctl, d, a, b, segs) → Issues i s g p →
      (segsErr (atIssue i s g p) g ctl.dsp ctl.ssp (scalarAt g a 0) (scalarAt g b 0) segs).or (counterErr (atIssue i s g p) g ctl) = some e →
      exec i s = .next (raises i s p (onceTrap (insOf i s g p) e) (atIssue i s g p)))

namespace Sys2Proof.Machine

/-- The machine when x has been written to d, in v. -/
def answers (i : Instr) (s : State) (g : Group) (p : Path) (d : Dst) (v : State) (x : Long) : State :=
  goesOn i s g p (updGroup v s.gid fun h => writeDst h d 1 (actLanes g p i) fun _ => x)

/-- The machine in which the path waits, with u as its effect so far. -/
def waitsFor (i : Instr) (s : State) (g : Group) (p : Path) (u : State) (a : Await) : State :=
  waits i s g p (updGroup u s.gid fun h => updPath h p.lanes fun q => { q with await := some a })

/-- The machine when PYIELD jumps, from v. -/
def yieldsTo (s : State) (p : Path) (v : State) (slot : Fin 5) (disp : BitVec 26) : State :=
  placed s p (updGroup v s.gid fun h => updPath h p.lanes fun _ => { agePath p with
    pc := BitVec.ofNat 64 (p.pc.toNat / 64 * 64) + (disp.signExtend 64) * 64 + BitVec.ofNat 64 slot.val
    enter := true, checked := true })

/-- The machine when a completion acquire at sc has been made in v, and x written to d. -/
def acquired (i : Instr) (s : State) (g : Group) (p : Path) (sc : Scope) (d : Dst) (v : State) (x : Long) : State :=
  answers i s g p d (acquireDone v s.gid sc) x

end Sys2Proof.Machine

/-- A ticket is refused, with status 5, or names an operation that holds its slot, or one that is done. PWAIT gives the
status when its operation, or with no ticket every one of its group, has ended, and PYIELD jumps when it is done and
falls through when not; both wait for an active one, and are answered when it ends. PSTAT gives the status at once, and
frees the slot of a failure that it reads. PCANCEL ends an active operation, with status cancelled, or waits for what
it has under way; it leaves one that has ended. The status that `.all` writes, PCANCEL's too, is the model's choice
(log entry 76). -/
def Obligations.PorterStatus : Prop :=
  (∀ gd sc d t s g p, let i : Instr := .pwait gd sc d (some t)
    let u := atIssue i s g p
    let x := srcVal g p t 2 0
    Issues i s g p →
    (ticketOp u s.gid x = .refused → exec i s = .next (acquired i s g p sc d u 5)) ∧
    (ticketOp u s.gid x = .finished → exec i s = .next (acquired i s g p sc d u statusDone)) ∧
    (∀ id o, ticketOp u s.gid x = .op id o →
      (opActive o = false → exec i s = .next (acquired i s g p sc d (freeOp u id) (statusWord o))) ∧
      (opActive o = true → exec i s = .next (waitsFor i s g p u (.porter id))))) ∧
  (∀ gd sc d s g p, let i : Instr := .pwait gd sc d none
    let u := atIssue i s g p
    let os := slotsOf u s.gid
    Issues i s g p →
    ((∀ e ∈ os, opActive e.2 = false) →
      exec i s = .next (acquired i s g p sc d (observe u os) (statusAll (badOf none os)))) ∧
    ((∃ e ∈ os, opActive e.2 = true) → exec i s = .next (waitsFor i s g p u (.porters none)))) ∧
  (∀ gd sc d t s g p x, let i : Instr := .pwait gd sc d t
    issuing s = some (g, p) → p.await = some (.answer x) → actLanes g p i ≠ 0 →
    exec i s = .next (acquired i s g p sc d (atIssue i s g p) x)) ∧
  (∀ gd sc t slot disp s g p, let i : Instr := .pyield gd sc (some t) slot disp
    let u := atIssue i s g p
    let x := srcVal g p t 2 0
    Issues i s g p →
    (ticketOp u s.gid x = .refused → exec i s = .next (goesOn i s g p u)) ∧
    (ticketOp u s.gid x = .finished → exec i s = .next (yieldsTo s p (acquireDone u s.gid sc) slot disp)) ∧
    (∀ id o, ticketOp u s.gid x = .op id o →
      (opActive o = false → exec i s = .next (goesOn i s g p u)) ∧
      (opActive o = true → exec i s = .next (waitsFor i s g p u (.porter id))))) ∧
  (∀ gd sc slot disp s g p, let i : Instr := .pyield gd sc none slot disp
    let u := atIssue i s g p
    let os := slotsOf u s.gid
    Issues i s g p →
    (os = [] → exec i s = .next (yieldsTo s p (acquireDone u s.gid sc) slot disp)) ∧
    (os ≠ [] → (∀ e ∈ os, opActive e.2 = false) → exec i s = .next (goesOn i s g p u)) ∧
    ((∃ e ∈ os, opActive e.2 = true) → exec i s = .next (waitsFor i s g p u (.porters none)))) ∧
  (∀ gd recd d t s g p, let i : Instr := .pstat gd recd d t
    let u := atIssue i s g p
    let x := srcVal g p t 2 0
    let put (v : State) (y : Long) (r : BitVec 256) : State := goesOn i s g p (updGroup v s.gid fun h =>
      if recd then (List.range 4).foldl (fun h k => sSet h (d.reg.toNat + k) (r.extractLsb' (64 * k) 64)) h
      else sSet h d.reg.toNat y)
    Issues i s g p →
    (ticketOp u s.gid x = .refused → exec i s = .next (put u 5 0)) ∧
    (ticketOp u s.gid x = .finished → exec i s = .next (put u statusDone 0)) ∧
    (∀ id o, ticketOp u s.gid x = .op id o →
      (opActive o = true → exec i s = .next (put u (statusWord o) o.record)) ∧
      (opActive o = false → exec i s = .next (put (freeOp u id) (statusWord o) o.record)))) ∧
  (∀ gd d t s g p, let i : Instr := .pcancel gd d (some t)
    let u := atIssue i s g p
    let x := srcVal g p t 2 0
    let put (v : State) (y : Long) : State := answers i s g p d v y
    Issues i s g p →
    (ticketOp u s.gid x = .refused → exec i s = .next (put u 5)) ∧
    (ticketOp u s.gid x = .finished → exec i s = .next (put u statusDone)) ∧
    (∀ id o, ticketOp u s.gid x = .op id o →
      (opActive o = false → exec i s = .next (put u (statusWord o))) ∧
      (opActive o = true → tblFind (cancelOp u id o).porterOps id = none →
        exec i s = .next (put (cancelOp u id o) (statusWord { o with state := .cancelled }))) ∧
      (opActive o = true → (tblFind (cancelOp u id o).porterOps id).isSome →
        exec i s = .next (waitsFor i s g p (cancelOp u id o) (.porter id))))) ∧
  (∀ gd d s g p, let i : Instr := .pcancel gd d none
    let u := atIssue i s g p
    let os := slotsOf u s.gid
    let v := os.foldl (fun v e => cancelOp v e.1 e.2) u
    Issues i s g p →
    (cancelling v s.gid = false → exec i s = .next (answers i s g p d v
      (statusAll (badOf (cancelledNow os v) (slotsOf v s.gid))))) ∧
    (cancelling v s.gid = true → exec i s = .next (waitsFor i s g p v (.porters (cancelledNow os v)))))

/-- ARRSET gives a counter its target and arms it, and the monitor compares at once; ARRWAIT ends with the count when
it has reached the target. FXFER queues its transfers to a package, and FATOM sends its request and leaves its
registers empty, when the selected lane acts, the handle names an endpoint and the context holds a port that reaches
it; an unnamed endpoint traps. The port that is chosen and the layout of the FATOM request's payload are the model's
choice (log entry 58). -/
def Obligations.FabricIssues : Prop :=
  ((∀ gd die a b s g p, let i : Instr := .arrset gd die a b
      let u := atIssue i s g p
      let off := scalarAt g a 0
      Issues i s g p → off % 8 = 0 → off + 8 ≤ scratchSize u g.block die → scratchPoison u g.block die off 8 = false →
      monitorRoom u g.block die off = true →
      exec i s = .next (goesOn i s g p (wake (monitor (setArrival u g.block die off
        { arrival u g.block die off with target := some (srcVal g p b 2 0), armed := true }) g.block die off none)))) ∧
    (∀ gd die sc d a s g p t, let i : Instr := .arrwait gd die sc d a
      let u := atIssue i s g p
      let off := scalarAt g a 0
      let n := natOfBytes (scratchRead u g.block die off 8) % 2 ^ 63
      Issues i s g p → off % 8 = 0 → off + 8 ≤ scratchSize u g.block die → scratchPoison u g.block die off 8 = false →
      (arrival u g.block die off).target = some t → t.toNat ≤ n →
      exec i s = .next (goesOn i s g p (updGroup
        (acquireOf u s.gid sc (relsAt u (scratchSpace u g.block die) off 8)) s.gid fun h =>
        writeDst h d 1 (actLanes g p i) fun _ => BitVec.ofNat 64 n))) ∧
    (∀ gd die sc d a s g p off x, let i : Instr := .arrwait gd die sc d a
      let u := atIssue i s g p
      issuing s = some (g, p) → p.await = some (.arrival die off (some x)) → actLanes g p i ≠ 0 →
      exec i s = .next (goesOn i s g p (updGroup
        (acquireOf u s.gid sc (relsAt u (scratchSpace u g.block die) off 8)) s.gid fun h =>
        writeDst h d 1 (actLanes g p i) fun _ => BitVec.ofNat 64 x.toNat))) ∧
    (∀ gd die a b s g p, let i : Instr := .arrset gd die a b
      let off := scalarAt g a 0
      Issues i s g p → off % 8 ≠ 0 →
      exec i s = .next (raises i s p (onceTrap (insOf i s g p) (.access 1 (BitVec.ofNat 64 off) 1)) (atIssue i s g p)))) ∧
  ((∀ gd ssp rcnt lane d a s g p e port slot, let i : Instr := .fxfer gd ssp rcnt lane d a
      let u := atIssue i s g p
      let ctx := ctxOf u g
      let segs : List PSeg := [⟨scalarAt g a 1, scalarAt g a 0, scalarAt g a 2 % 2 ^ 32⟩]
      let seq := (takeSeqs u ctx (transfersOf segs).length).1
      let v := (takeSeqs u ctx (transfersOf segs).length).2
      Issues i s g p → (actLanes g p i).getLsbD lane.toNat = true →
      endpointOf u ctx (scalarAt g a 2 / 2 ^ 32 % 2 ^ 16) = some e → fabricPort u ctx e.pkg.toNat = some port →
      endpointErr u g ssp (scalarAt g a 0) (scalarAt g a 2 % 2 ^ 32) .porterRead = none →
      (rcnt = true → scalarAt g a 3 % 8 = 0) → freeOpSlot u s.gid = some slot →
      dispatcherFull u (dieOf (insOf i s g p)) = false → transfersOf segs ≠ [] →
      exec i s = .next (goesOn i s g p (updGroup (setPartView
        { v with
          fresh := v.fresh + 1
          porterOps := tblPut v.porterOps v.fresh (newOp i s u g p slot .vm ssp segs none none
            (some ⟨e.pkg, e.ctx, e.die, if rcnt then some (scalarAt g a 3) else none, port⟩)) }
        (opView u g (dieOf (insOf i s g p)) v.fresh)) s.gid fun h => writeDst h d 1 (actLanes g p i) fun _ => ticketOf slot seq))) ∧
    (∀ gd op t lane d a s g p e port, let i : Instr := .fatom gd op t lane d a
      let u := atIssue i s g p
      let ctx := ctxOf u g
      let seq := (takeSeqs u ctx 1).1
      let v := (takeSeqs u ctx 1).2
      let w := produce v s.gid (dstKeys d 2 2) [] []
      let pk : Packet := { plainPacket w .fatomReq ctx e.pkg e.ctx seq (fatomPayload op t (sGet g (a.reg.toNat + 1))) with
        addr := sGet g a.reg.toNat }
      Issues i s g p → (actLanes g p i).getLsbD lane.toNat = true →
      endpointOf u ctx (scalarAt g a 2 / 2 ^ 32 % 2 ^ 16) = some e → fabricPort u ctx e.pkg.toNat = some port →
      sourcesOpen u ctx = true →
      exec i s = .next (goesOn i s g p (sendPacket
        { w with producers := tblUpd w.producers v.fresh fun x => { x with ready := false } }
        ctx port pk false none (.fatom s.gid v.fresh d.reg.toNat)))) ∧
    (∀ gd ssp rcnt lane d a s g p, let i : Instr := .fxfer gd ssp rcnt lane d a
      let u := atIssue i s g p
      Issues i s g p → (actLanes g p i).getLsbD lane.toNat = true →
      endpointOf u (ctxOf u g) (scalarAt g a 2 / 2 ^ 32 % 2 ^ 16) = none →
      exec i s = .next (raises i s p (trapAt p 6 0 (actLanes g p i)) u)))

/-! ### Matrix and factorisation -/

namespace Sys2Proof.Machine

/-- The matrix instructions: the quarter-op's kind, destination, A, B and scale registers. -/
def mmaOf : Instr → Option (QKind × Dst × Src × BOpd × Option (BitVec 3) × Option (BitVec 3))
  | .mmaq _ d a b x y => some (.f, d, a, b, x, y)
  | .mmaqw _ d a b x y => some (.w, d, a, b, x, y)
  | .mmaqi _ ua ub d a b => some (.i ua ub, d, a, b, none, none)
  | _ => none

/-- The quarters in which a lane acts, with their tiles (12 R268, R277). -/
def quartersOf (g : Group) (act : Lanes) (b : BOpd) : List (Lanes × Nat) :=
  (List.range 4).filterMap fun j =>
    let rows : Lanes := act &&& BitVec.ofNat 32 (0xFF * 2 ^ (8 * j))
    if rows = 0 then none
    else some (rows, match b with
      | .imm v => v.toNat
      | .reg x => if x.file = .lane then (vGet g x.reg.toNat (firstLane rows)).toNat else (sGet g x.reg.toNat).toNat)

/-- A factorisation instruction that takes the array (13 R297-R309): whether it waits for one in flight, its tiles with
their trailers, its own failure, and the operation, with its effect at the issue. -/
def factorOf (i : Instr) (g : Group) (s : State) :
    Option (Bool × List (Long × Nat) × Option Nat × (State → State) × FactOp) :=
  let at_ (a : Src) : Long := sGet g a.reg.toNat
  let start (k : FactKind) (op : Nat) (cont : Bool) (a : Src) (n1 : BitVec 6) :=
    some (true, [(at_ a, if op = 3 then 256 else 0)], (none : Option Nat),
      (fun v : State => updGroup v s.gid fun h => { h with tstate := tstateStart op cont (at_ a).toNat (n1.toNat + 1) }),
      newFact k (at_ a).toNat 0 (n1.toNat + 1) 1 none)
  match i with
  | .tlu _ cont a n1 => start .lu 1 cont a n1
  | .tchol _ a n1 => start .chol 2 false a n1
  | .tqr _ a n1 => start .qr 3 false a n1
  | .ttrs _ up unit tr a b n1 r1 =>
    some (false, [(at_ a, 0), (at_ b, 0)], if tilesOverlap (at_ a) 0 (at_ b) then some 6 else none, id,
      newFact (.trs up unit tr) (at_ a).toNat (at_ b).toNat (n1.toNat + 1) (r1.toNat + 1) none)
  | .tperm _ inv a n1 r1 =>
    some (true, [(at_ a, 0)], if permOk? g.perm (n1.toNat + 1) then none else some 5, id,
      newFact (.perm inv g.perm) (at_ a).toNat 0 (n1.toNat + 1) (r1.toNat + 1) none)
  | .tqapp _ tr a b n1 r1 =>
    some (false, [(at_ a, 256), (at_ b, 0)], if tilesOverlap (at_ a) 256 (at_ b) then some 6 else none, id,
      newFact (.qapp tr) (at_ a).toNat (at_ b).toNat (n1.toNat + 1) (r1.toNat + 1) none)
  | .tnorm _ k d a n1 r1 =>
    some (false, [(at_ a, 0)], none, fun v => (startProducer v s.gid [regKey .scalar d.reg.toNat]).1,
      newFact (.norm k d.reg.toNat) (at_ a).toNat 0 (n1.toNat + 1) (r1.toNat + 1) (some s.fresh))
  | _ => none

end Sys2Proof.Machine

/-- MRES takes the array when it is free or its own and a row-block is healthy, and says so; MREL frees it when
nothing of the block is in flight, or else waits until the last operation of the block completes, which frees it and
answers; MFENCE and MWAIT end when nothing of the path is; MSTAT reports. A fill from
scratchpad that lies in it, or of a loft window, is queued behind the quadrant's earlier fills; one into registers
leaves sixteen of them empty. -/
def Obligations.ArrayResults : Prop :=
  ((∀ gd pd s g p, let i : Instr := .mres gd pd
      let u := atIssue i s g p
      let x := quadOf u g.quad
      let ok : Bool := !x.releasing && (x.holder = none || x.holder = some g.block) && healthy x != 0
      Issues i s g p → exec i s = .next (goesOn i s g p (updGroup
        (if ok then updQuad u g.quad fun x => { x with holder := some g.block } else u) s.gid fun h =>
          pSet h pd.toNat (actLanes g p i) (if ok then allLanes else 0)))) ∧
    (∀ gd s g p, let i : Instr := .mrel gd
      let u := atIssue i s g p
      Issues i s g p → ((quadOf u g.quad).holder = some g.block → arrayBusy u g.quad g.block = false) →
      exec i s = .next (goesOn i s g p (if (quadOf u g.quad).holder = some g.block then
        updQuad u g.quad fun x => { x with holder := none, releasing := false } else u))) ∧
    (∀ gd s g p, let i : Instr := .mrel gd
      let u := atIssue i s g p
      Issues i s g p → (quadOf u g.quad).holder = some g.block → arrayBusy u g.quad g.block = true →
      exec i s = .next (waitsFor i s g p (updQuad u g.quad fun x => { x with releasing := true }) .array)) ∧
    (∀ gd s g p x, let i : Instr := .mrel gd
      issuing s = some (g, p) → p.await = some (.answer x) → actLanes g p i ≠ 0 →
      exec i s = .next (goesOn i s g p (atIssue i s g p))) ∧
    (∀ (s : State) (q b : Nat), (quadOf s q).holder = some b → (quadOf s q).releasing = true →
      (arrayBusy s q b = true → freeArray s q = s) ∧
      (arrayBusy s q b = false → (quadOf (freeArray s q) q).holder = none ∧ (quadOf (freeArray s q) q).releasing = false ∧
        ∀ gid g p, tblFind s.groups gid = some g → g.block = b → g.quad = q → p ∈ g.paths → inMrel p = true →
          ∃ h, tblFind (freeArray s q).groups gid = some h ∧ { p with await := some (.answer 0) } ∈ h.paths)) ∧
    (∀ gd s g p, let i : Instr := .mfence gd
      let u := atIssue i s g p
      Issues i s g p → fillsOf (quadOf u g.quad) s.gid p.lanes = false → (∀ e ∈ u.producers, e.2.gid ≠ s.gid) →
      exec i s = .next (goesOn i s g p u)) ∧
    (∀ gd sc s g p, let i : Instr := .mwait gd sc
      let u := atIssue i s g p
      Issues i s g p → matrixOf (quadOf u g.quad) s.gid p.lanes = false →
      (g.handler = false → ∀ r ∈ g.reports, r.fact = false → r.lanes &&& p.lanes = 0) →
      exec i s = .next (goesOn i s g p (acquireOf u s.gid sc []))) ∧
    (∀ gd d s g p, let i : Instr := .mstat gd d
      let x := quadOf (atIssue i s g p) g.quad
      Issues i s g p → exec i s = .next (changes i s g p fun h => writeDst h d 1 (actLanes g p i) fun _ =>
        BitVec.ofNat 64 (x.stfail * 2 ^ 40 + x.lpois * 2 ^ 32 + x.lecc * 2 ^ 24 + Nat.min 64 x.queue.length * 2 ^ 16 +
          one (x.holder.any fun h => h != g.block) * 2 ^ 9 + one (x.holder = some g.block) * 2 ^ 8 +
          healthy x * 2 ^ 4 + x.fenced.toNat))) ∧
    (∀ gd d s g p, let i : Instr := .mselft gd d
      let u := atIssue i s g p
      let r := startProducer u s.gid [regKey .scalar d.reg.toNat]
      Issues i s g p → (quadOf u g.quad).holder = some g.block → (quadOf u g.quad).releasing = false →
      exec i s = .next (goesOn i s g p (runTests (updQuad r.1 g.quad fun x =>
        { x with tests := x.tests ++ [⟨s.gid, r.2, d.reg.toNat, p.lanes⟩] }) g.quad)))) ∧
  ((∀ gd die a b c s g p, let i : Instr := .mldb gd die a b c
      let u := atIssue i s g p
      let so := (sGet g a.reg.toNat).toNat
      let lo := (sGet g b.reg.toNat).toNat
      let n := (sGet g c.reg.toNat).toNat
      Issues i s g p → so % 4 = 0 → lo % 4 = 0 → n % 4 = 0 → so + n ≤ scratchSize u g.block die →
      lo + n ≤ windowHere (insOf i s g p) u →
      exec i s = .next (goesOn i s g p (if n = 0 then u else updQuad u g.quad fun x =>
        { x with fills := x.fills ++ [⟨s.gid, 0, die, actLanes g p i, .copy so lo n, p.pc, p.lanes⟩] }))) ∧
    (∀ gd a b s g p, let i : Instr := .mldbR gd a b
      let u := atIssue i s g p
      let t := (sGet g b.reg.toNat).toNat
      Issues i s g p → t % 2048 = 0 → t + 2048 ≤ windowHere (insOf i s g p) u →
      exec i s = .next (goesOn i s g p (updQuad u g.quad fun x =>
        { x with fills := x.fills ++ [⟨s.gid, 0, false, actLanes g p i,
          .tile t ((laneList (actLanes g p i)).map fun l => (l, fragBytes g a.reg.toNat l)), p.pc, p.lanes⟩] }))) ∧
    (∀ gd die d mo s g p, let i : Instr := .mlda gd die d mo
      let u := atIssue i s g p
      let r := startProducer u s.gid (laneKeys d.reg.toNat 16)
      Issues i s g p → (∀ l ∈ laneList (actLanes g p i), (memAddr g p mo l).toNat % 4 = 0 ∧
        (memAddr g p mo l).toNat + 64 ≤ scratchSize u g.block die) →
      exec i s = .next (goesOn i s g p (updQuad r.1 g.quad fun x =>
        { x with fills := x.fills ++ [⟨s.gid, r.2, die, actLanes g p i,
          .frag d.reg.toNat ((List.range 32).map fun l => (memAddr g p mo l).toNat) 64 0, p.pc, p.lanes⟩] }))) ∧
    (∀ gd die pitch w16 d mo s g p, let i : Instr := .mldt gd die pitch w16 d mo
      let u := atIssue i s g p
      let r := startProducer u s.gid (laneKeys d.reg.toNat 16)
      let w := if w16 then 2 else 1
      let base := (memAddr g p mo (firstLane (actLanes g p i))).toNat
      Issues i s g p → base % w = 0 → base + (64 / w - 1) * pitchOf pitch w + 32 * w ≤ scratchSize u g.block die →
      exec i s = .next (goesOn i s g p (updQuad r.1 g.quad fun x =>
        { x with fills := x.fills ++ [⟨s.gid, r.2, die, actLanes g p i,
          .frag d.reg.toNat ((List.range 32).map fun l => base + l * w) w (pitchOf pitch w), p.pc, p.lanes⟩] }))))

/-- A matrix instruction whose formats agree, whose block holds the array and whose tiles lie in the window queues a
quarter-op for each quarter in which a lane acts, with its 32 registers empty. -/
def Obligations.MatrixResults : Prop :=
  ∀ (i : Instr) (k : QKind) (d : Dst) (a : Src) (b : BOpd) (sx sy : Option (BitVec 3)) (s : State) (g : Group) (p : Path),
    mmaOf i = some (k, d, a, b, sx, sy) → Issues i s g p →
    let u := atIssue i s g p
    let x := quadOf u g.quad
    let qs := quartersOf g (actLanes g p i) b
    let r := startProducer u s.gid (laneKeys d.reg.toNat 32)
    let scl (y : Option (BitVec 3)) : Option Word := y.map fun n => tblGet 0x3F800000 g.scl n.toNat
    snapOk k p.fmt = true → x.holder = some g.block → x.releasing = false → healthy x ≠ 0 →
    (∀ e ∈ qs, e.2 % 2048 = 0 ∧ e.2 + 2048 ≤ windowHere (insOf i s g p) u) → x.queue.length + qs.length ≤ 64 →
    exec i s = .next (goesOn i s g p (updQuad r.1 g.quad fun x =>
      { x with queue := x.queue ++ qs.map fun e =>
        ⟨s.gid, r.2, e.2, e.1, a.reg.toNat, d.reg.toNat, k, p.fmt, g.nbv, scl sx, scl sy, p.pc, p.lanes, u.clock⟩ }))

/-- A quarter-op writes its 32 registers in its rows' lanes and no other: register n of lane l takes the dot product
of the lane's fragment with slot n of its tile. -/
def Obligations.QuarterWrites : Prop :=
  ∀ (q : Nat) (s : State) (o : QOp) (g : Group) (w : Window),
    tblFind s.groups o.gid = some g → windowOf s g.block q = some w →
    (∀ n, n < 32 → ∀ r ∈ slotReads o, loftPoisoned s q (w.off + o.tile + 64 * n + r.1) r.2 = false) →
    ∃ h, tblFind (runQuarter q s o).groups o.gid = some h ∧
      (∀ r l, l < 32 → vGet h r l =
        if (o.rows &&& g.live).getLsbD l ∧ o.d ≤ r ∧ r < o.d + 32 then
          BitVec.ofNat 32 (dotOf o (natOfBytes (fragBytes g o.a l))
            (natOfBytes (loftRead s q (w.off + o.tile + 64 * (r - o.d)) 64)) (vGet g r l).toNat)
        else vGet g r l) ∧
      h.s = g.s ∧ h.preds = g.preds ∧ h.paths = g.paths ∧ (runQuarter q s o).mem = s.mem

/-- An operation of the factorisation chapter is queued when its block holds the array, its tiles lie in the window,
and nothing of its own stops it; the failure that does raises the factorisation trap. TRES resumes what `tstate`
records as interrupted or failed; TSTAT `.now` gives `tstate`, and `.full` when nothing of the path is in flight. -/
def Obligations.FactorResults : Prop :=
  (∀ (i : Instr) (s : State) (g : Group) (p : Path) (alone : Bool) (ts : List (Long × Nat)) (own : Option Nat)
      (f : State → State) (o : FactOp),
      factorOf i g (atIssue i s g p) = some (alone, ts, own, f, o) → Issues i s g p →
      let u := atIssue i s g p
      let c := insOf i s g p
      (alone = true → factorFlying c u = false) → (quadOf u g.quad).facts.length < 16 → arrayErr c u = none →
      tileErr c u ts = none →
      exec i s = .next (match own with
        | none => goesOn i s g p (updQuad (f u) g.quad fun x =>
            { x with facts := x.facts ++ [{ o with gid := s.gid, pc := p.pc, lanes := p.lanes, since := u.clock }] })
        | some cause => raises i s p (trapAt p 0x0D cause (actLanes g p i)) u)) ∧
  ((∀ gd cont s g p, let i : Instr := .tres gd cont
      let u := atIssue i s g p
      let c := insOf i s g p
      let t := g.tstate.toNat
      let op := bits t 29 28
      let n := bits t 12 7 + 1
      let ta := bits t 25 20 * 16384
      Issues i s g p → factorFlying c u = false → (quadOf u g.quad).facts.length < 16 → arrayErr c u = none →
      (bits t 31 30 = 2 ∨ bits t 31 30 = 3) → op ≠ 0 → tstateNext g.tstate < n →
      tileErr c u [(BitVec.ofNat 64 ta, if op = 3 then 256 else 0)] = none →
      exec i s = .next (goesOn i s g p (updQuad (updGroup u s.gid fun h => { h with tstate :=
          (if cont && op = 1 then tstateSt g.tstate 1 ||| 0x08000000 else tstateSt g.tstate 1) }) g.quad fun x =>
        { x with facts := x.facts ++ [⟨s.gid, none, if op = 1 then .lu else if op = 2 then .chol else .qr, ta, 0, n, 1,
          false, u.clock, p.pc, p.lanes, []⟩] }))) ∧
    (∀ gd d s g p, let i : Instr := .tstat gd none d
      let u := atIssue i s g p
      Issues i s g p → exec i s = .next (goesOn i s g p (produce u s.gid [regKey .scalar d.reg.toNat]
        (regWrites d 1 (actLanes g p i) fun _ => (((tblFind u.groups s.gid).getD g).tstate).setWidth 64) []))) ∧
    (∀ gd sc d s g p, let i : Instr := .tstat gd (some sc) d
      let u := atIssue i s g p
      let v := acquireOf u s.gid sc []
      Issues i s g p → (∀ o ∈ (quadOf u g.quad).facts, o.gid = s.gid → o.lanes &&& p.lanes = 0) →
      (g.handler = false → ∀ r ∈ g.reports, r.fact = false) →
      exec i s = .next (goesOn i s g p (updGroup v s.gid fun h =>
        setEmpty (sSet h d.reg.toNat ((((tblFind v.groups s.gid).getD g).tstate).setWidth 64))
          [regKey d.file d.reg.toNat] false))))

/-- TPERM: row i of the result is row perm[i] of the tile, or the inverse; the two undo each other. -/
def Obligations.PermutedRows : Prop :=
  ∀ (t : Tile) (n r : Nat) (p : List Long), t.size = 4160 → n ≤ 64 → r ≤ 64 → permOk? p n = true →
    (∀ i j, i < n → j < r → tAt (permRows t n r false p) (cell i j) = tAt t (cell (permGet p i) j)) ∧
    (∀ i j, i < n → j < r → tAt (permRows t n r true p) (cell (permGet p i) j) = tAt t (cell i j)) ∧
    permRows (permRows t n r false p) n r true p = t

/-! ### Collectives -/

/-- BOARM writes an object's target, and with `.reset` clears its count; BOWAIT ends when the object is complete or
failed, BOTEST at once, each with its status. CWIN reports a bind, an unbind, an endpoint or a trace ring in its
status, and makes it when the status is 0. -/
def Obligations.CollectiveResults : Prop :=
  ((∀ gd reset at_ d mo s g p u1 bs v, let i : Instr := .boarm gd reset at_ d mo
      let c := insOf i s g p
      let u := if releases at_.ord then release (atIssue i s g p) g at_.scope else atIssue i s g p
      let va := memAddr g p mo (firstLane (actLanes g p i))
      let x := accessOf c u1 .vm .atomic at_
      let asid := asidOf (ctxOf u1 g) va
      Issues i s g p → va.toNat % 64 = 0 →
      (releases at_.ord = true → releaseHeld (atIssue i s g p) g at_.scope = false) →
      heldRequest u (dieOf c) (asidOf (ctxOf u g) va) (lineOf va.toNat) true = false →
      boRead c u va = .ok (u1, bs) →
      l2Write u1 (whoOf u1 g) va (barObjBytes bs { barObj bs with
          target := (sGet g d.reg.toNat).toNat
          count := if reset then 0 else (barObj bs).count
          failed := !reset && (barObj bs).failed
          cause := if reset then 0 else (barObj bs).cause }) .load (wideRelease x) = .ok v →
      exec i s = .next (goesOn i s g p
        (putRels v asid va.toNat 24 true (carryAt asid va.toNat 24 (storeRels u1 x))))) ∧
    (∀ gd at_ d mo s g p u1 bs, let i : Instr := .bowait gd at_ d mo
      let c := insOf i s g p
      let u := atIssue i s g p
      let va := memAddr g p mo (firstLane (actLanes g p i))
      Issues i s g p → va.toNat % 64 = 0 →
      heldRequest u (dieOf c) (asidOf (ctxOf u g) va) (lineOf va.toNat) false = false → boRead c u va = .ok (u1, bs) →
      ((barObj bs).failed = true ∨ boComplete (barObj bs) = true) →
      exec i s = .next (answers i s g p d (boAcquire c u1 at_ va) (boStatus (barObj bs)))) ∧
    (∀ gd at_ d mo s g p u1 bs, let i : Instr := .botest gd at_ d mo
      let c := insOf i s g p
      let u := atIssue i s g p
      let va := memAddr g p mo (firstLane (actLanes g p i))
      Issues i s g p → va.toNat % 64 = 0 →
      heldRequest u (dieOf c) (asidOf (ctxOf u g) va) (lineOf va.toNat) false = false → boRead c u va = .ok (u1, bs) →
      exec i s = .next (answers i s g p d
        (if (barObj bs).failed || boComplete (barObj bs) then boAcquire c u1 at_ va
          else notePend u1 s.gid (relsAt u1 (asidOf (ctxOf u1 g) va) va.toNat 24)) (boStatus (barObj bs))))) ∧
  ((∀ gd d a b s g p, let i : Instr := .cwinBind gd d a b
      let u := atIssue i s g p
      let t := drainGroup u g
      let t0 : State := { t with arrived := [] }
      let va := sGet g a.reg.toNat
      Issues i s g p → drainHeld u (ownStore u g) = false →
      (freeWindow t (whoOf t g) va = none → exec i s = .next (answers i s g p d t 1)) ∧
      ((freeWindow t (whoOf t g) va).isSome → ∀ u1 bs tb,
        bindRead t0 (whoOf t0 g) (sGet g b.reg.toNat) = .ok (u1, bs, tb) →
        let v : State := { u1 with arrived := [], ios := tblDel u1.ios t.fresh }
        (∀ x w, bindWindow (insOf i s g p) v va bs tb = .status x w →
          exec i s = .next (answers i s g p d w (BitVec.ofNat 64 x))) ∧
        (bindWindow (insOf i s g p) v va bs tb = .det →
          exec i s = .next (raises i s p (trapAt p 0x10 0 (actLanes g p i)) v)))) ∧
    (∀ gd d a s g p, let i : Instr := .cwinUnbind gd d a
      let u := atIssue i s g p
      let t := drainGroup u g
      Issues i s g p → drainHeld u (ownStore u g) = false →
      (windowAt t (whoOf t g) (sGet g a.reg.toNat) = none → exec i s = .next (answers i s g p d t 1)) ∧
      (∀ v mfn, windowAt t (whoOf t g) (sGet g a.reg.toNat) = some (v, mfn) →
        (tblFind v.bindings mfn = none → exec i s = .next (answers i s g p d v 1)) ∧
        ((tblFind v.bindings mfn).isSome → exec i s = .next (answers i s g p d (unbindWindow v mfn) 0)))) ∧
    (∀ gd d a b s g p, let i : Instr := .cwinEp gd d a b
      let u := atIssue i s g p
      let t := drainGroup u g
      let t0 : State := { t with arrived := [] }
      let n := (sGet g a.reg.toNat).toNat
      Issues i s g p → drainHeld u (ownStore u g) = false →
      (4096 ≤ n → exec i s = .next (answers i s g p d t 5)) ∧
      (n < 4096 → ∀ u1 bs, vmRead t0 (whoOf t0 g) (sGet g b.reg.toNat) 16 .load = .ok (u1, bs) →
        let v : State := { u1 with arrived := [], ios := tblDel u1.ios t.fresh }
        (endpointEntry bs = none → exec i s = .next (answers i s g p d v 5)) ∧
        (endpointEntry bs = some none → exec i s = .next (answers i s g p d
          (updCtx v (ctxOf v g) fun k => { k with endpoints := tblDel k.endpoints n }) 0)) ∧
        (∀ e, endpointEntry bs = some (some e) → exec i s = .next (answers i s g p d
          (updCtx v (ctxOf v g) fun k => { k with endpoints := tblPut k.endpoints n e }) 0)))) ∧
    (∀ gd d a b s g p, let i : Instr := .cwinTrace gd d a b
      let u := atIssue i s g p
      let t := drainGroup u g
      let va := sGet g a.reg.toNat
      let n := (sGet g b.reg.toNat).toNat
      Issues i s g p → drainHeld u (ownStore u g) = false →
      (va = 0 → exec i s = .next (answers i s g p d (updCtx t (ctxOf u g) fun k => { k with trace := none }) 0)) ∧
      (va ≠ 0 → va.toNat % 64 ≠ 0 ∨ canonical va = false ∨ n < 4 ∨ 16 < n →
        exec i s = .next (answers i s g p d t 2)) ∧
      (va ≠ 0 → va.toNat % 64 = 0 → canonical va = true → 4 ≤ n → n ≤ 16 →
        exec i s = .next (answers i s g p d (updCtx t (ctxOf u g) fun k => { k with trace := some ⟨va, n, 1, 0⟩ }) 0))))

/-- The combination of two elements (14 R337): sums wrap, minima and maxima are signed for i32, and the bit operations
are those of words; a chunk is combined element by element. -/
def Obligations.CombinedElements : Prop :=
  (∀ x y : Word, (∀ t, t = 5 ∨ t = 6 → BitVec.ofNat 32 (combine 0 t x.toNat y.toNat) = x + y ∧
      BitVec.ofNat 32 (combine 3 t x.toNat y.toNat) = x &&& y ∧
      BitVec.ofNat 32 (combine 4 t x.toNat y.toNat) = x ||| y ∧
      BitVec.ofNat 32 (combine 5 t x.toNat y.toNat) = x ^^^ y) ∧
    BitVec.ofNat 32 (combine 1 5 x.toNat y.toNat) = (if y.slt x then y else x) ∧
    BitVec.ofNat 32 (combine 2 5 x.toNat y.toNat) = (if x.slt y then y else x) ∧
    BitVec.ofNat 32 (combine 1 6 x.toNat y.toNat) = (if y.ult x then y else x) ∧
    BitVec.ofNat 32 (combine 2 6 x.toNat y.toNat) = (if x.ult y then y else x)) ∧
  (∀ (op t : Nat) (a b : List Byte) (n : Nat), a.length = 4 * n → b.length = 4 * n →
    (combineBytes op t a b).length = 4 * n ∧
    ∀ k, k < n → ((combineBytes op t a b).drop (4 * k)).take 4 =
      bytesOfNat 4 (combine op t (natOfBytes ((a.drop (4 * k)).take 4)) (natOfBytes ((b.drop (4 * k)).take 4))))

/-! ### Relay instructions -/

namespace Sys2Proof.Machine

/-- The instance whose turn it is executes: it does not send, and has executed fewer than 65,536 instructions. -/
structure Runs (s : State) (x : Instance) : Prop where
  turn : tblFind s.instances s.inst = some x
  idle : x.sending = false
  few : x.count < 65536

/-- The instance goes on at the next instruction, from t. -/
def relayOn (s t : State) : State :=
  wake (updInstance t s.inst fun y => { y with pc := y.pc + 1, count := y.count + 1 })

end Sys2Proof.Machine

/-- Relay instructions that move packets: MATCH and WAITIN take the oldest packet that fits, SEQCHK acknowledges its
packet and takes a key once, HOLDB takes a free slot, NACK and DONE give back, FWD and MCAST send to every endpoint.
Relay instructions that compute and emit: COMB joins two neighbouring nodes of the tree, EMIT writes a chunk to every
local member, BUMP counts it, TRACE records, and LDK, ADDK, BNE and JMP act on registers. That SEQCHK acknowledges its
packet (log entry 59), and that FWD sends a partial and MCAST a result (log entry 61), is the model's choice. -/
def Obligations.RelayResults : Prop :=
  ((∀ imm kd ka n s x m, Runs s x → oldestPacket s x (fun y => y.rlo = if imm then n.toNat else (kGet x ka).toNat) = some m →
      exec (.relayMatch imm kd ka n) s = .next (relayOn s (takePacket s s.inst kd m))) ∧
    (∀ kd port s x m, Runs s x → oldestPacket s x (fun y => port = 127 || y.port = port.toNat) = some m →
      exec (.waitin kd port) s = .next (relayOn s (takePacket s s.inst kd m))) ∧
    (∀ kd ka s x n y, let t := ackSlot s n
      Runs s x → slotOf s x (kGet x ka) = some (n, y) →
      (t.keys.contains (keyOf y) = true →
        exec (.seqchk kd ka) s = .next (relayOn s (kSet (consume t s.inst n) s.inst kd 1))) ∧
      (t.keys.contains (keyOf y) = false →
        exec (.seqchk kd ka) s = .next (relayOn s (kSet { t with
          keys := t.keys ++ [keyOf y], slots := tblUpd t.slots n fun z => { z with checked := true } } s.inst kd 0)))) ∧
    (∀ kd ka s x n y, Runs s x → slotOf s x (kGet x ka) = some (n, y) → y.checked = true → y.ecc = false →
      slotFree s y.ctx = true →
      exec (.holdb kd ka) s = .next (relayOn s (kSet (updInstance
        { s with slots := tblPut s.slots (freshSlot s) { y with checked := true } } s.inst fun z =>
          { z with held := z.held ++ [freshSlot s] }) s.inst kd (handle (freshSlot s))))) ∧
    (∀ ka s x n y, Runs s x → slotOf s x (kGet x ka) = some (n, y) →
      exec (.nack ka) s = .next (relayOn s (consume (refuseSlot s y) s.inst n))) ∧
    (∀ s x, Runs s x → exec .relayDone s = .next (wake (endInstance (count s 27 x.engine
      ((x.held ++ x.arrived).filter fun n => (tblFind s.slots n).any fun y => !s.keys.contains (keyOf y)).length) s.inst))) ∧
    (∀ rod ka h s x n y e, Runs s x → slotOf s x (kGet x ka) = some (n, y) → y.checked = true → y.ecc = false →
      sourcesOpen s x.ctx = true → endpointOf s x.ctx h.toNat = some e →
      (fabricPort s x.ctx e.pkg.toNat).isSome = true →
      exec (.fwd rod ka h) s = .next (wake (updInstance (sendSlot .partialNode rod s.inst n x y [e] s) s.inst fun z =>
        { z with sending := true, blocked := true }))) ∧
    (∀ rod ka kb n s x m y es, Runs s x → slotOf s x (kGet x ka) = some (m, y) → y.checked = true → y.ecc = false →
      sourcesOpen s x.ctx = true → es ≠ [] →
      ((List.range (Nat.min n.toNat 64)).map fun j => (endpointOf s x.ctx ((kGet x kb).toNat + j)).filter fun e =>
        (fabricPort s x.ctx e.pkg.toNat).isSome) = es.map some →
      exec (.mcast rod ka kb n) s = .next (wake (updInstance (sendSlot .result rod s.inst m x y es s) s.inst fun z =>
        { z with sending := true, blocked := true })))) ∧
  ((∀ kd ka kb s x na ya nb yb b, Runs s x → slotOf s x (kGet x ka) = some (na, ya) → slotOf s x (kGet x kb) = some (nb, yb) →
      ya.checked = true → ya.ecc = false → yb.checked = true → yb.ecc = false → bindingFor s x = some b → b.kind = 1 →
      na ≠ nb → pairOk b.nbv b.nmem ya.rlo ya.rhi yb.rlo yb.rhi = true →
      exec (.comb kd ka kb) s = .next (relayOn s (kSet (consume { s with
        slots := tblUpd s.slots na fun z => { z with rhi := yb.rhi, data := combineBytes b.op b.ity ya.data yb.data } }
        s.inst nb) s.inst kd (kGet x ka)))) ∧
    (∀ ka s x n y b s1 s2, Runs s x → slotOf s x (kGet x ka) = some (n, y) → y.checked = true → y.ecc = false →
      bindingFor s x = some b → (b.kind = 1 → y.rlo = 0 ∧ y.rhi + 1 = b.nmem) → (b.kind = 2 ∨ b.kind = 3 → y.rlo = y.rhi) →
      (∀ e ∈ members s x.cid, emitHeld s y e.2 = false) →
      emitAll y (members s x.cid) s = (s1, true) → completeAll (members s1 x.cid) (consume s1 s.inst n) = (s2, none) →
      exec (.emit ka) s = .next (relayOn s (pumpAll s2))) ∧
    (∀ ka s x n y, Runs s x → slotOf s x (kGet x ka) = some (n, y) → y.checked = true →
      (∀ e ∈ members s x.cid, e.2.recv = true → ∀ blk off, bumpPlace s e.2 = some (blk, off) → monitorRoom s blk true off = true) →
      exec (.bump ka) s = .next (relayOn s
        (((members s x.cid).filter fun e => e.2.recv).foldl (fun t e => bumpTo y t e.2) s))) ∧
    (∀ kd ka n s x, Runs s x → exec (.relayLdk 0 kd ka n) s = .next (relayOn s (kSet s s.inst kd n))) ∧
    (∀ kd ka n s x m y, Runs s x → slotOf s x (kGet x ka) = some (m, y) →
      exec (.relayLdk 1 kd ka n) s = .next (relayOn s (kSet s s.inst kd (BitVec.ofNat 32 (slotField y n.toNat))))) ∧
    (∀ kd ka n s x, Runs s x →
      exec (.relayLdk 2 kd ka n) s = .next (relayOn s (kSet s s.inst kd (BitVec.ofNat 32 (bindField s x n.toNat))))) ∧
    (∀ imm kd ka kb n s x, Runs s x → exec (.addk imm kd ka kb n) s =
      .next (relayOn s (kSet s s.inst kd (kGet x ka + if imm then n else kGet x kb)))) ∧
    (∀ ka kb t s x, Runs s x → exec (.bne ka kb t) s = .next (wake (updInstance s s.inst fun y =>
      { y with pc := if kGet x ka ≠ kGet x kb then t.toNat else x.pc + 1, count := y.count + 1 }))) ∧
    (∀ t s x, Runs s x → exec (.jmp t) s = .next (wake (updInstance s s.inst fun y =>
      { y with pc := t.toNat, count := y.count + 1 }))) ∧
    (∀ ka tag s x, Runs s x → (tblFind s.ctxs x.ctx).bind (·.trace) = none →
      exec (.trace ka tag) s = .next (relayOn s (count s 32 x.engine 1))) ∧
    (∀ ka tag s x r, Runs s x → (tblFind s.ctxs x.ctx).bind (·.trace) = some r →
      exec (.trace ka tag) s = .next (relayOn s (traceWrite s x r (kGet x ka) tag))))

/-- A relay instruction that names no slot of its instance, or reads one that is not checked, ends the instance's work
with relay fault 2 or 3; a program of 65,536 instructions with fault 5. A key that SEQCHK has taken is taken by no
later SEQCHK: the second packet with the key is consumed, and the keys stay. -/
def Obligations.RelayFaults : Prop :=
  (∀ s x ka, Runs s x → slotOf s x (kGet x ka) = none →
    (∀ i : Instr, (∃ kd, i = .seqchk kd ka) ∨ (∃ kd, i = .holdb kd ka) ∨ (∃ kd kb, i = .comb kd ka kb) ∨ i = .nack ka ∨
      i = .emit ka ∨ i = .bump ka ∨ (∃ rod h, i = .fwd rod ka h) ∨ (∃ rod kb n, i = .mcast rod ka kb n) →
      exec i s = .next (wake (relayFault s s.inst 2 none)))) ∧
  (∀ s x ka n y, Runs s x → slotOf s x (kGet x ka) = some (n, y) → y.checked = false →
    (∀ i : Instr, (∃ kd, i = .holdb kd ka) ∨ (∃ kd kb, i = .comb kd ka kb) ∨ i = .emit ka ∨ i = .bump ka ∨
      (∃ rod h, i = .fwd rod ka h) ∨ (∃ rod kb n, i = .mcast rod ka kb n) →
      exec i s = .next (wake (relayFault s s.inst 3 none)))) ∧
  (∀ s x t, tblFind s.instances s.inst = some x → x.sending = false → 65536 ≤ x.count →
    exec (.jmp t) s = .next (wake (relayFault s s.inst 5 none))) ∧
  (∀ (kd ka : BitVec 4) (s t : State) (x : Instance) (n : Nat) (y : Slot), Runs s x →
     slotOf s x (kGet x ka) = some (n, y) → exec (.seqchk kd ka) s = .next t →
     t.keys.contains (keyOf y) = true ∧
     (s.keys.contains (keyOf y) = true → t.keys = s.keys))

/-! ### Traps -/

/-- TRAP and BRK take their trap, which records the code and the next PC; RTE parks its path; GETFLT reads the trap;
CKPT copies a group of one path; PURSE reads a purse; EVWAIT ends at its record, or at its limit, and waits until
then. -/
def Obligations.TrapResults : Prop :=
  (∀ gd code s g p, let i : Instr := .trap gd code
    Issues i s g p → exec i s = .next (wake (takeTrap (atIssue i s g p) s.gid
      ⟨p.lanes, 0x11, 0, code.toNat, actLanes g p i, [], nextPc p.pc p.tail, nextPc p.pc p.tail, []⟩))) ∧
  (∀ gd code s g p, let i : Instr := .brk gd code
    Issues i s g p → exec i s = .next (wake (takeTrap (atIssue i s g p) s.gid
      ⟨p.lanes, 0x12, 0, code.toNat, actLanes g p i, [], nextPc p.pc p.tail, nextPc p.pc p.tail, []⟩))) ∧
  (∀ gd f s g p, let i : Instr := .rte gd f
    Issues i s g p → g.handler = true → exec i s = .next (replaces i s g p fun h => park h p.lanes p.pc (.rte (match f with
      | .plain => .plain
      | .to a => .to (srcVal g p a 2 0)
      | .skip => .skip)))) ∧
  (∀ gd f s g p, let i : Instr := .rte gd f
    Issues i s g p → g.handler = false →
    exec i s = .next (raises i s p (trapAt p 3 0 (actLanes g p i)) (atIssue i s g p))) ∧
  (∀ gd f d s g p, let i : Instr := .getflt gd f d
    Issues i s g p → exec i s = .next (changes i s g p fun h => match f with
      | .fault => (laneList (actLanes g p i)).foldl (fun h l => (List.range 8).foldl (fun h k =>
          vSet h (d.reg.toNat + k) l
            ((if g.handler && g.fltmask.getLsbD l then tblGet 0 g.recs l else 0 : BitVec 256).extractLsb' (32 * k) 32)) h) h
      | .pc => writeDst h d 1 (actLanes g p i) fun _ => if g.handler then ((g.frame).map (·.pc)).getD 0 else 0
      | .gser => writeDst h d 1 (actLanes g p i) fun _ => if g.handler then g.serial else 0)) ∧
  (∀ gd idem v nv x nx s g p, let i : Instr := .ckpt gd idem v nv x nx
    let vs := (List.range nv.toNat).map (v.toNat + ·)
    let ss := (List.range nx.toNat).map (x.toNat + ·)
    Issues i s g p → (∀ r ∈ vs, isEmpty g (regKey .lane r) = false) → (∀ r ∈ ss, isEmpty g (regKey .scalar r) = false) →
    exec i s = .next (changes i s g p fun h =>
      if g.paths.length = 1 && g.families.all fun f => f.lanes &&& g.live == 0 then
        { h with
          ckpt := some ⟨p.pc, g.v.filter fun e => vs.contains (e.1 / 32), g.s.filter fun e => ss.contains e.1, g.preds,
            p.fmt, g.scl, g.chunks⟩
          idem := idem, ranCkpt := true }
      else { h with ckpt := none, ranCkpt := true })) ∧
  (∀ gd f d a s g p, let i : Instr := .purse gd f d a
    let u := atIssue i s g p
    Issues i s g p → exec i s = .next (changes i s g p fun h => writeDst h d 1 (actLanes g p i) fun _ =>
      match selfOrChild u (ctxOf u g) (srcVal g p a 2 0) with
      | some k => purseVal f k
      | none => 0x8000000000000000)) ∧
  (∀ gd d a b s g p, let i : Instr := .evwait gd d a b
    let u := atIssue i s g p
    let n := (srcVal g p a 2 0).toNat % 2 ^ 32
    let k := srcVal g p b 2 0
    let put (v : State) (x : Long) : State := updGroup v s.gid fun h =>
      setEmpty (sSet h d.reg.toNat x) [regKey d.file d.reg.toNat] false
    Issues i s g p →
    (queuedRecord u (ctxOf u g) n = some n →
      exec i s = .next (goesOn i s g p (put (hearRecord u (insOf i s g p) n) (BitVec.ofNat 64 n)))) ∧
    (queuedRecord u (ctxOf u g) n ≠ some n → k = 0 → exec i s = .next (goesOn i s g p (put u 0))) ∧
    (queuedRecord u (ctxOf u g) n ≠ some n → k ≠ 0 → exec i s = .next (waits i s g p (updGroup u s.gid fun h =>
      setEmpty (updPath h p.lanes fun q => { q with
        await := some (.evwait n (if k = 0xFFFFFFFFFFFFFFFF then none else some (u.clock + k.toNat))) })
        [regKey d.file d.reg.toNat] true)))) ∧
  (∀ gd d a b s g p x, let i : Instr := .evwait gd d a b
    issuing s = some (g, p) → p.await = some (.answer x) → actLanes g p i ≠ 0 →
    exec i s = .next (changes i s g p fun h => setEmpty (sSet h d.reg.toNat x) [regKey d.file d.reg.toNat] false))

/-- A trap for the handler saves the frame, writes `fltrec` and `fltmask`, clears IDEM, and gathers the live lanes
into one path of split 0 at ENTRY1, in handler mode; registers, empty marks and memory stay, and the frame keeps the
paths as they stand, those that wait too. A block that a stop was to end by flashback or restart is saved whole instead
(the model's reading, log entry 47). Without a
handler, and in the handler, a trap ends the group: its live lanes exit, a record of KIND 8 with the trap's class goes
to the context's fault queue, and the grid fails with cause 0x20 or 0x21. -/
def Obligations.HandlerEntry : Prop :=
  (∀ (s : State) (gid : Nat) (g : Group) (gr : Grid) (t : Trap),
      tblFind s.groups gid = some g → gridOf s g = some gr → gr.hdr.entries.getD 1 0 ≠ 0 → g.handler = false →
      t.cls ≠ 0x13 → (t.cls = 0x0A → parentRecs t = []) →
      (t.cls = 0x12 → ∀ c, tblFind s.ctxs (ctxOf s g) = some c → c.debug = false) →
      ∃ h, takeTrap s gid t = { saveWhole s g.block with groups := tblPut s.groups gid h } ∧
        h.paths = [⟨0, g.live, gr.image + BitVec.ofNat 64 (gr.hdr.entries.getD 1 0),
          ((g.paths.find? fun p => p.lanes = t.path).map (·.fmt)).getD 0, [], .current, none, true, true, 0, none, 0,
          g.paths.any (·.full), none⟩] ∧
        h.frame = some ⟨g.paths, g.splits, g.families, g.preds, t.path, t.pc, t.cls, t.dsts⟩ ∧
        h.fltmask = t.mask ∧ h.recs = t.recs ∧ h.handler = true ∧ h.idem = false ∧ h.families = [] ∧
        (t.cls < 256 → t.cause < 256 → t.info < 2 ^ 16 →
          bits h.fltrec.toNat 63 32 = (t.offPc - gr.image).toNat % 2 ^ 32 ∧ bits h.fltrec.toNat 31 24 = t.cls ∧
          bits h.fltrec.toNat 23 16 = t.cause ∧ bits h.fltrec.toNat 15 0 = t.info) ∧
        h.v = g.v ∧ h.s = g.s ∧ h.preds = g.preds ∧ h.empty = g.empty ∧ h.live = g.live ∧ h.scl = g.scl ∧
        h.chunks = g.chunks ∧ h.held = g.held) ∧
  (∀ (s : State) (gid : Nat) (g : Group) (gr : Grid) (t : Trap),
      tblFind s.groups gid = some g → gridOf s g = some gr → gr.hdr.entries.getD 1 0 = 0 ∨ g.handler = true →
      t.cls ≠ 0x0A → t.cls ≠ 0x12 → t.cls ≠ 0x13 →
      takeTrap s gid t = killGroup (sendRecord s (ctxOf s g) (recordRec 8 t.cls (ctxOf s g) t.pc g.serial 0)) gid
        (if g.handler then 0x21 else 0x20))

/-- The return from the handler restores the frame: the trapping path goes on at the recorded PC for the lanes that
`fltmask` now names, at the operand of `.to`, or after the instruction for `.skip`; every other path as it stood; a full
fence of the handler holds for all of them (06 R148); the predicates are those of the frame; lane and scalar registers
stay. That `.skip` goes on unchecked, where 02 R31 lists an RTE to another PC than the recorded one, is the model's
choice (log entry 46). -/
def Obligations.HandlerReturn : Prop :=
  ∀ (g : Group) (f : Frame) (a : RteArg) (p : Path), p ∈ f.paths → p.lanes &&& g.live ≠ 0 →
    let h := rteRestore g f a
    (p.lanes ≠ f.lanes → { p with lanes := p.lanes &&& g.live, full := p.full || g.paths.any (·.full) } ∈ h.paths) ∧
    (p.lanes = f.lanes → ∃ q ∈ h.paths, q.lanes = p.lanes &&& g.live ∧ q.fmt = p.fmt ∧ q.latches = p.latches ∧
      q.full = (p.full || g.paths.any (·.full)) ∧
      (match a with
        | .plain => q.pc = f.pc ∧ q.checked = false ∧ q.replay = if f.cls = 0x11 ∨ f.cls = 0x12 ∨ f.cls = 0x13 then none else some g.fltmask
        | .to x => q.pc = x ∧ q.checked = (x != f.pc) ∧ q.replay = none
        | .skip => q.replay = none ∧ q.checked = false ∧ q.pc = if f.cls = 0x11 ∨ f.cls = 0x12 then f.pc else nextPc f.pc p.tail)) ∧
    h.handler = false ∧ h.frame = none ∧ h.preds = f.preds ∧ h.splits = f.splits ∧ h.families = f.families ∧
    h.v = g.v ∧ h.s = g.s ∧ h.live = g.live ∧ h.fltmask = g.fltmask ∧ (a ≠ .skip → h.empty = g.empty) ∧
    (a = .skip → ∀ k, isEmpty h k = (isEmpty g k && !f.dsts.contains k))

/-! ### Contexts -/

namespace Sys2Proof.Machine

/-- The requests to the context engine that are answered at once and read no memory: the status register, and the
request (18 R411-R431). -/
def contextRequest (i : Instr) : Option (Dst × (Ins → Nat → State → CtxReply)) :=
  let n (c : Ins) (a : Src) : Nat := (sGet c.g a.reg.toNat).toNat
  match i with
  | .ctxgrantQuad _ d a b c => some (d, fun x ctx s => grantQuad s ctx (n x a) (n x b) (n x c))
  | .ctxgrantQueue _ d a b c => some (d, fun x ctx s => grantQueue s ctx (n x a) (n x b) (n x c))
  | .ctxgrantPort _ d a b c => some (d, fun x ctx s => grantPort s ctx (n x a) (n x b) (n x c))
  | .ctxgrantRelay _ d a b c => some (d, fun x ctx s => grantRelay s ctx (n x a) (n x b) (n x c))
  | .ctxgrantPurse _ d a b => some (d, fun x ctx s => grantPurse s ctx (n x a) (n x b))
  | .ctxgrantSave _ d a b c => some (d, fun x ctx s => grantSave s ctx (n x a) (n x b) (n x c))
  | .ctxgrantRights _ d a b c => some (d, fun x ctx s => grantRights s ctx (n x a) (n x b) (n x c))
  | .ctxmap _ lard d a b c n1 fw fx => some (d, fun x ctx s => onChild s ctx (n x a) fun k =>
      match mapChecks s ctx (n x a) k (n x b) (n x c) (n1.toNat + 1) with
      | .error (st, j) => ctxNo s st j
      | .ok l => match partitionsOk s (n x a) (l.map fun t => framePartition s t.2.2.mfn) with
        | some j => ctxNo s 6 j
        | none => ctxOk (wake (l.foldl (mapFrame lard fw fx ctx (n x a)) s)) 0)
  | .ctxrevokeQuad _ d a b c => some (d, fun x ctx s => onChild s ctx (n x a) fun _ =>
      takeItems s (n x a) (maskItems (n x b) (n x c) 640) (quadHolder s) (fun _ => false) fun s q => moveQuad s q ctx)
  | .ctxrevokeQueue _ d a b c => some (d, fun x ctx s => onChild s ctx (n x a) fun _ =>
      takeItems s (n x a) (countItems (n x b) (n x c) 4096) (queueHolder s) (fun _ => false)
        fun s q => revokeQueue s (n x a) q ctx)
  | .ctxrevokePort _ d a b c => some (d, fun x ctx s => onChild s ctx (n x a) fun _ =>
      takeItems s (n x a) (maskItems (n x b) (n x c) 96) (portHolder s) (portBound s) fun s q => movePort s q ctx)
  | .ctxrevokeRelay _ d a b c => some (d, fun x ctx s => onChild s ctx (n x a) fun k =>
      match notStopped s (n x a) with
      | some y => ctxNo s 8 y
      | none =>
        if k.relayG < n x b || k.relayCap < n x c then ctxNo s 2 0
        else ctxOk (clampCaps (updCtx (takeSlots (n x a) (deepestFirst s (n x a)) (n x b) s) (n x a) fun k =>
          { k with relayCap := k.relayCap - n x c }) (n x a)) 0)
  | .ctxrevokePurse _ d a b => some (d, fun x ctx s => onChild s ctx (n x a) fun k =>
      let m := Nat.min (n x b) k.purse.toNat
      let t := updCtx s (n x a) fun k => { k with purse := k.purse - m, granted := k.granted - m }
      ctxOk (wake (exhaust s (updCtx t ctx fun k => { k with purse := k.purse + m }) (n x a))) m)
  | .ctxrevokeFrame _ d a b c => some (d, fun x ctx s => onChild s ctx (n x a) fun _ =>
      match framesToTake s ctx (n x a) (n x b) (Nat.min (n x c) 0x800000) with
      | .error (st, _) => ctxNo s st 0
      | .ok l => ctxOk (wake (l.foldl (fun s m => scrubFrame s (n x a) m) s)) 0)
  | .ctxrevokeSave _ d a b c => some (d, fun x ctx s => onChild s ctx (n x a) fun k =>
      if n x c = 0 || 4096 < n x c then ctxNo s 5 0
      else if holdsSaved s (n x a) k then ctxNo s 3 0
      else match framesToTake s ctx (n x a) (n x b) (n x c) with
        | .error (st, _) => ctxNo s st 0
        | .ok l => if l.all k.save.contains then ctxOk (l.foldl (fun s m => scrubFrame s (n x a) m) s) 0 else ctxNo s 2 0)
  | .ctxrevokeAll _ d a => some (d, fun x ctx s => onChild s ctx (n x a) fun _ =>
      match notStopped s (n x a) with
      | some y => ctxNo s 8 y
      | none => ctxOk (removeTree s ctx (n x a)) 0)
  | .ctxrun _ d a b dl => some (d, fun x ctx s => onChild s ctx (n x a) fun k =>
      match runRefusal s (n x a) k [] with
      | some st => ctxNo s st 0
      | none =>
        if s.busy then ctxNo s 8 0
        else if !ctxRuns s ctx then ctxNo s 3 0
        else ctxOk (runTree s (n x a) (n x b) dl.toNat) 0)
  | .ctxrefl _ k d a b => some (d, fun x ctx s => onChild s ctx (n x a) fun child =>
      match heldGroup s (n x a) (sGet x.g b.reg.toNat) with
      | none => ctxNo s 11 0
      | some (gid, h, t) => match k with
        | .retry => ctxOk (wake (retryHeld s gid h t)) 0
        | .refl => ctxOk (wake (endHold s child gid (some (reflected t)))) 0
        | .kill => ctxOk (wake (endHold s child gid none)) 0)
  | _ => none

/-- The operand of such a request that names the child. -/
def childNamed : Instr → Option Src
  | .ctxgrantQuad _ _ a _ _ | .ctxgrantQueue _ _ a _ _ | .ctxgrantPort _ _ a _ _ | .ctxgrantRelay _ _ a _ _
  | .ctxgrantPurse _ _ a _ | .ctxgrantSave _ _ a _ _ | .ctxgrantRights _ _ a _ _ | .ctxmap _ _ _ a _ _ _ _ _
  | .ctxrevokeQuad _ _ a _ _ | .ctxrevokeQueue _ _ a _ _ | .ctxrevokePort _ _ a _ _ | .ctxrevokeRelay _ _ a _ _
  | .ctxrevokePurse _ _ a _ | .ctxrevokeFrame _ _ a _ _ | .ctxrevokeSave _ _ a _ _ | .ctxrevokeAll _ _ a
  | .ctxrun _ _ a _ _ | .ctxrefl _ _ _ a _ => some a
  | _ => none

/-- The machine when a request's answer x has been written to d, in t, after the acquire of 18 R411. -/
def statusIn (t : State) (gid : Nat) (d : Dst) (x : Long) : State :=
  updGroup t gid fun h => setEmpty (sSet h d.reg.toNat x) [regKey d.file d.reg.toNat] false

/-- A request issues in u, with no store of its group held by a slice that is being recovered. -/
structure Requests (i : Instr) (s : State) (g : Group) (p : Path) : Prop where
  issues : Issues i s g p
  open_ : drainHeld (atIssue i s g p) (ownStore (atIssue i s g p) g) = false

end Sys2Proof.Machine

/-- A request performs the stores of its path, is performed by the context engine, acquires, and leaves its status.
CTXNEW reads its descriptor first; CTXQRY and INVLVA answer at once; CTXSTOP of a child that does not run too, and else
when its cut has ended; CTXSW when its guestbook entry is free. Which status answers where 18 R411 to R431 leave it
open, and the order in which a request's conditions are tested, are the model's choice (log entries 49 and 50). -/
def Obligations.ContextResults : Prop :=
  (∀ (i : Instr) (d : Dst) (f : Ins → Nat → State → CtxReply) (s : State) (g : Group) (p : Path),
      contextRequest i = some (d, f) → Requests i s g p →
      let u := atIssue i s g p
      let r := f (insOf i s g p) (ctxOf u g) (drainGroup u g)
      exec i s = .next (goesOn i s g p (statusIn (hearEngine r.s s.gid) s.gid d r.word))) ∧
  (∀ gd d a s g p me u1 bs, let i : Instr := .ctxnew gd d a
      let u := atIssue i s g p
      let t := drainGroup u g
      let t0 : State := { t with arrived := [] }
      let va := sGet g a.reg.toNat
      let v : State := { u1 with arrived := [], ios := tblDel u1.ios t.fresh }
      let r := newChild v (ctxOf u g) me va bs
      Requests i s g p → vmRead t0 (whoOf t0 g) va 64 .load = .ok (u1, bs) → tblFind v.ctxs (ctxOf u g) = some me →
      exec i s = .next (goesOn i s g p (statusIn (hearEngine r.s s.gid) s.gid d r.word))) ∧
  ((∀ gd d a b fld pd s g p, let i : Instr := .ctxqry gd d a b fld pd
      let u := drainGroup (atIssue i s g p) g
      let ctx := ctxOf u g
      let x := (sGet g a.reg.toNat).toNat
      let r := (if x = 0 then tblFind u.ctxs ctx else childOf u ctx x).bind fun c =>
        queryField u ctx (if x = 0 then ctx else x) c fld.toNat (sGet g b.reg.toNat).toNat
      Requests i s g p → exec i s = .next (goesOn i s g p (statusIn (hearEngine (updGroup u s.gid fun h =>
        pSet h pd.toNat (actLanes g p i) (if r.isSome then allLanes else 0)) s.gid) s.gid d (BitVec.ofNat 64 (r.getD 0))))) ∧
    (∀ gd sel lines d a b s g p, let i : Instr := .invlva gd sel lines d a b
      let u := atIssue i s g p
      let v (x : Option Src) : Long := (x.map fun r => sGet g r.reg.toNat).getD 0
      let r := invalidateVa (drainGroup u g) (ctxOf u g) sel lines (v a) (v b)
      Requests i s g p → exec i s = .next (goesOn i s g p (statusIn r.1 s.gid d (BitVec.ofNat 64 r.2)))) ∧
    (∀ gd save ckpt d a dl s g p k, let i : Instr := .ctxstop gd save ckpt d a dl
      let u := drainGroup (atIssue i s g p) g
      let x := (sGet g a.reg.toNat).toNat
      Requests i s g p → childOf u (ctxOf u g) x = some k → k.state = .new ∨ k.state = .stopped →
      exec i s = .next (goesOn i s g p (statusIn (hearEngine (if ckpt then recordCkpt u x k else u) s.gid) s.gid d 0))) ∧
    (∀ gd save ckpt d a dl s g p k, let i : Instr := .ctxstop gd save ckpt d a dl
      let u := drainGroup (atIssue i s g p) g
      let x := (sGet g a.reg.toNat).toNat
      Requests i s g p → childOf u (ctxOf u g) x = some k → k.state = .running →
      exec i s = .next (waits i s g p (updGroup (wake (stopTree (if ckpt then recordCkpt u x k else u) x 1
        ⟨dl.toNat, u.clock, save || ckpt⟩)) s.gid fun h => setEmpty (updPath h p.lanes fun q =>
          { q with await := some (.answer (BitVec.ofNat 64 x)) }) [regKey d.file d.reg.toNat] true))) ∧
    (∀ gd save ckpt d a dl s g p x, let i : Instr := .ctxstop gd save ckpt d a dl
      let u := atIssue i s g p
      issuing s = some (g, p) → p.await = some (.answer x) → actLanes g p i ≠ 0 → treeStopping u x.toNat = false →
      exec i s = .next (goesOn i s g p (statusIn (hearEngine u s.gid) s.gid d 0))) ∧
    (∀ gd d a b c dl s g p me o n, let i : Instr := .ctxsw gd d a b c dl
      let u := drainGroup (atIssue i s g p) g
      let ctx := ctxOf (atIssue i s g p) g
      let out := (sGet g a.reg.toNat).toNat
      let inc := (sGet g b.reg.toNat).toNat
      let r := switchTree u ctx out inc (sGet g c.reg.toNat).toNat dl.toNat me
      Requests i s g p → tblFind u.ctxs ctx = some me → childOf u ctx out = some o → childOf u ctx inc = some n →
      o.state = .stopped → (∀ e ∈ subtree u out, e.1 ≠ out → quadsOf u e.1 = []) →
      runRefusal u inc n (if out = inc then [] else quadsOf u out) = none → u.busy = false → bookFree u ctx me = true →
      exec i s = .next (goesOn i s g p (statusIn (hearEngine r.s s.gid) s.gid d r.word))))

/-- A refused request changes nothing: no request that reads no memory changes the machine when its status is not 0. A
request about a context that is no live child of the issuer is refused with status 1: each grant, CTXMAP, each revoke,
CTXRUN, CTXREFL, CTXSTOP, and CTXSW of either operand. -/
def Obligations.RefusedRequests : Prop :=
  (∀ (i : Instr) (d : Dst) (f : Ins → Nat → State → CtxReply) (c : Ins) (ctx : Nat) (s : State),
      contextRequest i = some (d, f) → (f c ctx s).word.toNat % 256 ≠ 0 → (f c ctx s).s = s) ∧
  (∀ (i : Instr) (a : Src) (d : Dst) (f : Ins → Nat → State → CtxReply) (c : Ins) (ctx : Nat) (s : State),
      contextRequest i = some (d, f) → childNamed i = some a → (tblFind s.ctxs ctx).isSome →
      childOf s ctx (sGet c.g a.reg.toNat).toNat = none → f c ctx s = ctxNo s 1 0 ∧ (ctxNo s 1 0).word = 1) ∧
  (∀ (i : Instr) (d : Dst) (f : Ins → Nat → State → CtxReply), contextRequest i = some (d, f) → (childNamed i).isSome) ∧
  (∀ (gd : Guard) (save ckpt : Bool) (d : Dst) (a : Src) (dl : BitVec 32) (s : State) (g : Group) (p : Path),
      let i : Instr := .ctxstop gd save ckpt d a dl
      let u := drainGroup (atIssue i s g p) g
      Requests i s g p → childOf u (ctxOf u g) (sGet g a.reg.toNat).toNat = none →
      exec i s = .next (goesOn i s g p (statusIn (hearEngine u s.gid) s.gid d 1))) ∧
  (∀ (gd : Guard) (d : Dst) (a b c : Src) (dl : BitVec 32) (s : State) (g : Group) (p : Path),
      let i : Instr := .ctxsw gd d a b c dl
      let u := drainGroup (atIssue i s g p) g
      let ctx := ctxOf (atIssue i s g p) g
      Requests i s g p → childOf u ctx (sGet g a.reg.toNat).toNat = none ∨ childOf u ctx (sGet g b.reg.toNat).toNat = none →
      exec i s = .next (goesOn i s g p (statusIn (hearEngine u s.gid) s.gid d 1)))

namespace Sys2Proof.Machine

/-- What a context has been granted, less its use, its purse and what its children have been granted (18 R434). -/
def purseGap (s : State) (k : Nat) : Option Int :=
  (tblFind s.ctxs k).map fun c => (c.granted : Int) - c.used - c.purse -
    ((s.ctxs.filter fun e => e.2.parent = k).map fun e => (e.2.granted : Int)).sum

end Sys2Proof.Machine

/-- A grant of purse that leaves the issuer some moves it exactly: for every context, the purse equation is as it was. -/
def Obligations.PurseMoves : Prop :=
  ∀ (s : State) (ctx x n : Nat) (me k : Context), tblSortedFrom none s.ctxs = true → x ≠ ctx →
    tblFind s.ctxs ctx = some me → childOf s ctx x = some k → 0 < n → n < 2 ^ 32 → (n : Int) < me.purse →
    (grantPurse s ctx x n).word = 0 ∧
    (∀ y, purseGap (grantPurse s ctx x n).s y = purseGap s y) ∧
    ((tblFind (grantPurse s ctx x n).s.ctxs x).map (·.purse)) = some (k.purse + n) ∧
    ((tblFind (grantPurse s ctx x n).s.ctxs ctx).map (·.purse)) = some (me.purse - n)

/-- A grant of quadrants gives each of them, and no other, to the child, clean: its matrix sequencer is new but for
the fences that travel with it, and its loft holds zeros. Rights are lent within the issuer's own: the child's rights
below DEBUG and its ceiling stay within the issuer's when they were. -/
def Obligations.ResourceGrants : Prop :=
  (∀ (s : State) (ctx x b c : Nat) (l : List Nat), childOf s ctx x ≠ none → maskItems b c 640 = some l →
      (grantQuad s ctx x b c).word = 0 →
      let t := (grantQuad s ctx x b c).s
      (∀ q, quadHolder t q = if q ∈ l then x else quadHolder s q) ∧
      (∀ q ∈ l, (quadOf t q).fenced = (quadOf s q).fenced ∧ (quadOf t q).holder = none ∧ (quadOf t q).queue = [] ∧
        (quadOf t q).fills = [] ∧ (quadOf t q).facts = []) ∧
      (∀ q ∈ l, ∀ o, o < 2 ^ 20 → memByte t.loft (loftKey q o) = 0) ∧ t.mem = s.mem) ∧
  (∀ (s : State) (ctx x b c : Nat) (me k : Context), x ≠ ctx → tblFind s.ctxs ctx = some me → childOf s ctx x = some k →
      k.rights &&& 7 &&& ~~~me.rights = 0 → k.ceil ≤ me.ceil →
      ∃ k1, tblFind (grantRights s ctx x b c).s.ctxs x = some k1 ∧ k1.rights &&& 7 &&& ~~~me.rights = 0 ∧ k1.ceil ≤ me.ceil ∧
        k.rights &&& k1.rights = k.rights ∧ k.ceil ≤ k1.ceil ∧ k1.purse = k.purse ∧ k1.map = k.map)

/-! ### Events -/

/-- Events of the memory system: the oldest queued store of a core is performed, unless its line's slice holds its
requests, and one that has left the caches for device registers or an alias window reaches them; an acquire lease runs
out; a die obtains a line; a write-back reaches its home; the check of a read finds an error, which is corrected and
counted, discards the copy that it is in, or poisons the data; a frame's scrub ends. The numbers of the counters that
19 R448 gives no row are the model's choice (log entry 74). -/
def Obligations.MemoryEvents : Prop :=
  (∀ s core e, s.input = .storePerform core → s.late.find? (fun e => e.core = core) = none →
    s.sq.find? (fun e => e.core = core) = some e → heldRequest s (dieOfCore core) e.asid e.va true = false →
    exec .storePerform s = .next (wake (performEntry s e))) ∧
  (∀ s core e, s.input = .storePerform core → s.late.find? (fun e => e.core = core) = some e →
    exec .storePerform s = .next (wake (performLate s e))) ∧
  (∀ s die asid va, s.input = .acquireLeaseExpiry die asid va →
    exec .acquireLeaseExpiry s = .next { s with l2 := s.l2.map fun l =>
      if l.die = die && l.asid = asid && l.va = lineOf va.toNat && l.aq ≤ s.clock then { l with aq := 0 } else l }) ∧
  (∀ s die ctx va t ln, s.input = .directoryRead die ctx va → die < 4 → (tblFind s.ctxs ctx).isSome →
    (s.mode = 4 → ctx ≤ 1 ∨ die = engineDie 16 s ctx) → heldRequest s die (asidOf ctx va) (lineOf va.toNat) false = false →
    l2Read s ⟨ctx, die, none, true⟩ va .load = .ok (t, ln) → exec .directoryRead s = .next (wake t)) ∧
  (∀ s die ctx va t ln, s.input = .directoryWrite die ctx va → die < 4 → (tblFind s.ctxs ctx).isSome →
    (s.mode = 4 → ctx ≤ 1 ∨ die = engineDie 16 s ctx) → heldRequest s die (asidOf ctx va) (lineOf va.toNat) true = false →
    l2Own s ⟨ctx, die, none, true⟩ va .store = .ok (t, ln) → exec .directoryWrite s = .next (wake t)) ∧
  (∀ s die asid va e, s.input = .directoryWriteBack die asid va →
    s.wb.find? (fun e => e.die = die && e.asid = asid && e.va = lineOf va.toNat) = some e →
    exec .directoryWriteBack s = .next (wbComplete s e)) ∧
  (∀ s site, s.input = .patrolScrub site .clean → (∀ b off, site ≠ .scratch b off) → exec .patrolScrub s = .next s) ∧
  (∀ s b off, s.input = .patrolScrub (.scratch b off) .clean → exec .patrolScrub s = .next (wake s)) ∧
  (∀ s ma, s.input = .patrolScrub (.dram ma) .corrected → regionOf s ma.toNat = .stack →
    exec .patrolScrub s = .next (count s 33 (stackPlace s ma.toNat).1 1)) ∧
  (∀ s ma, s.input = .patrolScrub (.dram ma) .uncorrectable → regionOf s ma.toNat = .stack ∨ regionOf s ma.toNat = .tier →
    exec .patrolScrub s = .next { s with
      poison := tblSet false s.poison (ma.toNat / 64) true, rewritten := tblSet 0 s.rewritten (ma.toNat / 128) 0 }) ∧
  (∀ s core ctx va found, s.input = .patrolScrub (.l1 core ctx va) found → found ≠ .clean →
    (l1Find s core ctx (asidOf ctx va) (lineOf va.toNat)).isSome →
    exec .patrolScrub s = .next (count { s with l1 := s.l1.filter fun x =>
      !(x.core = core && x.ctx = ctx && x.asid = asidOf ctx va && x.va = lineOf va.toNat) } 2 core 1)) ∧
  (∀ s die asid va ln, s.input = .patrolScrub (.l2 die asid va) .corrected →
    l2Find s die asid (lineOf va.toNat) = some ln →
    exec .patrolScrub s = .next (count s 9 (die * 16 + l2Slice ln.va) 1)) ∧
  (∀ s die asid va ln, s.input = .patrolScrub (.l2 die asid va) .uncorrectable →
    l2Find s die asid (lineOf va.toNat) = some ln → ln.st = .m ∨ ln.st = .o →
    exec .patrolScrub s = .next (count (l2Set! s { ln with poison := 3, rewritten := 0 }) 10 (die * 16 + l2Slice ln.va) 1)) ∧
  (∀ s die asid va ln t l, s.input = .patrolScrub (.l2 die asid va) .uncorrectable →
    l2Find s die asid (lineOf va.toNat) = some ln → ln.st ≠ .m → ln.st ≠ .o →
    l2Read (l2Evict s ln) ⟨Nat.max 1 asid, die, none, true⟩ va .load = .ok (t, l) → exec .patrolScrub s = .next t) ∧
  (∀ s asid va, s.input = .patrolScrub (.dir asid va) .corrected → (dirFind s asid (lineOf va.toNat)).isSome →
    exec .patrolScrub s = .next (count s 15 (dirSlice asid va.toNat) 1)) ∧
  (∀ s block off b, s.input = .patrolScrub (.scratch block off) .corrected → tblFind s.blocks block = some b →
    exec .patrolScrub s = .next (wake (count s 39 b.core 1))) ∧
  (∀ s block off b, s.input = .patrolScrub (.scratch block off) .uncorrectable → tblFind s.blocks block = some b →
    exec .patrolScrub s = .next (wake (updBlock s block fun b => { b with
      poison := off / 4 :: b.poison.filter fun w => w != off / 4 }))) ∧
  (∀ s mfn, s.input = .frameScrubComplete mfn → exec .frameScrubComplete s = .next (finishScrub s mfn))

/-- A write-back leaves the buffer, and its line's data in its home, unless another die's request has taken the line
from its holder: then memory stays. A scrubbed frame reads zero and its owner's record counts the scrub; of the rest
of memory only the word of the revoking context's frame map changes, which is valid again. -/
def Obligations.WriteBacks : Prop :=
  (∀ (s : State) (e : WbEntry),
    let back : Prop := tracked s e.asid e.va = false ∨
      ((dirFind s e.asid e.va).bind fun d => d.owner.map (·.1)) = some e.die
    (back → memLine (wbComplete s e).mem e.ma = e.data ∧
      ∀ x, x < e.ma ∨ e.ma + 128 ≤ x → byteAt (wbComplete s e) x = byteAt s x) ∧
    (¬ back → (wbComplete s e).mem = s.mem) ∧
    (∀ x ∈ (wbComplete s e).wb, ¬ (x.die = e.die ∧ x.asid = e.asid ∧ x.va = e.va))) ∧
  (∀ (s : State) (mfn : Nat), scrubbing s mfn = true →
    let word : Option Nat := (revoker s mfn).bind fun r => (tblFind s.ctxs r.1).bind fun c => mapWordAt c r.2
    let inWord (x : Nat) : Prop := ∃ a, word = some a ∧ a ≤ x ∧ x < a + 8
    (∀ x, mfn * frameBytes ≤ x → x < (mfn + 1) * frameBytes → ¬ inWord x → byteAt (finishScrub s mfn) x = 0) ∧
    (∀ x, x < mfn * frameBytes ∨ (mfn + 1) * frameBytes ≤ x → ¬ inWord x → byteAt (finishScrub s mfn) x = byteAt s x) ∧
    (∀ k cfn c e a, revoker s mfn = some (k, cfn) → tblFind s.ctxs k = some c → tblFind c.map cfn = some e →
      mapWordAt c cfn = some a →
      memBytes (finishScrub s mfn).mem a 8 = bytesOfNat 8 (mapWord (some { e with state := .valid }))) ∧
    scrubbing (finishScrub s mfn) mfn = false ∧
    (ownerOf (finishScrub s mfn) mfn).scrubs = (ownerOf s mfn).scrubs + 1)

/-- Events of the groups: a producer that is ready writes and its registers are full; a request for chunks is granted;
an EVWAIT times out; a line arrives, and one with bad parity is read again; a split that has been ready for 64 cycles
without issuing is boosted; a group whose lanes have exited ends. -/
def Obligations.GroupEvents : Prop :=
  (∀ s id p, s.input = .producerCompletion id → tblFind s.producers id = some p → p.ready = true →
    exec .producerCompletion s = .next (wake (updGroup { s with producers := tblDel s.producers id } p.gid fun g =>
      setEmpty (p.preds.foldl (fun g e => pSet g e.1 (e.2.1 &&& g.live) e.2.2) (p.writes.foldl writeReg g)) p.marks false))) ∧
  (∀ s q gid m r, s.input = .chunkGrant q → tblGet [] s.chunkQ q = (gid, m) :: r → chunkCount m ≤ poolFree s q →
    exec .chunkGrant s = .next (wake { grantChunks s gid m with chunkQ := tblSet [] s.chunkQ q r })) ∧
  (∀ s gid sp g, s.input = .evwaitTimeout gid sp → tblFind s.groups gid = some g →
    exec .evwaitTimeout s = .next (wake { s with
      groups := tblPut s.groups gid { g with
        paths := g.paths.map fun p => match p.await with
          | some (.evwait _ (some t)) => if t ≤ s.clock ∧ p.split = sp then { p with await := some (.answer 0) } else p
          | _ => p } })) ∧
  (∀ s q asid line flip t l u, s.input = .lineFetch q asid line flip → q < 640 →
    let w : Who := ⟨if asid = 0 then 1 else asid, dieOfQuad q, some (coreOfQuad q), true⟩
    let va : Long := BitVec.ofNat 64 (line.toNat / 64 * 64)
    readCode s w va = .ok (t, l, u) →
    (lineParityOk (l ^^^ flip) = true →
      exec .lineFetch s = .next (wake (keepLine t w q va u (l ^^^ flip)))) ∧
    (∀ t2 l2 u2, lineParityOk (l ^^^ flip) = false → readCodeAgain t w va = .ok (t2, l2, u2) → lineParityOk l2 = true →
      exec .lineFetch s = .next (wake (keepLine t2 w q va u2 l2)))) ∧
  (∀ s gid sp g x, s.input = .splitBoost gid sp → tblFind s.groups gid = some g →
    x ∈ g.splits → x.num = sp → 64 ≤ x.ready → x.boost = false →
    exec .splitBoost s = .next { s with
      groups := tblPut s.groups gid
        { g with splits := g.splits.map fun x =>
            if x.num = sp ∧ 64 ≤ x.ready then { x with boost := true } else x } }) ∧
  (∀ s gid g, s.input = .groupFinalExit gid → tblFind s.groups gid = some g → g.live = 0 → groupBusy s gid = false →
    exec .groupFinalExit s = .next (endGroup s gid))

/-- Events of the distributor and the context engine: acceptance, dependences, admission, placement, retirement,
curfews, slices, purse charges, cuts and drain deadlines. That a grid of no blocks completes at its admission (log entry
43), and the unit in which grid energy is held (log entry 55), are the model's choice. -/
def Obligations.DistributorEvents : Prop :=
  (∀ s q k c t bs, s.input = .commandAccept q → q < 4096 → queueHolder s q = k → tblFind s.ctxs k = some c →
    queueLive s k q = true → pendingIn s q ≤ 2 ^ (queueOf s q).log2 → canonical (queueOf s q).base = true →
    queueTurn s k q = true → bookFree s k c = true →
    engineReadLong s (whoEngine s k) (headEntry s q) .load 8 = .ok (t, bs) →
    exec .commandAccept s = .next (acceptCommand t k q c bs)) ∧
  (∀ s id g c t bs, s.input = .dependenceComplete id → pendingGrid s id = some (g, c) → g.ready = false →
    tblFind s.opReads id = none → vmRead s (whoEngine s g.ctx) g.desc.depbo 24 .load = .ok (t, bs) →
    tblFind t.opReads id = none →
    ((barObj bs).failed = true → exec .dependenceComplete s = .next (failCommand t id 0x15 (barObj bs).cause)) ∧
    ((barObj bs).failed = false → boComplete (barObj bs) = true → bit g.desc.dflags 0 = false →
      exec .dependenceComplete s = .next (wake (updGrid (acquireDep t id g) id fun g => { g with ready := true }))) ∧
    (∀ t2 ds, (barObj bs).failed = false → boComplete (barObj bs) = true → bit g.desc.dflags 0 = true →
      vmRead { acquireDep t id g with arrived := [] } (whoEngine (acquireDep t id g) g.ctx) g.desc.dimva 8 .load =
        .ok (t2, ds) →
      let u := updGrid { t2 with arrived := [], ios := tblDel t2.ios t.fresh, opReads := tblDel t2.opReads id } id fun g =>
        { g with ready := true, desc := { g.desc with gx := field ds 0 4, gy := field ds 4 2, gz := field ds 6 2 } }
      exec .dependenceComplete s = .next (if gridFits u id then wake u else failCommand u id 0x17 0))) ∧
  (∀ s id g c, s.input = .admission id → pendingGrid s id = some (g, c) → 0 < c.purse → (g.desc.pmin : Int) ≤ c.purse →
    g.ready = true → g.admitted = false → unplaced s g.ctx = false →
    exec .admission s = .next (if gridBlocks g.desc = 0 then wake (dropGrids (setGridState s id .complete 0 0) id)
      else updGrid s id fun g => { g with admitted := true })) ∧
  (∀ s part, s.input = .placementOpportunity part →
    exec .placementOpportunity s = .next (wake ((s.ctxs.filter fun e => e.2.state = .running &&
      (ctxDies s e.1).any fun d => partitionOf s d = part).foldl (fun s e => placeFor s e.1) s))) ∧
  (∀ s id g, s.input = .gridRetire id → tblFind s.grids id = some g → mayRetire s id g = true →
    exec .gridRetire s = .next (wake (dropGrids (match g.failure with
      | some (cause, detail) => setGridState (hearEnds s id g) id .failed cause detail
      | none => setGridState (hearEnds s id g) id .complete 0 0) id))) ∧
  (∀ s k x g, s.input = .curfewExpiry k → tblFind s.inns k = some x → tblFind s.grids x.grid = some g →
    sourcesOpen s g.ctx = true → 32 ≤ x.lodgers.length ∨ (∃ t, x.timer = some t ∧ t ≤ s.clock) →
    exec .curfewExpiry s = .next (if x.lodgers = [] then { s with inns := tblPut s.inns k { x with timer := none } }
      else wake (departCoach s k))) ∧
  (∀ s k c, s.input = .sliceEnd k → tblFind s.ctxs k = some c → c.state = .running →
    (∃ t, c.sliceEnd = some t ∧ t ≤ s.clock) →
    exec .sliceEnd s = .next (wake (stopTree { s with ctxs := tblPut s.ctxs k { c with sliceEnd := none } } k 2
      ⟨c.sliceD, s.clock, false⟩))) ∧
  (∀ s l, s.input = .purseCharge l →
    exec .purseCharge s = .next (
      let t : State := { l.foldl chargeOne s with ctxs := tblMap (l.foldl chargeOne s).ctxs fun _ c =>
        { c with purse := c.purse - (c.nano / 1000 : Nat), used := c.used + c.nano / 1000, nano := c.nano % 1000 } }
      wake (t.ctxs.foldl (fun u e => exhaust s u e.1) t))) ∧
  (∀ s k c st, s.input = .cutDrainComplete k → tblFind s.ctxs k = some c → c.state = .stopping → c.stop = some st →
    (drained (chooseAll s k st) k = true → exec .cutDrainComplete s = .next (finishStop (chooseAll s k st) k)) ∧
    (drained (chooseAll s k st) k = false → exec .cutDrainComplete s = .next (chooseAll s k st))) ∧
  (∀ s id b g st, s.input = .drainDeadline id → tblFind s.blocks id = some b → tblFind s.grids b.grid = some g →
    (tblFind s.ctxs g.ctx).bind (·.stop) = some st → b.method = some .drain → st.since + st.deadline ≤ s.clock →
    exec .drainDeadline s = .next (setMethod s id b (laterMethod s id b g.ctx g)))

/-- A group starts with its threads as live lanes in one path at ENTRY0, its thread indices in v0, the image base,
PARAM, the dimensions and BTHREADS in s0 to s3, every other register and predicate zero, and the special registers of
a group at their reset values (09 R219). -/
def Obligations.GroupStart : Prop :=
  ∀ (g : Grid) (grid block quad k : Nat) (serial : Long) (kbase pc : Long),
    let h := startGroup g grid block quad k serial (threadLanes g k) (threadRegs k) kbase pc
    (∀ l, l < 32 → h.live.getLsbD l = decide (32 * k + l < g.desc.bthreads)) ∧
    (∀ l, l < 32 → vGet h 0 l = BitVec.ofNat 32 (32 * k + l)) ∧
    (∀ r l, 0 < r → l < 32 → vGet h r l = 0) ∧
    sGet h 0 = g.image ∧ sGet h 1 = g.desc.param ∧
    sGet h 2 = BitVec.ofNat 64 (g.desc.gx + g.desc.gy * 2 ^ 32 + g.desc.gz * 2 ^ 48) ∧
    sGet h 3 = BitVec.ofNat 64 g.desc.bthreads ∧ (∀ r, 3 < r → sGet h r = 0) ∧
    (∀ q, q < 7 → pGet h q = 0) ∧ pGet h 7 = allLanes ∧
    h.paths = [⟨0, h.live, pc, 0, [], .current, none, true, true, 0, none, 0, false, none⟩] ∧ h.families = [] ∧ h.empty = [] ∧
    h.handler = false ∧ h.fltmask = 0 ∧ h.fltrec = 0 ∧ h.idem = false ∧ h.chunks = 0 ∧
    h.grow = 0 ∧ h.tstate = 0 ∧ h.scl = [] ∧
    (∀ i, i < 64 → bits ((h.perm.getD (i / 8) 0).toNat) (8 * (i % 8) + 7) (8 * (i % 8)) = i)

namespace Sys2Proof.Machine

/-- A packet that comes by a port and that its destination admits: the port's engine serves, no mode change is in
progress, the packet's KIND is an assigned one, and the destination is a context of this package that runs and lists
the sender as an endpoint (14 R345-R348, 01 R20). -/
structure Admits (s : State) (port : Nat) (p : Packet) (c : Context) : Prop where
  serves : engineServes s (4 + port) = true
  free : s.busy = false
  kind : kindCode p.kind < 7
  here : p.dpkg = s.ownPkg
  dest : tblFind s.ctxs p.dctx.toNat = some c
  runs : c.state = .running
  lists : (c.endpoints.any fun e => e.2.pkg = p.spkg && e.2.ctx = p.sctx) = true

/-- The machine after a transfer of an operation has been written and noted. -/
def transferNoted (s : State) (id : Nat) (o : PorterOp) : State :=
  flushRecs (updOp s id fun x =>
    if x.state = .running then
      { x with next := o.next + 1, unacked := x.unacked ++ [o.next]
               bytes := x.bytes + (if o.remote.isSome then 0 else transferBytes ((transfersOf o.segs).getD o.next [])) }
    else x)

/-- The operation runs at a porter and its next transfer waits for nothing: neither its block's stop, nor a credit,
nor a line, nor the host (08 R194, R203, R204). -/
structure NextTransfer (s : State) (id : Nat) (o : PorterOp) (l : List PSeg) : Prop where
  op : tblFind s.porterOps id = some o
  runs : o.state = .running
  more : o.next < o.count
  open_ : engineOpen s o.ctx o.block = true
  goes : transferWaits s o = false
  local_ : hostReads s id o l = []

/-- Events of the porters: a porter that is free takes the next operation of its die, and resends what has not been
acknowledged; the next transfer of an
operation that runs is read and written or sent, and noted, and counted where it has a counter; an acknowledgement
ends a transfer; an operation all of whose transfers have ended ends and its registers are full. -/
def porterEvents : Prop :=
  (∀ s n id o, s.input = .porterDispatch n → n < 48 → tblFind s.porters n = none → nextOp s (n / 12) = some (id, o) →
    let t := updOp { s with porters := tblPut s.porters n id, porterCtx := tblSet 0 s.porterCtx (n / 12) o.ctx }
      id fun o => { o with state := .running }
    (o.remote.isSome → exec .porterDispatch s = .next (resendAfter t (ofOp id))) ∧
    (o.remote = none → o.counter = none ∨ o.unacked = [] → exec .porterDispatch s = .next t) ∧
    (o.remote = none → o.counter.isSome → o.unacked ≠ [] →
      exec .porterDispatch s = .next (count t 34 0 o.unacked.length))) ∧
  (∀ s id off e o0 o, s.input = .transferWritten id off e → tblFind s.porterOps id = some o0 → o0.state = .running →
    let u := sourceEcc s o0 off e
    let l := (transfersOf o.segs).getD o.next []
    NextTransfer u id o l → o.reg = none →
    (∀ v bs w, o.remote = none → o.counter = none → readRuns id o l u = .ok (v, bs) →
      writePieces id o (piecesOf (BitVec.ofNat 64 (transferLo l)) (transferBytes l)) (transferImage l bs) v = (w, none) →
      exec .transferWritten s = .next (transferNoted w id o)) ∧
    (∀ v bs w c g, o.remote = none → o.counter = some c → readRuns id o l u = .ok (v, bs) →
      writePieces id o (piecesOf (BitVec.ofNat 64 (transferLo l)) (transferBytes l)) (transferImage l bs) v = (w, none) →
      tblFind w.groups o.gid = some g →
      let n := (o.seq.toNat + o.next) % 2 ^ 32
      (addPoisoned w o.block c.1 c.2 (senderOf w o.ctx) n = false →
        exec .transferWritten s = .next (transferNoted (wake (arrivalAdd w o.block c.1 c.2 (transferBytes l)
          (senderOf w o.ctx) n (engineOf (agentOf w o.gid g)) (viewTimes w (opCore id) o.ctx o.die))) id o)) ∧
      (addPoisoned w o.block c.1 c.2 (senderOf w o.ctx) n = true →
        exec .transferWritten s = .next (transferNoted (stopOp w id o (.data (BitVec.ofNat 64 c.2))) id o))) ∧
    (∀ v bs r, o.remote = some r → readRuns id o l u = .ok (v, bs) →
      exec .transferWritten s = .next (transferNoted (sendPacket v o.ctx r.port
        { plainPacket v .fxfer o.ctx r.pkg r.ctx (o.seq + BitVec.ofNat 32 o.next) (transferImage l bs) with
          addr := BitVec.ofNat 64 (transferLo l) } false (r.counter.map fun c => (r.die, c)) (.xfer id o.next)) id o))) ∧
  (∀ s id off e o0 o reg prod lanes, s.input = .transferWritten id off e → tblFind s.porterOps id = some o0 →
    o0.state = .running → NextTransfer (sourceEcc s o0 off e) id o o.segs → o.remote = none → o.reg = some (reg, prod, lanes) →
    exec .transferWritten s = .next (gatherReg (sourceEcc s o0 off e) id o reg prod (laneList lanes))) ∧
  (∀ s id seq o, s.input = .transferAcknowledgement (.op id) seq → tblFind s.porterOps id = some o →
    o.remote = none → (seq - o.seq).toNat ∈ o.unacked → o.slot ≠ 64 →
    let i := (seq - o.seq).toNat
    let t := updOp s id fun x => { x with unacked := x.unacked.filter fun k => k != i }
    (o.counter = none → exec .transferAcknowledgement s = .next (finishOp t id)) ∧
    (∀ die off, o.counter = some (die, off) → exec .transferAcknowledgement s =
      .next (finishOp (arrivalClose t o.block die off (senderOf t o.ctx) seq.toNat) id))) ∧
  (∀ s pkg ctx seq, s.input = .transferAcknowledgement (.credit pkg ctx) seq → pkg ≠ s.ownPkg →
    exec .transferAcknowledgement s = .next (wake (closeCredits s (pkg.toNat * 2 ^ 16 + ctx.toNat) seq.toNat))) ∧
  (∀ s ctx seq f, s.input = .transferAcknowledgement (.packet ctx) seq → flightOf s ctx seq = some f →
    let t := dropFlight (progress s f) ctx seq
    (∀ id i o, f.owner = .xfer id i → tblFind t.porterOps id = some o → (seq - o.seq).toNat ∈ o.unacked →
      exec .transferAcknowledgement s = .next (finishOp (ackTransfer t id seq) id)) ∧
    (∀ k n, f.owner = .slot k n → exec .transferAcknowledgement s = .next (sentDone t k n))) ∧
  (∀ s id o, s.input = .porterOperationEnd id → tblFind s.porterOps id = some o → opActive o = true → o.count ≤ o.next →
    o.unacked = [] →
    (o.cancel = false → exec .porterOperationEnd s = .next (wake (flushRecs (answerOp (freePorter (freeOp
      (endReg (releaseDone s o.gid id) { o with state := .done }) id) id) id { o with state := .done })))) ∧
    (o.cancel = true → exec .porterOperationEnd s = .next (wake (flushRecs (answerOp (freePorter (freeOp
      (endReg s { o with state := .cancelled }) id) id) id { o with state := .cancelled })))))

/-- Events of the fabric: a packet that its destination admits is performed and answered, one that has been performed
is answered again; a chunk takes a slot of its engine, or is negatively acknowledged; an answer ends what it answers;
a packet that is not acknowledged is sent again, and its path fails after 64 resends or 500 ms without progress. -/
def fabricEvents : Prop :=
  (∀ s port p cnt c, s.input = .fxferData port p cnt → Admits s port p c →
    let w := packetWho s port p
    let noted (t : State) : State := updCtx t p.dctx.toNat fun c => { c with ndet := true }
    (∀ t, cnt = none → packetHeld s w p.addr p.payload.length = false →
      vmWrite s w p.addr p.payload .porterWrite = .ok t → exec .fxferData s = .next (wake (ackWire (noted t) port p))) ∧
    (∀ t k b, cnt = some k → remoteBlock s p.dctx.toNat k.1 k.2 = some b →
      (arrival s b true k.2).seen.contains (p.spkg.toNat * 2 ^ 16 + p.sctx.toNat, p.seq.toNat) = false →
      packetHeld s w p.addr p.payload.length = false →
      (if localSender s (p.spkg.toNat * 2 ^ 16 + p.sctx.toNat) then monitorRoom s b true k.2
        else creditFree s b true k.2) = true →
      vmWrite s w p.addr p.payload .porterWrite = .ok t →
      exec .fxferData s = .next (wake (ackWire (arrivalAdd (noted t) b true k.2 p.payload.length
        (p.spkg.toNat * 2 ^ 16 + p.sctx.toNat) p.seq.toNat (paoridAgent w.ctx)
        (viewTimes (noted t) (relayCore (4 + port)) w.ctx w.die)) port p))) ∧
    (∀ k b, cnt = some k → remoteBlock s p.dctx.toNat k.1 k.2 = some b →
      (arrival s b true k.2).seen.contains (p.spkg.toNat * 2 ^ 16 + p.sctx.toNat, p.seq.toNat) = true →
      exec .fxferData s = .next (ackWire (count s 34 0 1) port p))) ∧
  (∀ s port p op ty v c, s.input = .fatomRequest port p op ty v → Admits s port p c →
    let w := packetWho s port p
    let n := fatomSize ty
    let noted (t : State) : State := updCtx t p.dctx.toNat fun c => { c with ndet := true }
    (∀ a, s.answered.find? (fun a => a.pkg = p.spkg.toNat && a.ctx = p.sctx.toNat && a.seq = p.seq) = some a →
      exec .fatomRequest s = .next { s with wire := s.wire ++
        [.reply port (answerPacket s .fatomReply p (bytesOfNat 16 (a.old.toNat + a.status.toNat * 2 ^ 64))) a.old a.status] }) ∧
    (∀ t bs u, s.answered.find? (fun a => a.pkg = p.spkg.toNat && a.ctx = p.sctx.toNat && a.seq = p.seq) = none →
      p.addr.toNat % n = 0 → packetHeld s w p.addr n = false →
      (s.remoteAtoms.any fun a => a.p.spkg = p.spkg && a.p.sctx = p.sctx && a.p.seq = p.seq) = false →
      l2ReadBytes s w p.addr n .atomic = .ok (t, bs, false) →
      l2Write (atomHears t w p.addr n) w p.addr
        (bytesOfNat n (atomNew op ty (8 * n) (natOfBytes bs) (v.toNat % 2 ^ elemBits ty))) .atomic true = .ok u →
      exec .fatomRequest s = .next (wake (replyAtom (noted (atomTells u w p.addr n)) port p
        (BitVec.ofNat 64 (natOfBytes bs)) 0)))) ∧
  (∀ s ctx seq old status f gid prod dst, s.input = .fatomReply ctx seq old status → s.busy = false →
    ctxStopped s ctx = false →
    flightOf s ctx seq = some f → f.owner = .fatom gid prod dst → (tblFind s.producers prod).isSome →
    exec .fatomReply s = .next (endAtom (dropFlight (progress s f) ctx seq) prod dst old status)) ∧
  (∀ s ctx seq cls r f, s.input = .refusal ctx seq cls r → s.busy = false → ctxStopped s ctx = false →
    flightOf s ctx seq = some f →
    let t := dropFlight s f.ctx f.p.seq
    (∀ id i o, f.owner = .xfer id i → tblFind t.porterOps id = some o → opActive o = true →
      exec .refusal s = .next (dropTransfer (faultOp t id 0xF1 r) id i 0)) ∧
    (∀ gid prod dst, f.owner = .fatom gid prod dst → (tblFind t.producers prod).isSome →
      exec .refusal s = .next (endAtom (freeNext t).2 prod dst (BitVec.ofNat 64 (freeNext t).1) (cls.setWidth 64))) ∧
    (∀ k n, f.owner = .slot k n → (tblFind t.instances k).isSome → exec .refusal s = .next (wake (relayFault t k 7 none)))) ∧
  (∀ s eng port ecc mfn b g t a, s.input = .contribution eng port none ecc → nextContribution s eng port = some (mfn, b, g) →
    engineArrive s (stageSlot s b g ecc) true = (t, a) →
    (a ≠ .refused → exec .contribution s = .next (wake (updBinding t mfn fun b => { b with stages := b.stages.map fun y =>
      if y.epoch = g.epoch ∧ y.chunk = g.chunk then { y with taken := true } else y }))) ∧
    (a = .refused → exec .contribution s = .next (count t 28 eng 1))) ∧
  (∀ s eng port p ecc c i, (i = .partialArrival ∧ s.input = .partialArrival eng port p ecc) ∨
      (i = .resultArrival ∧ s.input = .resultArrival eng port p ecc) ∨
      (i = .contribution ∧ s.input = .contribution eng port (some p) ecc) → Admits s port p c → engineServes s eng = true →
    ((members s p.cid.toNat).any fun e => e.2.engine = eng) = true →
    ∀ t a, engineArrive s (packetSlot s eng port p ecc) (slotFree s p.dctx.toNat) = (t, a) →
      (a = .taken → exec i s = .next (wake t)) ∧ (a = .duplicate → exec i s = .next (wake (ackWire t port p))) ∧
      (a = .refused → exec i s = .next (nackWire t eng port p))) ∧
  (∀ s ctx seq f, s.input = .negativeAcknowledgement ctx seq → flightOf s ctx seq = some f →
    let t := count s 29 (flightEngine s f) 1
    (pathDead s f = false → sourcesOpen s ctx = true → exec .negativeAcknowledgement s = .next (resend t (namedBy f))) ∧
    (pathDead s f = true → exec .negativeAcknowledgement s = .next (endFlight t f 0 0x100 6))) ∧
  (∀ s ctx seq f, s.input = .packetResendTimeout ctx seq → flightOf s ctx seq = some f →
    (pathDead s f = false → sourcesOpen s ctx = true → exec .packetResendTimeout s = .next (resend s fun g => g.ctx = ctx && g.p.seq = seq)) ∧
    (pathDead s f = true → exec .packetResendTimeout s = .next (endFlight s f 0 0x100 6)))

/-- Events of the quadrants: an operation that is ready starts a pass, with those of its key; a pass ends with its
results, or with a residue check that fails; a self-test that is due injects its fault; a fill writes its bytes; a
column of a factorisation commits or fails its check, and in a context that stops its operation is interrupted there; an
operation at the head of its queue ends; units of a tile are read before the others are (13 R316). -/
def quadEvents : Prop :=
  (∀ s q o same, s.input = .passStart q → readyPass s q = some (o, same) → (∀ f, headFact s q = some f → o.since ≤ f.since) →
    exec .passStart s = .next (wake (updQuad s q fun x => { x with
      pass := same, queue := x.queue.filter fun o => !same.contains o }))) ∧
  (∀ s q bad off e, s.input = .passEnd q bad off e → (quadOf s q).pass ≠ [] →
    (∀ rb, bad = some rb → (quadOf s q).fenced.getLsbD rb.val = false →
      exec .passEnd s = .next (wake (runTests (residueFailed (loftEcc s q off e) q rb.val) q))) ∧
    ((∀ rb, bad = some rb → (quadOf s q).fenced.getLsbD rb.val = true) →
      exec .passEnd s = .next (finishPass (loftEcc s q off e) q))) ∧
  (∀ s q rb f1 f2, s.input = .selfTestInject q rb f1 f2 → q < 640 → (quadOf s q).fenced.getLsbD rb.val = false →
    testDue s q = true →
    let b : BitVec 4 := BitVec.ofNat 4 (2 ^ rb.val)
    let t := count (updQuad s q fun x => { x with
      faulty := if f2 then x.faulty ||| b else x.faulty &&& ~~~b, passes := 0, idle := s.clock }) 21 q 1
    (f1 = false → exec .selfTestInject s = .next (wake (runTests t q))) ∧
    (f1 = true → f2 = false → exec .selfTestInject s = .next (wake (runTests (countFailed t q 1) q))) ∧
    (f1 = true → f2 = true → exec .selfTestInject s = .next (wake (runTests (fenceRow (countFailed t q 2) q rb.val) q)))) ∧
  (∀ s q off e f r, s.input = .loftFillComplete q off e → (quadOf s q).fills = f :: r →
    (f.die = true ∨ (∃ t cols, f.kind = .tile t cols) → exec .loftFillComplete s = .next (completeFill s q)) ∧
    (f.die = false → (∀ t cols, f.kind ≠ .tile t cols) →
      exec .loftFillComplete s = .next (completeFill (scratchEcc s (blockIdOf s f.gid) off e) q)) ∧
    (∀ src dst n w, e = .clean → f.kind = .copy src dst n →
      let t := updQuad s q fun x => { x with fills := r }
      scratchPoison t (blockIdOf s f.gid) f.die src n = false → windowOf t (blockIdOf s f.gid) q = some w →
      exec .loftFillComplete s =
        .next (wake (loftWrite t q (w.off + dst) (scratchRead t (blockIdOf s f.gid) f.die src n))))) ∧
  (∀ s q bad off e o r, s.input = .columnCommit q bad [] off e → (quadOf s q).facts = o :: r → isFactor o.kind = true →
    let u := loftEcc s q off e
    (groupOpen s o.gid = true → headFact u q = some o → arrayFree u q o = true → failedRow u q bad = none →
      exec .columnCommit s = .next (stepColumn u q o)) ∧
    (∀ rb, groupOpen s o.gid = true → headFact u q = some o → arrayFree u q o = true → failedRow u q bad = some rb →
      exec .columnCommit s = .next (wake (runTests (residueFailed u q rb) q))) ∧
    (groupOpen s o.gid = false → o.started = true →
      exec .columnCommit s = .next (interruptAtCommit u q bad o))) ∧
  (∀ s q off e o r, s.input = .factorisationEnd q [] off e → (quadOf s q).facts = o :: r →
    let u := loftEcc s q off e
    headFact u q = some o →
    (isFactor o.kind = false → arrayFree u q o = true → exec .factorisationEnd s = .next (runFact u q o)) ∧
    (∀ g, isFactor o.kind = true → tblFind u.groups o.gid = some g → o.n ≤ tstateNext g.tstate →
      exec .factorisationEnd s = .next (completeFact u q o))) ∧
  (∀ s q early off e o r, early ≠ [] → (quadOf s q).facts = o :: r →
    (∀ bad, s.input = .columnCommit q bad early off e → isFactor o.kind = true →
      exec .columnCommit s = .next (readEarly s q early)) ∧
    (s.input = .factorisationEnd q early off e → isFactor o.kind = false →
      exec .factorisationEnd s = .next (readEarly s q early)))

end Sys2Proof.Machine

/-- The events of the porters (`porterEvents`), of the fabric (`fabricEvents`) and of the quadrants (`quadEvents`):
under the conditions in which each takes place, its effect. The free old value of a refused FATOM (log entry 58), the
block through which a remote counter is reached (log entry 60), the order in which contributions are delivered (log
entry 61) and the choice of a pass (log entry 63) are the model's choice. -/
def Obligations.EngineEvents : Prop := porterEvents ∧ fabricEvents ∧ quadEvents

namespace Sys2Proof.Machine

/-- The bytes from `a` lie outside the n bytes from `b`. -/
def apart (a m b n : Nat) : Prop := a + m ≤ b ∨ b + n ≤ a

/-- The counter word after transfer k of an operation has been added: its low 63 bits have grown by the transfer's
bytes, unless the counter has counted this transfer before (08 R201, R203). -/
def countedWord (s : State) (o : PorterOp) (die : Bool) (off k n : Nat) : Nat :=
  let w := natOfBytes (scratchRead s o.block die off 8)
  if (arrival s o.block die off).seen.contains (senderOf s o.ctx, (o.seq.toNat + k) % 2 ^ 32) then w
  else w / 2 ^ 63 * 2 ^ 63 + (w % 2 ^ 63 + n) % 2 ^ 63

end Sys2Proof.Machine

/-- A porter's copy between the block scratchpad and itself, one run long, writes the bytes that it read and no others.
A counted operation adds the transfer's bytes to its counter, in the block scratchpad or in the die's, once; the counter
of these clauses is not among the bytes written, and its target, if it has one, is not overrun. -/
def Obligations.TransferBytes : Prop :=
  ∀ (s : State) (id k : Nat) (o : PorterOp) (x : PSeg) (b : Block), tblFind s.porterOps id = some o → o.ssp = .bs →
    o.dsp = .bs → (transfersOf o.segs)[k]? = some [x] → tblFind s.blocks o.block = some b →
    x.dst + x.len ≤ 2 ^ 20 → scratchPoison s o.block false x.src x.len = false →
    let t := runTransfer s id k
    (o.counter = none →
      scratchRead t o.block false x.dst x.len = scratchRead s o.block false x.src x.len ∧
      (∀ a n, apart a n x.dst x.len → scratchRead t o.block false a n = scratchRead s o.block false a n) ∧
      t.mem = s.mem) ∧
    (∀ die off g, o.counter = some (die, off) → tblFind s.groups o.gid = some g →
      (die = true → (sliceOf s b.grid b.die).isSome = true) → (die = false → apart off 8 x.dst x.len) →
      scratchPoison s o.block die off 8 = false →
      (∀ w, (arrival s o.block die off).target = some w →
        natOfBytes (scratchRead s o.block die off 8) % 2 ^ 63 + x.len ≤ w.toNat) →
      scratchRead t o.block false x.dst x.len = scratchRead s o.block false x.src x.len ∧
      natOfBytes (scratchRead t o.block die off 8) = countedWord s o die off k x.len ∧
      (∀ d a n, (d = false → apart a n x.dst x.len) → (d = die → apart a n off 8) →
        scratchRead t o.block d a n = scratchRead s o.block d a n) ∧
      t.mem = s.mem)

/-! ### The host complex and the host edge -/

namespace Sys2Proof.Machine

/-- The host complex takes a management request: its firmware runs, and the package is not in recovery (19 R444-R447). -/
def manages (s : State) : Prop := s.firmware.restart = false ∧ s.stage ≠ .rom ∧ s.stage ≠ .recovery

/-- The host complex takes a request of the firmware update. -/
def updates (s : State) : Prop := s.firmware.restart = false ∧ s.stage ≠ .rom

end Sys2Proof.Machine

/-- Boot and management: images are verified in order, the root is created when the engines are ready, and requests
are answered. Before its firmware runs, and in recovery unless it is of the firmware update, the host complex refuses a
request, and while it restarts it is busy. The refusals before the firmware runs, and the free answers to GETCERTIFICATE
and CHALLENGE, are the model's choice (log entries 67 and 3). -/
def Obligations.ManagementEvents : Prop :=
  (∀ s ty x, s.input = .imageVerify ty → s.stage = .rom ∨ s.stage = .firmware → ty = s.firmware.verified.length + 1 → ty ≤ 4 →
    (tblFind s.firmware.banks (2 * ty + tblGet 0 s.firmware.active ty)).filter (imageOk s.firmware ty) = some x →
    exec .imageVerify s = .next (tookImage s ty x)) ∧
  (∀ s ty, s.input = .imageVerify ty → s.stage = .rom ∨ s.stage = .firmware → ty = s.firmware.verified.length + 1 → ty ≤ 4 →
    (∀ b x, tblFind s.firmware.banks (2 * ty + b) = some x → imageOk s.firmware ty x = false) →
    exec .imageVerify s = .next { s with stage := .recovery }) ∧
  (∀ s tier gtroot globals, s.input = .stageReady tier gtroot globals → s.stage = .engines →
    ((tblFind s.ctxs 1).isSome → exec .stageReady s = .next (wake { s with stage := .ready })) ∧
    (tblFind s.ctxs 1 = none → exec .stageReady s = .next (wake { s with
      stage := .ready
      secondTier := Nat.min (tier / 4 * 4) (2 ^ 22)
      gtroot := gtroot % 2 ^ 48
      owners := (globals.filter fun f => f < 393216).foldl (fun t f => tblPut t f ⟨.global, 1, 0⟩) s.owners
      ctxs := tblPut s.ctxs 1 (rootContext s.firmware.boot) }))) ∧
  (∀ s m, s.input = .partmodeChange m → manages s → s.busy = false → s.firmware.update = none → legalMode m →
    exec .partmodeChange s = .next { wake { s with
      busy := true, newMode := some m
      ctxs := tblMap s.ctxs fun _ c => if c.state = .running then
        { c with state := .stopping, cause := 5, stop := some ⟨0, s.clock, true⟩ } else c } with reply := ⟨.ok, 0⟩ }) ∧
  (∀ s m, s.newMode = some m → s.busy = true → (s.ctxs.any fun e => ctxLive e.2) = false →
    exec .partmodeMoveComplete s = .next (finishMode s)) ∧
  (∀ s j, s.input = .directorySliceFence j → manages s → j < 8 →
    exec .directorySliceFence s = .next { loseSlice s j 3 with reply := ⟨.ok, 0⟩ }) ∧
  (∀ s j on, s.input = .directorySliceLost j on → j < 8 →
    exec .directorySliceLost s = .next (loseSlice s j (if on then 1 else 2))) ∧
  (∀ s j, s.input = .sliceRecoveryComplete j → exec .sliceRecoveryComplete s =
    .next (wake { s with dirStatus := tblUpd s.dirStatus j fun d => { d with recov := false } })) ∧
  (∀ s vf kind b c x, s.input = .vfContextGrant vf kind b c → manages s → tblFind s.vfs vf = some x →
    let r := grantVf s x kind b c
    exec .vfContextGrant s = .next { r.s with
      reply := ⟨grantReply (r.word.toNat % 256), r.word.toNat⟩ }) ∧
  (∀ s k n, s.input = .getCounter k n → manages s → k ≤ 32 → n < counterHolders k →
    exec .getCounter s = .next { s with reply := ⟨.ok, tblGet 0 s.counters (k * 65536 + n)⟩ }) ∧
  (∀ s id v t, s.input = .getSensorReading id → manages s → sensor s id = some (v, t) →
    exec .getSensorReading s = .next { t with reply := ⟨.ok, v⟩ }) ∧
  (∀ s b, s.input = .setRootSettings b → manages s → 4 ≤ b.gblog2 → b.gblog2 ≤ 20 → 4 ≤ b.fqlog2 → b.fqlog2 ≤ 16 →
    legalMode b.partmode →
    exec .setRootSettings s = .next { s with firmware := { s.firmware with boot := b }, reply := ⟨.ok, 0⟩ }) ∧
  (∀ s (n : Nat) c, s.input = .grantRootPurse n → manages s → tblFind s.ctxs 1 = some c →
    exec .grantRootPurse s = .next { wake { s with
      ctxs := tblPut s.ctxs 1 { c with purse := c.purse + n, granted := c.granted + n } } with reply := ⟨.ok, 0⟩ }) ∧
  (∀ s ty x, s.input = .commitSvn ty → manages s → 1 ≤ ty → ty ≤ 4 → activeImage s.firmware ty = some x →
    exec .commitSvn s = .next { s with
      firmware := { s.firmware with
        minSvn := tblSet 0 s.firmware.minSvn ty (Nat.max (tblGet 0 s.firmware.minSvn ty) (imageSvn x)) }
      reply := ⟨.ok, 0⟩ }) ∧
  (∀ s x, s.input = .requestUpdate x → updates s → s.busy = false → s.firmware.update = none →
    let ty := imageField x 4 2
    1 ≤ ty → ty ≤ 4 →
    exec .requestUpdate s = .next { s with
      firmware := { s.firmware with
        update := some ty, verifiedUpdate := none
        pend := s.firmware.pend.filter fun k => !(ty = 2 && 8 ≤ k) && !(ty = 3 && k = 3)
        banks := tblPut s.firmware.banks (2 * ty + (1 - activeBank s.firmware ty)) x }
      reply := ⟨.ok, 0⟩ }) ∧
  (∀ s ty x, s.input = .verifyComplete ty → updates s → s.firmware.update = some ty →
    tblFind s.firmware.banks (2 * ty + (1 - activeBank s.firmware ty)) = some x → imageOk s.firmware ty x = true →
    exec .verifyComplete s = .next { s with firmware := { s.firmware with verifiedUpdate := some ty }, reply := ⟨.ok, 0⟩ }) ∧
  (∀ s ty, s.input = .activateFirmware ty → updates s → s.firmware.verifiedUpdate = some ty →
    exec .activateFirmware s = .next { activate s ty with reply := ⟨.ok, 0⟩ }) ∧
  (∀ s, exec .hostFirmwareRestart s = .next { s with firmware := { s.firmware with restart := false } }) ∧
  (∀ s, manages s → exec .getCertificate s = .next { (freeNext s).2 with reply := ⟨.ok, (freeNext s).1⟩ }) ∧
  (∀ s n, s.input = .challenge n → manages s →
    exec .challenge s = .next { (freeNext s).2 with reply := ⟨.ok, (freeNext s).1⟩ }) ∧
  (∀ s, manages s → exec .getMeasurements s = .next { s with reply := ⟨.ok, measurements s.firmware⟩ }) ∧
  (∀ s p ways, s.input = .portBreakout p ways → manages s → p < 24 → ways = 1 ∨ ways = 2 ∨ ways = 4 →
    exec .portBreakout s = .next { s with breakout := tblSet 1 s.breakout p ways, reply := ⟨.ok, 0⟩ }) ∧
  (∀ s pkg routes, s.input = .routeTable pkg routes → manages s → pkg < 4096 → (∀ r ∈ routes, r.1 < 4096 ∧ r.2 < 96) →
    exec .routeTable s = .next { s with
      ownPkg := BitVec.ofNat 12 pkg, routes := routes.foldl (fun t r => tblPut t r.1 r.2) [], reply := ⟨.ok, 0⟩ }) ∧
  (∀ (s : State) (i : Instr), (∃ m, i = .partmodeChange ∧ s.input = .partmodeChange m) ∨
       (∃ k n, i = .getCounter ∧ s.input = .getCounter k n) ∨ (∃ n, i = .grantRootPurse ∧ s.input = .grantRootPurse n) ∨
       (∃ b, i = .setRootSettings ∧ s.input = .setRootSettings b) ∨ (∃ t, i = .commitSvn ∧ s.input = .commitSvn t) ∨
       i = .getCertificate ∨ i = .getMeasurements →
     (s.firmware.restart = true → exec i s = .next { s with reply := ⟨.busy, 0⟩ }) ∧
     (s.firmware.restart = false → s.stage = .rom ∨ s.stage = .recovery → exec i s = .next { s with reply := ⟨.refused, 0⟩ }))

/-- The host edge: register writes, accesses to memory, completions, virtual functions, and the links and power of the
package. That the second tier reads zero after the power loss is the model's choice (log entry 8). -/
def Obligations.HostEvents : Prop :=
  (∀ s n, s.input = .numvfsWrite n → s.stage = .ready → n ≤ 64 → n ≠ 0 →
    exec .numvfsWrite s = .next (makeVfs n { s with numVfs := n })) ∧
  (∀ s, s.input = .numvfsWrite 0 → s.stage = .ready →
    exec .numvfsWrite s = .next { s.vfs.foldl (fun s e => resetContext s e.2) s with vfs := [], numVfs := 0 }) ∧
  (∀ s vf k, s.input = .functionLevelReset vf → tblFind s.vfs vf = some k →
    exec .functionLevelReset s = .next (resetContext s k)) ∧
  (∀ s a, s.input = .hostMemoryAccess a → exec .hostMemoryAccess s =
    .next (if s.busy then { s with heldAccess := s.heldAccess ++ [a] } else busPerform s a)) ∧
  (∀ s a, s.input = .peerDeviceAccess a → exec .peerDeviceAccess s =
    .next (if s.busy then { s with heldAccess := s.heldAccess ++ [a] } else busPerform s a)) ∧
  (∀ s n v ctx, s.input = .peerwinWrite n v ctx → n < 64 →
    exec .peerwinWrite s = .next (wake (regWrite s ctx (0x300000 + 8 * n) 8 v.toNat 0 0))) ∧
  (∀ s q v, s.input = .qtailWrite q v → q < 4096 →
    exec .qtailWrite s = .next (wake (regWrite s none (0x1000000 + 64 * q + 0x18) 4 v.toNat 0 0))) ∧
  (∀ s q v, s.input = .qctlWrite q v → q < 4096 →
    exec .qctlWrite s = .next (wake (regWrite s none (0x1000000 + 64 * q + 0x08) 4 v.toNat 0 0))) ∧
  (∀ s q, s.input = .qctlFaultClear q → q < 4096 → exec .qctlFaultClear s = .next (wake
    (regWrite s none (0x1000000 + 64 * q + 0x08) 4 (qctlWord { queueOf s q with fault := true }) 0 0))) ∧
  (∀ s off wide v, s.input = .registerWrite off wide v → off % (if wide then 8 else 4) = 0 →
    exec .registerWrite s = .next (wake (regWrite s none off (if wide then 8 else 4) v.toNat 0 0))) ∧
  (∀ s tag rid st data r, s.input = .nonpostedCompletion tag rid st data → requestOf s tag = some r →
    exec .nonpostedCompletion s =
      .next (answerRequest s r (if st = .ok ∧ (∀ p, r.peer = some p → p = rid) then some data else none))) ∧
  (∀ s tag r, s.input = .completionTimeout tag → requestOf s tag = some r →
    exec .completionTimeout s = .next (answerRequest s r none)) ∧
  (∀ s link, s.input = .cxlLinkDown link → link < 4 →
    exec .cxlLinkDown s = .next { s with linkDown := tblSet false s.linkDown link true }) ∧
  (∀ s, exec .flitReplay s = .next s) ∧
  (∀ s link lane, s.input = .laneGroupRetrainFail link lane → link < 4 → lane < 32 →
    exec .laneGroupRetrainFail s = .next { s with
      laneGroups := tblSet 0 s.laneGroups (32 * link + lane)
        (Nat.min 3 (tblGet 0 s.laneGroups (32 * link + lane) + 1)) }) ∧
  (∀ s, exec .secondTierPowerLoss s = .next { s with
    mem := s.mem.filter fun e => regionOf s e.1 != .tier
    poison := s.poison.filter fun e => regionOf s (64 * e.1) != .tier
    rewritten := s.rewritten.filter fun e => regionOf s (128 * e.1) != .tier }) ∧
  (∀ s, exec .linkLevelRetry s = .next s) ∧
  (∀ s port, s.input = .rudiUudPacket port → exec .rudiUudPacket s = .next (count s 35 port 1))

namespace Sys2Proof.Machine

/-- A reset that management asks for (19 R449): its event, whether the instance is there, and the machine after it. -/
def resetAsked (s : State) : Option (Instr × Bool × State) :=
  match s.input with
  | .packageReset => some (.packageReset, true, resetPackage s)
  | .paoridReset => some (.paoridReset, true, resetPaorid s)
  | .zcDieReset die true => some (.zcDieReset, die < 4, resetDie s die)
  | .coreReset core => some (.coreReset, core < 160, resetCore s core)
  | .quadrantReset q => some (.quadrantReset, q < 640, resetQuad s q)
  | .porterReset n => some (.porterReset, n < 48, resetPorter s n)
  | .relayEngineReset n => some (.relayEngineReset, n < 100, resetRelay s n)
  | .contextReset k => some (.contextReset, (tblFind s.ctxs k).any fun c => c.parent != 0, resetContext s k)
  | _ => none

end Sys2Proof.Machine

/-- The levels of reset, as management asks for them, with the request's answer, and those that come of themselves. A
package reset leaves the state after reset, but for the flash, the content of the second
tier's addresses, the boot mode, and the model's own counters and agenda: what is kept beside what 19 R449 names (log
entry 70), and that the stacks then read zero (log entry 8), are the model's choice. -/
def Obligations.ResetEvents : Prop :=
  (∀ s, s.input ≠ .packageReset ∨ (manages s ∧ s.busy = false) → ∃ t, exec .packageReset s = .next t ∧ t = { State.reset with
    agenda := s.agenda, fresh := s.fresh, free := s.free, mode := s.firmware.boot.partmode
    mem := t.mem, poison := t.poison, rewritten := t.rewritten, firmware := t.firmware } ∧
    (∀ x, byteAt t x = if 0x080000000000 ≤ x ∧ x < 0x100000000000 then byteAt s x else 0) ∧
    t.firmware.banks = s.firmware.banks ∧ t.firmware.minSvn = s.firmware.minSvn ∧ t.firmware.revoked = s.firmware.revoked ∧
    t.firmware.boot = s.firmware.boot ∧ t.firmware.verified = [] ∧ t.firmware.update = none ∧ t.firmware.restart = false) ∧
  (∀ s i there t, resetAsked s = some (i, there, t) →
    (manages s → there = true → s.busy = false → exec i s = .next { t with reply := ⟨.ok, 0⟩ }) ∧
    (manages s → there = true → s.busy = true → exec i s = .next { s with reply := ⟨.busy, 0⟩ }) ∧
    (manages s → there = false → exec i s = .next { s with reply := ⟨.invalidArgument, 0⟩ }) ∧
    (s.firmware.restart = true → exec i s = .next { s with reply := ⟨.busy, 0⟩ }) ∧
    (s.firmware.restart = false → s.stage = .rom ∨ s.stage = .recovery → exec i s = .next { s with reply := ⟨.refused, 0⟩ })) ∧
  (∀ s, s.input ≠ .paoridReset → exec .paoridReset s = .next (resetPaorid s)) ∧
  (∀ s die, s.input = .zcDieReset die false → die < 4 → exec .zcDieReset s = .next (resetDie s die)) ∧
  (∀ s n, s.input = .porterNoProgress n → exec .porterNoProgress s = .next (resetPorter s n)) ∧
  (∀ s n, s.input = .relayNoProgress n → exec .relayNoProgress s = .next (resetRelay s n)) ∧
  (∀ s n id o, tblFind s.porters n = some id → tblFind s.porterOps id = some o → o.state = .running →
    (tblFind (resetPorter s n).porterOps id).map (·.state) = some .queued ∧ tblFind (resetPorter s n).porters n = none)

/-! ### Words and steps -/

namespace Sys2Proof.Machine

/-- The results of one group that are written as their instruction issues. -/
def registerRule (i : Instr) (g : Group) (p : Path) (act : Lanes) : Option (Group → Group) :=
  (moveRule i g p act).or ((predicateRule i g p act).or ((integerRule i g p act).or ((floatRule i g p act).or
    ((convertRule i g p act).or (crossRule i g p act)))))

/-- The predicate registers that such an instruction names to be written. -/
def predsNamed : Instr → List Nat
  | .plop _ _ pd _ _ _ => [pd.toNat]
  | .s2p _ (.toPred pk _) => [pk.toNat]
  | .s2p _ (.all _) => List.range 7
  | .fechk _ pd _ _ => [pd.toNat]
  | .iaddc _ _ _ _ _ _ pd => [pd.toNat]
  | .icmp _ _ _ _ _ w | .fcmp _ _ _ _ _ w | .fclass _ _ _ _ w => [w.pd.toNat]
  | .shfl _ _ _ _ _ _ (some pd) => [pd.toNat]
  | .vote _ _ _ pd none => [pd.toNat]
  | _ => []

/-- The instruction writes register r of a file (its fields, `Instr.uses`). -/
def namesDst (i : Instr) (f : RegFile) (r : Nat) : Prop :=
  ∃ u ∈ i.uses, u.writes = true ∧ u.file = f ∧ u.reg ≤ r ∧ r < u.reg + u.span

/-- The outcome of a turn, as that of the step: time goes on by one. -/
def afterTurn : Host.Outcome State Fault Refusal → Host.Outcome State Fault Refusal
  | .next t => .next { t with clock := t.clock + 1 }
  | .fault f => .fault f
  | .refused r => .refused r

/-- The machine whose split of group `gid` has its turn: in a handler, what the paths of the frame had begun may have
gone on. -/
def turnOf (s : State) (rest : List Turn) (gid sp : Nat) : State :=
  framedTurns { s with agenda := rest, gid := gid, sp := sp } gid

/-- The path has its turn: it is the split's current path, it may issue, and it has begun no instruction. -/
structure TakesTurn (s : State) (rest : List Turn) (gid sp : Nat) (g : Group) (p : Path) : Prop where
  agenda : s.agenda = .split gid sp :: rest
  turn : issuing (turnOf s rest gid sp) = some (g, p)
  may : mayIssue (turnOf s rest gid sp) g p = true
  new : p.await = none

/-- The line of its PC, as the fetch of the path's turn finds it, and the machine after the fetch. -/
def fetchOf (s : State) (rest : List Turn) (gid sp : Nat) (g : Group) (p : Path) :
    Except LaneErr (State × Option FetchLine) :=
  fetchLine (turnOf s rest gid sp) (whoOf (turnOf s rest gid sp) g) g.quad (BitVec.ofNat 64 (p.pc.toNat / 64 * 64))

/-- The step ends with a trap of the path for every lane that has yet to perform the instruction; `tail` is the last
executable slot of its line, which RTE `.skip` counts from. -/
def stepTraps (s u : State) (gid : Nat) (p : Path) (tail cls : Nat) : Prop :=
  step s = afterTurn (.next (wake (takeTrap (updGroup u gid fun h => updPath h p.lanes fun q => { q with tail := tail }) gid
    (trapAt p cls 0 (dueLanes p)))))

end Sys2Proof.Machine

/-- An instruction whose results are of its group's registers and predicates changes nothing else: no memory, no other
group, no lane that does not act, no register or predicate that it does not name, no other path. -/
def Obligations.RegisterFrame : Prop :=
  ∀ (i : Instr) (s t : State) (g : Group) (p : Path) (f : Group → Group), Issues i s g p →
    i.wf = true → registerRule i g p (actLanes g p i) = some f → exec i s = .next t →
    t = { s with groups := t.groups, stalled := [], free := t.free } ∧
    (∀ k, k ≠ s.gid → tblFind t.groups k = tblFind s.groups k) ∧
    ∃ h, tblFind t.groups s.gid = some h ∧
      h = { g with v := h.v, s := h.s, preds := h.preds, scl := h.scl, idem := h.idem, paths := h.paths, splits := h.splits } ∧
      (∀ r l, l < 32 → (actLanes g p i).getLsbD l = false ∨ ¬ namesDst i .lane r → vGet h r l = vGet g r l) ∧
      (∀ r, ¬ namesDst i .scalar r → sGet h r = sGet g r) ∧
      (∀ k l, l < 32 → (actLanes g p i).getLsbD l = false ∨ k ∉ predsNamed i →
        (pGet h k).getLsbD l = (pGet g k).getLsbD l) ∧
      ((∀ gd k b, i ≠ .setscl gd k b) → h.scl = g.scl) ∧
      (∀ q ∈ g.paths, q.lanes ≠ p.lanes → q ∈ h.paths)

/-- The words of the spec's worked encodings decode to the instructions they stand for, one of each family. -/
def Obligations.DecodeWords : Prop :=
  let always : Guard := ⟨⟨false, 7⟩, ⟨0, 0⟩⟩
  let v (r : BitVec 8) : Src := ⟨.lane, r, false⟩
  let x (r : BitVec 8) : Src := ⟨.scalar, r, false⟩
  let dv (r : BitVec 8) : Dst := ⟨.lane, r⟩
  let dx (r : BitVec 8) : Dst := ⟨.scalar, r⟩
  decode 0x000000405000016080288330#96 =
    .ok (.iadd ⟨⟨false, 3⟩, ⟨1, 1⟩⟩ false .i32 (dv 10) ⟨.lane, 4, true⟩ (.imm 0x40)) ∧
  decode 0x00000018000000010050170F#96 = .ok (.spawn always 1 (dv 20) (v 8) ⟨0, 3⟩) ∧
  decode 0x00000402000000000000070A#96 = .ok (.bar always false 2 64) ∧
  decode 0x000000000000000730190726#96 = .ok (.getc always false (dx 6) 0x39) ∧
  decode 0x0000006400040140C000A74A#96 =
    .ok (.icmp always .lt .i32 (v 6) (.imm 100) ⟨0, ⟨false, 0⟩, 2⟩) ∧
  decode 0x00011214000000004010076F#96 = .ok (.cvt always (.fixed .rne) true 0 .e4m3 .f32 (dv 4) (v 2)) ∧
  decode 0x00069412000002002020177C#96 = .ok (.topk always true .f32 (dv 8) (v 1) (v 2) 2 4 (some 5)) ∧
  decode 0x0001020600A402008818078C#96 =
    .ok (.atom always .add .u32 ⟨0, .die, .rel, .b32⟩ (dv 6) ⟨x 4, .reg (v 2) 2 false 0x10⟩) ∧
  decode 0x00002042002203404821079C#96 = .ok (.pcopy always ⟨0, 0x20, false, true, .vm, .bs⟩ (dx 8) (x 2) (x 3) (x 4)) ∧
  decode 0x0000000000060640008007B1#96 = .ok (.mmaq always (dv 32) (v 0) (.reg (x 6)) (some 1) none) ∧
  decode 0x0000000000000003E980C7B0#96 = .ok (.mldt always false 2 false (dv 96) ⟨x 31, .off 0⟩) ∧
  decode 0x0000000500000000880007BC#96 = .ok (.tlu always false (x 4) 5) ∧
  decode 0x0000000000C60200881987C9#96 = .ok (.bowait always ⟨0, .pkg, .plain, .b64⟩ (dx 6) ⟨x 4, .off 0⟩) ∧
  decode 0x0000002A00000000000007CC#96 = .ok (.trap always 42) ∧
  decode 0x0011440800000000000017D0#96 = .ok (.ckpt always true 8 4 10 2) ∧
  decode 0x0000200000320540880907D6#96 = .ok (.ctxmap always false (dx 2) (x 4) (x 5) (x 6) 0 true false) ∧
  decode 0x0000000000000540880917DD#96 = .ok (.invlva always .range true (dx 2) (some (x 4)) (some (x 5))) ∧
  decodeRelay 0x0000000064400004#64 = some (.comb 4 4 6)

/-- Decoding an instruction's word gives the instruction back: every well-formed 96-bit instruction, with every
operand at every value its encoding admits, and every relay instruction whose fields hold. What a word decodes to is
well formed. The bytes of a packet, its 48-byte header and its payload, give the packet back (14 R345). -/
def Obligations.DecodeEncode : Prop :=
  (∀ i w, i.wf = true → encode i = some w → decode w = .ok i) ∧
  (∀ i w, i.fieldOk = true → encodeRelay i = some w → decodeRelay w = some i) ∧
  (∀ i w, decode w = .ok i → i.wf = true) ∧
  (∀ p : Packet, p.payload.length < 4096 → (∀ k, p.kind = .reserved k → 7 ≤ k.toNat) → packetOf (packetBytes p) = p)

/-- A step runs the instruction that its turn finds: the one whose word stands in the slot of the path's PC, the one
whose word the path keeps, a relay instance's next one, or an event; and time goes on by one. A word placed after
reset is what the next step runs. -/
def Obligations.StepRunsDecoded : Prop :=
  (∀ s rest gid sp g p s2 l i, TakesTurn s rest gid sp g p → badPc p.pc = false →
    fetchOf s rest gid sp g p = .ok (s2, some l) → lineLegal l = true →
    (p.checked = true → slotMarked l (p.pc.toNat % 8) = true) → p.pc.toNat % 8 ≤ lineTail l →
    (p.enter && slotMarked l (p.pc.toNat % 8) && joinedHere g p) = false → decode (slotWord l (p.pc.toNat % 8)) = .ok i →
    step s = afterTurn (exec i (issueCycle (updGroup s2 gid fun h => updPath h p.lanes fun q =>
      { q with enter := false, checked := false, tail := lineTail l, word := slotWord l (p.pc.toNat % 8) }) gid sp g.quad))) ∧
  (∀ s rest gid sp g p i, s.agenda = .split gid sp :: rest → issuing (turnOf s rest gid sp) = some (g, p) →
    mayIssue (turnOf s rest gid sp) g p = true → p.await.isSome → decode p.word = .ok i →
    step s = afterTurn (exec i (issueCycle (turnOf s rest gid sp) gid sp g.quad))) ∧
  (∀ s rest k x w i, s.agenda = .relay k :: rest → tblFind s.instances k = some x → instanceRuns s x = true →
    x.prog.code[x.pc]? = some w → decodeRelay w = some i → step s = afterTurn (exec i { s with agenda := rest, inst := k })) ∧
  (∀ s rest i x, s.agenda = .event i x :: rest → isEvent i = true →
    step s = afterTurn (exec i { s with agenda := rest, input := x })) ∧
  (∀ (w : InsWord) i, decode w = .ok i → ∃ (u : State) (g : Group) (p : Path),
    step (State.reset.withFetchWord 96 w.toNat) = afterTurn (exec i u) ∧ issuing u = some (g, p) ∧ p.pc = 0x100 ∧
    p.lanes = allLanes ∧ p.word = w)

/-- What a step does when the path's word is not an instruction it may run: the traps of 02 R34 and R45 in their
order, for a malformed PC, a wrong line, a target that is not marked, and a slot that fails a check; an unassigned
opcode takes the illegal-instruction trap (02 R47). A malformed PC is caught as its slot is entered (log entry 13),
the lanes of the trap are those still due, and an illegal line counts five executable slots (log entry 12): these are
the model's readings. -/
def Obligations.SlotTraps : Prop :=
  (∀ s rest gid sp g p, TakesTurn s rest gid sp g p → badPc p.pc = true →
    stepTraps s (turnOf s rest gid sp) gid p 4 2) ∧
  (∀ s rest gid sp g p s2, TakesTurn s rest gid sp g p → badPc p.pc = false →
    fetchOf s rest gid sp g p = .ok (s2, none) → stepTraps s s2 gid p 4 0x13) ∧
  (∀ s rest gid sp g p s2 l, TakesTurn s rest gid sp g p → badPc p.pc = false →
    fetchOf s rest gid sp g p = .ok (s2, some l) →
    (lineLegal l = false → stepTraps s s2 gid p 4 1) ∧
    (lineLegal l = true → p.checked = true → slotMarked l (p.pc.toNat % 8) = false →
      stepTraps s s2 gid p (lineTail l) 2) ∧
    (∀ e, lineLegal l = true → (p.checked = true → slotMarked l (p.pc.toNat % 8) = true) → p.pc.toNat % 8 ≤ lineTail l →
      (p.enter && slotMarked l (p.pc.toNat % 8) && joinedHere g p) = false →
      decode (slotWord l (p.pc.toNat % 8)) = .error e →
      stepTraps s s2 gid p (lineTail l) (match e with | .instruction => 3 | .type => 4 | .scope => 5 | .operand => 6))) ∧
  (∀ w s g p, issuing s = some (g, p) →
    exec (.unassignedOpcode w) s = .next (wake (takeTrap s s.gid (trapAt p 3 0 (dueLanes p))))) ∧
  (∀ w : InsWord, unassignedOpc (w.toNat % 256) = true → decode w = .ok (.unassignedOpcode w))

/-- A B-format target is (line_address(pc) + sext(ldisp, 29) * 64) | slot. SLOT 5-7 does not decode: the
illegal-instruction trap is taken where the slot is checked, whatever the path's lanes and registers are. -/
def Obligations.BranchTargets : Prop :=
  let bFormat (w : InsWord) : Prop := w.toNat % 256 ∈ [0x01, 0x03, 0x04, 0x07, 0x09, 0x0F, 0x10]
  (∀ (pc : Long) (t : Target), targetPc pc t =
    (((pc >>> 6) <<< 6) + (t.disp.signExtend 64 <<< 6)) ||| BitVec.ofNat 64 t.slot.val) ∧
  (∀ w : InsWord, bFormat w → 4 < (w.extractLsb' 64 3).toNat → decode w = .error .instruction) ∧
  (∀ s rest gid sp g p s2 l, TakesTurn s rest gid sp g p → badPc p.pc = false →
    fetchOf s rest gid sp g p = .ok (s2, some l) → lineLegal l = true →
    (p.checked = true → slotMarked l (p.pc.toNat % 8) = true) → p.pc.toNat % 8 ≤ lineTail l →
    (p.enter && slotMarked l (p.pc.toNat % 8) && joinedHere g p) = false →
    bFormat (slotWord l (p.pc.toNat % 8)) → 4 < ((slotWord l (p.pc.toNat % 8)).extractLsb' 64 3).toNat →
    stepTraps s s2 gid p (lineTail l) 3)

/-- After reset the ROM runs in PARTMODE 1 with no mode change counted; no context, group, cached line, translation,
counter, queued store or operation exists; the clock reads 0; memory has its canonical form, and the modes are legal. -/
def Obligations.ResetState : Prop :=
  let s := State.reset
  s.stage = .rom ∧ s.mode = 1 ∧ s.gen = 0 ∧ s.busy = false ∧ s.clock = 0 ∧ s.counters = [] ∧
  s.ctxs = [] ∧ s.groups = [] ∧ s.grids = [] ∧ s.blocks = [] ∧ s.l1 = [] ∧ s.l2 = [] ∧ s.dir = [] ∧ s.tlb = [] ∧
  s.sq = [] ∧ s.porterOps = [] ∧ s.instances = [] ∧ s.dirStatus = [] ∧ s.numVfs = 0 ∧
  Memory.wf s.mem ∧ ModeInv s ∧
  (∀ x, byteAt s x = 0) ∧ exec .stageReady s = .next s

/-- Every step keeps the canonical form of the machine's memory. -/
def Obligations.StepKeepsMemory : Prop :=
  ∀ s t : State, Memory.wf s.mem → step s = .next t → Memory.wf t.mem

/-- Every step keeps the modes legal: PARTMODE is 1, 2 or 4, now, after a change in progress, and after the next
reset. -/
def Obligations.StepKeepsMode : Prop :=
  ∀ s t : State, ModeInv s → step s = .next t → ModeInv t
end

