-- ==== Sys2Proof/Laws/Issue.lean ====
section
/-! SUPPORT. What an issue does, for an instruction whose checks pass: the shape of the step for each way its meaning can
end (Machine/Ops.lean). -/

namespace Sys2Proof.Machine

theorem issue_next {i : Instr} {s : State} {g : Group} {p : Path} (h : Issues i s g p) (body : Ins → State → Act) :
    issue i body s = .next (concludeIssue s (insOf i s g p) (body (insOf i s g p) (atIssue i s g p))) := by
  obtain ⟨h1, h2, h3, h4⟩ := h
  have h5 : (actLanes g p i = 0) = False := eq_false h3
  simp only [issue, issueWith, h1, h2, h4, h5, insOf, atIssue]
  simp

theorem issue_done {i : Instr} {s : State} {g : Group} {p : Path} (h : Issues i s g p) {body : Ins → State → Act} {u : State}
    (hb : body (insOf i s g p) (atIssue i s g p) = .done u) : issue i body s = .next (goesOn i s g p u) := by
  rw [issue_next h, hb]; rfl

theorem issue_group {i : Instr} {s : State} {g : Group} {p : Path} (h : Issues i s g p) {body : Ins → State → Act}
    {f : Group → Group} (hb : body (insOf i s g p) (atIssue i s g p) = groupDone (atIssue i s g p) (insOf i s g p) f) :
    issue i body s = .next (changes i s g p f) := issue_done h hb

theorem issue_moved {i : Instr} {s : State} {g : Group} {p : Path} (h : Issues i s g p) {body : Ins → State → Act}
    {f : Group → Group} (hb : body (insOf i s g p) (atIssue i s g p) = .moved (updGroup (atIssue i s g p) s.gid f)) :
    issue i body s = .next (replaces i s g p f) := by
  rw [issue_next h, hb]; rfl

theorem issue_trap {i : Instr} {s : State} {g : Group} {p : Path} (h : Issues i s g p) {body : Ins → State → Act} {t : Trap}
    {u : State} (hb : body (insOf i s g p) (atIssue i s g p) = .trap t u) (hc : t.cls ≠ 0x11 ∧ t.cls ≠ 0x12) :
    issue i body s = .next (raises i s p t u) := by
  rw [issue_next h, hb]
  simp only [concludeIssue, hc.1, hc.2, insOf, raises, rewinds, h.new]
  simp

theorem issue_park {i : Instr} {s : State} {g : Group} {p : Path} (h : Issues i s g p) {body : Ins → State → Act}
    {u : State} (hb : body (insOf i s g p) (atIssue i s g p) = .park u) : issue i body s = .next (waits i s g p u) := by
  rw [issue_next h, hb]
  simp only [concludeIssue, waits, rewinds, insOf, h.new]
  simp

theorem issue_none {i : Instr} {s : State} {g : Group} {p : Path} (h : Reaches i s g p) (h0 : actLanes g p i = 0)
    (body : Ins → State → Act) : issue i body s = .next (goesOn i s g p (atIssue i s g p)) := by
  obtain ⟨h1, h2, h3⟩ := h
  rw [h0] at h3
  simp only [issue, issueWith, h1, h2, h0, h3]
  simp [concludeIssue, goesOn, atIssue, insOf, h0]

theorem issueAlways_next {i : Instr} {s : State} {g : Group} {p : Path} (h : Reaches i s g p) (body : Ins → State → Act) :
    issueAlways i body s = .next (concludeIssue s (insOf i s g p) (body (insOf i s g p) (atIssue i s g p))) := by
  obtain ⟨h1, h2, h4⟩ := h
  simp [issueAlways, issueWith, h1, h2, h4, insOf, atIssue]

end Sys2Proof.Machine
end

