-- ==== Sys2Proof/Laws/Tbl.lean ====
section
/-! SUPPORT. The laws of sparse tables (Machine/Map.lean): what is found after a change, and that the changes keep the
rising order and the canonical form. -/

namespace Sys2Proof.Machine

variable {α : Type}

/-! ### Reads after writes -/

@[simp] theorem tblFind_nil (i : Nat) : tblFind ([] : Tbl α) i = none := rfl

theorem tblFind_put (t : Tbl α) (i j : Nat) (x : α) : tblFind (tblPut t i x) j = if i = j then some x else tblFind t j := by
  induction t with
  | nil => simp only [tblPut, tblFind]
  | cons e r ih =>
    obtain ⟨k, v⟩ := e
    simp only [tblPut]
    split
    · simp only [tblFind]
    · split
      · subst_vars; simp only [tblFind]; split <;> rfl
      · simp only [tblFind, ih]
        by_cases hk : k = j <;> by_cases hi : i = j <;> simp_all

@[simp] theorem tblFind_put_same (t : Tbl α) (i : Nat) (x : α) : tblFind (tblPut t i x) i = some x := by
  simp [tblFind_put]

theorem tblFind_put_other {t : Tbl α} {i j : Nat} {x : α} (h : i ≠ j) : tblFind (tblPut t i x) j = tblFind t j := by
  simp [tblFind_put, h]

theorem tblFind_del (t : Tbl α) (i j : Nat) : tblFind (tblDel t i) j = if i = j then none else tblFind t j := by
  induction t with
  | nil => simp [tblDel]
  | cons e r ih =>
    obtain ⟨k, v⟩ := e
    simp only [tblDel]
    split
    · rw [ih]; subst_vars; simp only [tblFind]; split <;> rfl
    · simp only [tblFind, ih]
      by_cases hk : k = j <;> by_cases hi : i = j <;> simp_all

theorem tblFind_upd (t : Tbl α) (i j : Nat) (f : α → α) :
    tblFind (tblUpd t i f) j = if i = j then (tblFind t j).map f else tblFind t j := by
  unfold tblUpd
  cases h : tblFind t i with
  | none => by_cases hi : i = j <;> simp_all
  | some v => simp only [tblFind_put]; by_cases hi : i = j <;> simp_all

@[simp] theorem tblFind_map (t : Tbl α) (f : Nat → α → α) (i : Nat) : tblFind (tblMap t f) i = (tblFind t i).map (f i) := by
  induction t with
  | nil => rfl
  | cons e r ih =>
    obtain ⟨k, v⟩ := e
    simp only [tblMap, List.map_cons, tblFind]
    split
    · subst_vars; rfl
    · exact ih

theorem tblGet_set [DecidableEq α] (d : α) (t : Tbl α) (i j : Nat) (x : α) :
    tblGet d (tblSet d t i x) j = if i = j then x else tblGet d t j := by
  unfold tblGet tblSet
  split
  · rw [tblFind_del]; split <;> simp_all
  · rw [tblFind_put]; split <;> simp_all

@[simp] theorem tblGet_set_same [DecidableEq α] (d : α) (t : Tbl α) (i : Nat) (x : α) : tblGet d (tblSet d t i x) i = x := by
  simp [tblGet_set]

theorem tblGet_set_other [DecidableEq α] {d : α} {t : Tbl α} {i j : Nat} {x : α} (h : i ≠ j) :
    tblGet d (tblSet d t i x) j = tblGet d t j := by
  simp [tblGet_set, h]

/-! ### The rising order -/

theorem tblSorted_weaken {t : Tbl α} {a b : Nat} (hab : a ≤ b) (h : tblSortedFrom (some b) t = true) :
    tblSortedFrom (some a) t = true := by
  cases t with
  | nil => rfl
  | cons e r =>
    simp only [tblSortedFrom, Bool.and_eq_true, decide_eq_true_eq] at h ⊢
    exact ⟨by omega, h.2⟩

theorem tblSorted_none {t : Tbl α} {a : Nat} (h : tblSortedFrom (some a) t = true) : tblSortedFrom none t = true := by
  cases t with
  | nil => rfl
  | cons e r =>
    simp only [tblSortedFrom, Bool.and_eq_true] at h ⊢
    exact h.2

/-- The order of a table from a bound that may be none. -/
theorem tblSorted_put (lo : Option Nat) (t : Tbl α) (i : Nat) (x : α) (hlo : ∀ a, lo = some a → a < i)
    (h : tblSortedFrom lo t = true) : tblSortedFrom lo (tblPut t i x) = true := by
  induction t generalizing lo with
  | nil =>
    cases lo with
    | none => rfl
    | some a => simp [tblPut, tblSortedFrom, hlo a rfl]
  | cons e r ih =>
    obtain ⟨k, v⟩ := e
    have hr : tblSortedFrom (some k) r = true := by
      cases lo <;> simp only [tblSortedFrom, Bool.and_eq_true] at h
      · exact h
      · exact h.2
    have hk : ∀ a, lo = some a → a < k := by
      intro a ha
      subst ha
      simp only [tblSortedFrom, Bool.and_eq_true, decide_eq_true_eq] at h
      exact h.1
    have key : ∀ (l : Tbl α) (m : Nat), (∀ a, lo = some a → a < m) → tblSortedFrom (some m) l = true → ∀ y : α,
        tblSortedFrom lo ((m, y) :: l) = true := by
      intro l m hm hl y
      cases lo with
      | none => exact hl
      | some a => simp only [tblSortedFrom, Bool.and_eq_true, decide_eq_true_eq]; exact ⟨hm a rfl, hl⟩
    simp only [tblPut]
    split
    · rename_i hik
      refine key _ i hlo ?_ x
      simp only [tblSortedFrom, Bool.and_eq_true, decide_eq_true_eq]
      exact ⟨hik, hr⟩
    · split
      · rename_i hik
        subst hik
        exact key _ _ hlo hr x
      · rename_i h1 h2
        exact key _ k hk (ih (some k) (by intro a ha; cases ha; omega) hr) v

theorem tblSorted_filter (lo : Option Nat) (t : Tbl α) (p : Nat × α → Bool) (h : tblSortedFrom lo t = true) :
    tblSortedFrom lo (t.filter p) = true := by
  induction t generalizing lo with
  | nil => exact h
  | cons e r ih =>
    obtain ⟨k, v⟩ := e
    have hr : tblSortedFrom (some k) r = true := by
      cases lo <;> simp only [tblSortedFrom, Bool.and_eq_true] at h
      · exact h
      · exact h.2
    simp only [List.filter_cons]
    split
    · cases lo with
      | none => exact ih (some k) hr
      | some a =>
        simp only [tblSortedFrom, Bool.and_eq_true, decide_eq_true_eq] at h ⊢
        exact ⟨h.1, ih (some k) hr⟩
    · cases lo with
      | none => exact tblSorted_none (ih (some k) hr)
      | some a =>
        simp only [tblSortedFrom, Bool.and_eq_true, decide_eq_true_eq] at h
        exact tblSorted_weaken (Nat.le_of_lt h.1) (ih (some k) hr)

theorem tblDel_eq_filter (t : Tbl α) (i : Nat) : tblDel t i = t.filter fun e => decide (i ≠ e.1) := by
  induction t with
  | nil => rfl
  | cons e r ih =>
    obtain ⟨k, v⟩ := e
    simp only [tblDel, List.filter_cons, ih]
    by_cases h : i = k <;> simp [h]

theorem tblSorted_del (lo : Option Nat) (t : Tbl α) (i : Nat) (h : tblSortedFrom lo t = true) :
    tblSortedFrom lo (tblDel t i) = true := by
  rw [tblDel_eq_filter]; exact tblSorted_filter lo t _ h

/-! ### The canonical form -/

theorem tblPut_mem {t : Tbl α} {i : Nat} {x : α} {e : Nat × α} (h : e ∈ tblPut t i x) : e = (i, x) ∨ e ∈ t := by
  induction t with
  | nil => simpa [tblPut] using h
  | cons a r ih =>
    obtain ⟨k, v⟩ := a
    simp only [tblPut] at h
    split at h
    · simpa using h
    · split at h
      · rcases List.mem_cons.1 h with h | h
        · exact .inl h
        · exact .inr (List.mem_cons_of_mem _ h)
      · rcases List.mem_cons.1 h with h | h
        · exact .inr (h ▸ List.mem_cons_self ..)
        · exact (ih h).imp id (List.mem_cons_of_mem _)

theorem tblWf_nil [DecidableEq α] (d : α) : tblWf d ([] : Tbl α) = true := rfl

theorem tblWf_set [DecidableEq α] (d : α) (t : Tbl α) (i : Nat) (x : α) (h : tblWf d t = true) :
    tblWf d (tblSet d t i x) = true := by
  simp only [tblWf, Bool.and_eq_true, List.all_eq_true, decide_eq_true_eq] at h ⊢
  obtain ⟨h1, h2⟩ := h
  unfold tblSet
  split
  · refine ⟨tblSorted_del _ _ _ h1, fun e he => h2 e ?_⟩
    rw [tblDel_eq_filter] at he
    exact (List.mem_filter.1 he).1
  · rename_i hx
    refine ⟨tblSorted_put _ _ _ _ (by intro a ha; cases ha) h1, fun e he => ?_⟩
    rcases tblPut_mem he with rfl | he
    · exact hx
    · exact h2 e he

theorem tblWf_filter [DecidableEq α] (d : α) (t : Tbl α) (p : Nat × α → Bool) (h : tblWf d t = true) :
    tblWf d (t.filter p) = true := by
  simp only [tblWf, Bool.and_eq_true, List.all_eq_true, decide_eq_true_eq] at h ⊢
  exact ⟨tblSorted_filter _ _ _ h.1, fun e he => h.2 e (List.mem_filter.1 he).1⟩

/-- Two tables of canonical form that read alike are equal. -/
theorem tblFind_none_of_sorted {t : Tbl α} {a i : Nat} (h : tblSortedFrom (some a) t = true) (hi : i ≤ a) : tblFind t i = none := by
  induction t generalizing a with
  | nil => rfl
  | cons e r ih =>
    obtain ⟨k, v⟩ := e
    simp only [tblSortedFrom, Bool.and_eq_true, decide_eq_true_eq] at h
    simp only [tblFind]
    rw [if_neg (by omega), ih h.2 (by omega)]

end Sys2Proof.Machine
end

