-- ==== Sys2Proof/Laws/Memory.lean ====
section
/-! SUPPORT. Memory: every operation on it keeps its canonical form, and what a byte reads after a write. The same
operations serve scratchpads, die slices and lofts. -/

namespace Sys2Proof.Machine

/-! ### The canonical form is kept -/

theorem memory_wf_nil : Memory.wf [] := rfl
theorem memory_wf_reset : Memory.wf State.reset.mem := rfl
theorem memory_wf_set {m : Tbl Byte} (h : Memory.wf m) (a : Nat) (b : Byte) : Memory.wf (memSet m a b) := tblWf_set 0 m a b h
theorem memory_wf_filter {m : Tbl Byte} (h : Memory.wf m) (p : Nat × Byte → Bool) : Memory.wf (m.filter p) :=
  tblWf_filter 0 m p h

theorem memory_wf_write {m : Tbl Byte} (h : Memory.wf m) (a : Nat) (bs : List Byte) : Memory.wf (memWrite m a bs) := by
  induction bs generalizing m a with
  | nil => exact h
  | cons b r ih => exact ih (memory_wf_set h a b) (a + 1)

theorem memory_wf_setLine {m : Tbl Byte} (h : Memory.wf m) (a : Nat) (d : Line) : Memory.wf (memSetLine m a d) :=
  memory_wf_write h a _

/-! ### Reads after writes -/

@[simp] theorem memByte_nil (a : Nat) : memByte [] a = 0 := rfl

theorem memByte_set (m : Tbl Byte) (a x : Nat) (b : Byte) : memByte (memSet m a b) x = if a = x then b else memByte m x :=
  tblGet_set 0 m a x b

/-- A byte below, inside and above what is written. -/
theorem memByte_write (m : Tbl Byte) (a : Nat) (bs : List Byte) (x : Nat) :
    memByte (memWrite m a bs) x = if a ≤ x ∧ x < a + bs.length then bs.getD (x - a) 0 else memByte m x := by
  induction bs generalizing m a with
  | nil => simp only [memWrite, List.length_nil]; rw [if_neg (by omega)]
  | cons b r ih =>
    simp only [memWrite, ih, memByte_set, List.length_cons]
    by_cases h : a = x
    · subst h
      rw [if_neg (by omega), if_pos rfl, if_pos (by omega)]
      simp
    · by_cases h2 : a + 1 ≤ x ∧ x < a + 1 + r.length
      · rw [if_pos h2, if_pos (by omega), show x - a = (x - (a + 1)) + 1 by omega]
        simp
      · rw [if_neg h2, if_neg h, if_neg (by omega)]

theorem memByte_write_outside {m : Tbl Byte} {a x : Nat} {bs : List Byte} (h : x < a ∨ a + bs.length ≤ x) :
    memByte (memWrite m a bs) x = memByte m x := by
  rw [memByte_write, if_neg (by omega)]

theorem memBytes_length (m : Tbl Byte) (a n : Nat) : (memBytes m a n).length = n := by simp [memBytes]

theorem memBytes_get {m : Tbl Byte} {a n i : Nat} (h : i < n) : (memBytes m a n).getD i 0 = memByte m (a + i) := by
  simp [memBytes, h]

/-- What is written is read. -/
theorem memBytes_write_same (m : Tbl Byte) (a : Nat) (bs : List Byte) : memBytes (memWrite m a bs) a bs.length = bs := by
  apply List.ext_getElem
  · simp [memBytes]
  · intro i h1 h2
    simp only [memBytes, List.getElem_map, List.getElem_range, memByte_write]
    rw [if_pos (by omega), show a + i - a = i by omega]
    simp [h2]

theorem memBytes_write_outside {m : Tbl Byte} {a x n : Nat} {bs : List Byte} (h : x + n ≤ a ∨ a + bs.length ≤ x) :
    memBytes (memWrite m a bs) x n = memBytes m x n := by
  apply List.ext_getElem
  · simp [memBytes]
  · intro i h1 h2
    simp only [memBytes, List.length_map, List.length_range] at h1
    simp only [memBytes, List.getElem_map, List.getElem_range]
    exact memByte_write_outside (by omega)

/-! ### Bytes and numbers -/

@[simp] theorem bytesOfNat_length (n x : Nat) : (bytesOfNat n x).length = n := by simp [bytesOfNat]

theorem natOfBytes_lt (bs : List Byte) : natOfBytes bs < 256 ^ bs.length := by
  induction bs with
  | nil => simp [natOfBytes]
  | cons b r ih =>
    simp only [natOfBytes, List.length_cons, Nat.pow_succ]
    have := b.isLt
    omega

end Sys2Proof.Machine
end

