-- ==== Sys2Proof/Laws/State.lean ====
section
/-! SUPPORT. One lemma for each field that a named update of the state or of a group leaves, and what the updates do to
the field they change. -/

namespace Sys2Proof.Machine

/-! ### updGroup -/

@[simp] theorem updGroup_gid (s : State) (k : Nat) (f : Group → Group) : (updGroup s k f).gid = s.gid := rfl
@[simp] theorem updGroup_sp (s : State) (k : Nat) (f : Group → Group) : (updGroup s k f).sp = s.sp := rfl
@[simp] theorem updGroup_inst (s : State) (k : Nat) (f : Group → Group) : (updGroup s k f).inst = s.inst := rfl
@[simp] theorem updGroup_input (s : State) (k : Nat) (f : Group → Group) : (updGroup s k f).input = s.input := rfl
@[simp] theorem updGroup_agenda (s : State) (k : Nat) (f : Group → Group) : (updGroup s k f).agenda = s.agenda := rfl
@[simp] theorem updGroup_stalled (s : State) (k : Nat) (f : Group → Group) : (updGroup s k f).stalled = s.stalled := rfl
@[simp] theorem updGroup_fresh (s : State) (k : Nat) (f : Group → Group) : (updGroup s k f).fresh = s.fresh := rfl
@[simp] theorem updGroup_free (s : State) (k : Nat) (f : Group → Group) : (updGroup s k f).free = s.free := rfl
@[simp] theorem updGroup_clock (s : State) (k : Nat) (f : Group → Group) : (updGroup s k f).clock = s.clock := rfl
@[simp] theorem updGroup_mode (s : State) (k : Nat) (f : Group → Group) : (updGroup s k f).mode = s.mode := rfl
@[simp] theorem updGroup_gen (s : State) (k : Nat) (f : Group → Group) : (updGroup s k f).gen = s.gen := rfl
@[simp] theorem updGroup_busy (s : State) (k : Nat) (f : Group → Group) : (updGroup s k f).busy = s.busy := rfl
@[simp] theorem updGroup_secondTier (s : State) (k : Nat) (f : Group → Group) : (updGroup s k f).secondTier = s.secondTier := rfl
@[simp] theorem updGroup_mem (s : State) (k : Nat) (f : Group → Group) : (updGroup s k f).mem = s.mem := rfl
@[simp] theorem updGroup_poison (s : State) (k : Nat) (f : Group → Group) : (updGroup s k f).poison = s.poison := rfl
@[simp] theorem updGroup_rewritten (s : State) (k : Nat) (f : Group → Group) : (updGroup s k f).rewritten = s.rewritten := rfl
@[simp] theorem updGroup_owners (s : State) (k : Nat) (f : Group → Group) : (updGroup s k f).owners = s.owners := rfl
@[simp] theorem updGroup_gtroot (s : State) (k : Nat) (f : Group → Group) : (updGroup s k f).gtroot = s.gtroot := rfl
@[simp] theorem updGroup_tlb (s : State) (k : Nat) (f : Group → Group) : (updGroup s k f).tlb = s.tlb := rfl
@[simp] theorem updGroup_tables (s : State) (k : Nat) (f : Group → Group) : (updGroup s k f).tables = s.tables := rfl
@[simp] theorem updGroup_frames (s : State) (k : Nat) (f : Group → Group) : (updGroup s k f).frames = s.frames := rfl
@[simp] theorem updGroup_l1 (s : State) (k : Nat) (f : Group → Group) : (updGroup s k f).l1 = s.l1 := rfl
@[simp] theorem updGroup_parts (s : State) (k : Nat) (f : Group → Group) : (updGroup s k f).parts = s.parts := rfl
@[simp] theorem updGroup_sq (s : State) (k : Nat) (f : Group → Group) : (updGroup s k f).sq = s.sq := rfl
@[simp] theorem updGroup_late (s : State) (k : Nat) (f : Group → Group) : (updGroup s k f).late = s.late := rfl
@[simp] theorem updGroup_orphaned (s : State) (k : Nat) (f : Group → Group) : (updGroup s k f).orphaned = s.orphaned := rfl
@[simp] theorem updGroup_l2 (s : State) (k : Nat) (f : Group → Group) : (updGroup s k f).l2 = s.l2 := rfl
@[simp] theorem updGroup_sliceMts (s : State) (k : Nat) (f : Group → Group) : (updGroup s k f).sliceMts = s.sliceMts := rfl
@[simp] theorem updGroup_wb (s : State) (k : Nat) (f : Group → Group) : (updGroup s k f).wb = s.wb := rfl
@[simp] theorem updGroup_dir (s : State) (k : Nat) (f : Group → Group) : (updGroup s k f).dir = s.dir := rfl
@[simp] theorem updGroup_dirStatus (s : State) (k : Nat) (f : Group → Group) : (updGroup s k f).dirStatus = s.dirStatus := rfl
@[simp] theorem updGroup_rels (s : State) (k : Nat) (f : Group → Group) : (updGroup s k f).rels = s.rels := rfl
@[simp] theorem updGroup_written (s : State) (k : Nat) (f : Group → Group) : (updGroup s k f).written = s.written := rfl
@[simp] theorem updGroup_fetched (s : State) (k : Nat) (f : Group → Group) : (updGroup s k f).fetched = s.fetched := rfl
@[simp] theorem updGroup_ctxs (s : State) (k : Nat) (f : Group → Group) : (updGroup s k f).ctxs = s.ctxs := rfl
@[simp] theorem updGroup_quadHolder (s : State) (k : Nat) (f : Group → Group) : (updGroup s k f).quadHolder = s.quadHolder := rfl
@[simp] theorem updGroup_queueHolder (s : State) (k : Nat) (f : Group → Group) : (updGroup s k f).queueHolder = s.queueHolder := rfl
@[simp] theorem updGroup_portHolder (s : State) (k : Nat) (f : Group → Group) : (updGroup s k f).portHolder = s.portHolder := rfl
@[simp] theorem updGroup_queues (s : State) (k : Nat) (f : Group → Group) : (updGroup s k f).queues = s.queues := rfl
@[simp] theorem updGroup_grids (s : State) (k : Nat) (f : Group → Group) : (updGroup s k f).grids = s.grids := rfl
@[simp] theorem updGroup_slices (s : State) (k : Nat) (f : Group → Group) : (updGroup s k f).slices = s.slices := rfl
@[simp] theorem updGroup_blocks (s : State) (k : Nat) (f : Group → Group) : (updGroup s k f).blocks = s.blocks := rfl
@[simp] theorem updGroup_answers (s : State) (k : Nat) (f : Group → Group) : (updGroup s k f).answers = s.answers := rfl
@[simp] theorem updGroup_inns (s : State) (k : Nat) (f : Group → Group) : (updGroup s k f).inns = s.inns := rfl
@[simp] theorem updGroup_chunkQ (s : State) (k : Nat) (f : Group → Group) : (updGroup s k f).chunkQ = s.chunkQ := rfl
@[simp] theorem updGroup_boostTurn (s : State) (k : Nat) (f : Group → Group) : (updGroup s k f).boostTurn = s.boostTurn := rfl
@[simp] theorem updGroup_producers (s : State) (k : Nat) (f : Group → Group) : (updGroup s k f).producers = s.producers := rfl
@[simp] theorem updGroup_counters (s : State) (k : Nat) (f : Group → Group) : (updGroup s k f).counters = s.counters := rfl
@[simp] theorem updGroup_porterOps (s : State) (k : Nat) (f : Group → Group) : (updGroup s k f).porterOps = s.porterOps := rfl
@[simp] theorem updGroup_porters (s : State) (k : Nat) (f : Group → Group) : (updGroup s k f).porters = s.porters := rfl
@[simp] theorem updGroup_porterCtx (s : State) (k : Nat) (f : Group → Group) : (updGroup s k f).porterCtx = s.porterCtx := rfl
@[simp] theorem updGroup_heldRecs (s : State) (k : Nat) (f : Group → Group) : (updGroup s k f).heldRecs = s.heldRecs := rfl
@[simp] theorem updGroup_quads (s : State) (k : Nat) (f : Group → Group) : (updGroup s k f).quads = s.quads := rfl
@[simp] theorem updGroup_loft (s : State) (k : Nat) (f : Group → Group) : (updGroup s k f).loft = s.loft := rfl
@[simp] theorem updGroup_loftPoison (s : State) (k : Nat) (f : Group → Group) : (updGroup s k f).loftPoison = s.loftPoison := rfl
@[simp] theorem updGroup_windows (s : State) (k : Nat) (f : Group → Group) : (updGroup s k f).windows = s.windows := rfl
@[simp] theorem updGroup_ownPkg (s : State) (k : Nat) (f : Group → Group) : (updGroup s k f).ownPkg = s.ownPkg := rfl
@[simp] theorem updGroup_programs (s : State) (k : Nat) (f : Group → Group) : (updGroup s k f).programs = s.programs := rfl
@[simp] theorem updGroup_bindings (s : State) (k : Nat) (f : Group → Group) : (updGroup s k f).bindings = s.bindings := rfl
@[simp] theorem updGroup_slots (s : State) (k : Nat) (f : Group → Group) : (updGroup s k f).slots = s.slots := rfl
@[simp] theorem updGroup_instances (s : State) (k : Nat) (f : Group → Group) : (updGroup s k f).instances = s.instances := rfl
@[simp] theorem updGroup_keys (s : State) (k : Nat) (f : Group → Group) : (updGroup s k f).keys = s.keys := rfl
@[simp] theorem updGroup_flights (s : State) (k : Nat) (f : Group → Group) : (updGroup s k f).flights = s.flights := rfl
@[simp] theorem updGroup_wire (s : State) (k : Nat) (f : Group → Group) : (updGroup s k f).wire = s.wire := rfl
@[simp] theorem updGroup_answered (s : State) (k : Nat) (f : Group → Group) : (updGroup s k f).answered = s.answered := rfl
@[simp] theorem updGroup_routes (s : State) (k : Nat) (f : Group → Group) : (updGroup s k f).routes = s.routes := rfl
@[simp] theorem updGroup_breakout (s : State) (k : Nat) (f : Group → Group) : (updGroup s k f).breakout = s.breakout := rfl
@[simp] theorem updGroup_transit (s : State) (k : Nat) (f : Group → Group) : (updGroup s k f).transit = s.transit := rfl
@[simp] theorem updGroup_missing (s : State) (k : Nat) (f : Group → Group) : (updGroup s k f).missing = s.missing := rfl
@[simp] theorem updGroup_ios (s : State) (k : Nat) (f : Group → Group) : (updGroup s k f).ios = s.ios := rfl
@[simp] theorem updGroup_requests (s : State) (k : Nat) (f : Group → Group) : (updGroup s k f).requests = s.requests := rfl
@[simp] theorem updGroup_opReads (s : State) (k : Nat) (f : Group → Group) : (updGroup s k f).opReads = s.opReads := rfl
@[simp] theorem updGroup_remoteAtoms (s : State) (k : Nat) (f : Group → Group) : (updGroup s k f).remoteAtoms = s.remoteAtoms := rfl
@[simp] theorem updGroup_arrived (s : State) (k : Nat) (f : Group → Group) : (updGroup s k f).arrived = s.arrived := rfl
@[simp] theorem updGroup_bus (s : State) (k : Nat) (f : Group → Group) : (updGroup s k f).bus = s.bus := rfl
@[simp] theorem updGroup_heldAccess (s : State) (k : Nat) (f : Group → Group) : (updGroup s k f).heldAccess = s.heldAccess := rfl
@[simp] theorem updGroup_stage (s : State) (k : Nat) (f : Group → Group) : (updGroup s k f).stage = s.stage := rfl
@[simp] theorem updGroup_firmware (s : State) (k : Nat) (f : Group → Group) : (updGroup s k f).firmware = s.firmware := rfl
@[simp] theorem updGroup_reply (s : State) (k : Nat) (f : Group → Group) : (updGroup s k f).reply = s.reply := rfl
@[simp] theorem updGroup_numVfs (s : State) (k : Nat) (f : Group → Group) : (updGroup s k f).numVfs = s.numVfs := rfl
@[simp] theorem updGroup_vfs (s : State) (k : Nat) (f : Group → Group) : (updGroup s k f).vfs = s.vfs := rfl
@[simp] theorem updGroup_peerWin (s : State) (k : Nat) (f : Group → Group) : (updGroup s k f).peerWin = s.peerWin := rfl
@[simp] theorem updGroup_laneGroups (s : State) (k : Nat) (f : Group → Group) : (updGroup s k f).laneGroups = s.laneGroups := rfl
@[simp] theorem updGroup_linkDown (s : State) (k : Nat) (f : Group → Group) : (updGroup s k f).linkDown = s.linkDown := rfl
@[simp] theorem updGroup_newMode (s : State) (k : Nat) (f : Group → Group) : (updGroup s k f).newMode = s.newMode := rfl

/-! ### updQuad -/

@[simp] theorem updQuad_gid (s : State) (k : Nat) (f : Quad → Quad) : (updQuad s k f).gid = s.gid := rfl
@[simp] theorem updQuad_sp (s : State) (k : Nat) (f : Quad → Quad) : (updQuad s k f).sp = s.sp := rfl
@[simp] theorem updQuad_inst (s : State) (k : Nat) (f : Quad → Quad) : (updQuad s k f).inst = s.inst := rfl
@[simp] theorem updQuad_input (s : State) (k : Nat) (f : Quad → Quad) : (updQuad s k f).input = s.input := rfl
@[simp] theorem updQuad_agenda (s : State) (k : Nat) (f : Quad → Quad) : (updQuad s k f).agenda = s.agenda := rfl
@[simp] theorem updQuad_stalled (s : State) (k : Nat) (f : Quad → Quad) : (updQuad s k f).stalled = s.stalled := rfl
@[simp] theorem updQuad_fresh (s : State) (k : Nat) (f : Quad → Quad) : (updQuad s k f).fresh = s.fresh := rfl
@[simp] theorem updQuad_free (s : State) (k : Nat) (f : Quad → Quad) : (updQuad s k f).free = s.free := rfl
@[simp] theorem updQuad_clock (s : State) (k : Nat) (f : Quad → Quad) : (updQuad s k f).clock = s.clock := rfl
@[simp] theorem updQuad_mode (s : State) (k : Nat) (f : Quad → Quad) : (updQuad s k f).mode = s.mode := rfl
@[simp] theorem updQuad_gen (s : State) (k : Nat) (f : Quad → Quad) : (updQuad s k f).gen = s.gen := rfl
@[simp] theorem updQuad_busy (s : State) (k : Nat) (f : Quad → Quad) : (updQuad s k f).busy = s.busy := rfl
@[simp] theorem updQuad_secondTier (s : State) (k : Nat) (f : Quad → Quad) : (updQuad s k f).secondTier = s.secondTier := rfl
@[simp] theorem updQuad_mem (s : State) (k : Nat) (f : Quad → Quad) : (updQuad s k f).mem = s.mem := rfl
@[simp] theorem updQuad_poison (s : State) (k : Nat) (f : Quad → Quad) : (updQuad s k f).poison = s.poison := rfl
@[simp] theorem updQuad_rewritten (s : State) (k : Nat) (f : Quad → Quad) : (updQuad s k f).rewritten = s.rewritten := rfl
@[simp] theorem updQuad_owners (s : State) (k : Nat) (f : Quad → Quad) : (updQuad s k f).owners = s.owners := rfl
@[simp] theorem updQuad_gtroot (s : State) (k : Nat) (f : Quad → Quad) : (updQuad s k f).gtroot = s.gtroot := rfl
@[simp] theorem updQuad_tlb (s : State) (k : Nat) (f : Quad → Quad) : (updQuad s k f).tlb = s.tlb := rfl
@[simp] theorem updQuad_tables (s : State) (k : Nat) (f : Quad → Quad) : (updQuad s k f).tables = s.tables := rfl
@[simp] theorem updQuad_frames (s : State) (k : Nat) (f : Quad → Quad) : (updQuad s k f).frames = s.frames := rfl
@[simp] theorem updQuad_l1 (s : State) (k : Nat) (f : Quad → Quad) : (updQuad s k f).l1 = s.l1 := rfl
@[simp] theorem updQuad_parts (s : State) (k : Nat) (f : Quad → Quad) : (updQuad s k f).parts = s.parts := rfl
@[simp] theorem updQuad_sq (s : State) (k : Nat) (f : Quad → Quad) : (updQuad s k f).sq = s.sq := rfl
@[simp] theorem updQuad_late (s : State) (k : Nat) (f : Quad → Quad) : (updQuad s k f).late = s.late := rfl
@[simp] theorem updQuad_orphaned (s : State) (k : Nat) (f : Quad → Quad) : (updQuad s k f).orphaned = s.orphaned := rfl
@[simp] theorem updQuad_l2 (s : State) (k : Nat) (f : Quad → Quad) : (updQuad s k f).l2 = s.l2 := rfl
@[simp] theorem updQuad_sliceMts (s : State) (k : Nat) (f : Quad → Quad) : (updQuad s k f).sliceMts = s.sliceMts := rfl
@[simp] theorem updQuad_wb (s : State) (k : Nat) (f : Quad → Quad) : (updQuad s k f).wb = s.wb := rfl
@[simp] theorem updQuad_dir (s : State) (k : Nat) (f : Quad → Quad) : (updQuad s k f).dir = s.dir := rfl
@[simp] theorem updQuad_dirStatus (s : State) (k : Nat) (f : Quad → Quad) : (updQuad s k f).dirStatus = s.dirStatus := rfl
@[simp] theorem updQuad_rels (s : State) (k : Nat) (f : Quad → Quad) : (updQuad s k f).rels = s.rels := rfl
@[simp] theorem updQuad_written (s : State) (k : Nat) (f : Quad → Quad) : (updQuad s k f).written = s.written := rfl
@[simp] theorem updQuad_fetched (s : State) (k : Nat) (f : Quad → Quad) : (updQuad s k f).fetched = s.fetched := rfl
@[simp] theorem updQuad_ctxs (s : State) (k : Nat) (f : Quad → Quad) : (updQuad s k f).ctxs = s.ctxs := rfl
@[simp] theorem updQuad_quadHolder (s : State) (k : Nat) (f : Quad → Quad) : (updQuad s k f).quadHolder = s.quadHolder := rfl
@[simp] theorem updQuad_queueHolder (s : State) (k : Nat) (f : Quad → Quad) : (updQuad s k f).queueHolder = s.queueHolder := rfl
@[simp] theorem updQuad_portHolder (s : State) (k : Nat) (f : Quad → Quad) : (updQuad s k f).portHolder = s.portHolder := rfl
@[simp] theorem updQuad_queues (s : State) (k : Nat) (f : Quad → Quad) : (updQuad s k f).queues = s.queues := rfl
@[simp] theorem updQuad_grids (s : State) (k : Nat) (f : Quad → Quad) : (updQuad s k f).grids = s.grids := rfl
@[simp] theorem updQuad_slices (s : State) (k : Nat) (f : Quad → Quad) : (updQuad s k f).slices = s.slices := rfl
@[simp] theorem updQuad_blocks (s : State) (k : Nat) (f : Quad → Quad) : (updQuad s k f).blocks = s.blocks := rfl
@[simp] theorem updQuad_groups (s : State) (k : Nat) (f : Quad → Quad) : (updQuad s k f).groups = s.groups := rfl
@[simp] theorem updQuad_answers (s : State) (k : Nat) (f : Quad → Quad) : (updQuad s k f).answers = s.answers := rfl
@[simp] theorem updQuad_inns (s : State) (k : Nat) (f : Quad → Quad) : (updQuad s k f).inns = s.inns := rfl
@[simp] theorem updQuad_chunkQ (s : State) (k : Nat) (f : Quad → Quad) : (updQuad s k f).chunkQ = s.chunkQ := rfl
@[simp] theorem updQuad_boostTurn (s : State) (k : Nat) (f : Quad → Quad) : (updQuad s k f).boostTurn = s.boostTurn := rfl
@[simp] theorem updQuad_producers (s : State) (k : Nat) (f : Quad → Quad) : (updQuad s k f).producers = s.producers := rfl
@[simp] theorem updQuad_counters (s : State) (k : Nat) (f : Quad → Quad) : (updQuad s k f).counters = s.counters := rfl
@[simp] theorem updQuad_porterOps (s : State) (k : Nat) (f : Quad → Quad) : (updQuad s k f).porterOps = s.porterOps := rfl
@[simp] theorem updQuad_porters (s : State) (k : Nat) (f : Quad → Quad) : (updQuad s k f).porters = s.porters := rfl
@[simp] theorem updQuad_porterCtx (s : State) (k : Nat) (f : Quad → Quad) : (updQuad s k f).porterCtx = s.porterCtx := rfl
@[simp] theorem updQuad_heldRecs (s : State) (k : Nat) (f : Quad → Quad) : (updQuad s k f).heldRecs = s.heldRecs := rfl
@[simp] theorem updQuad_loft (s : State) (k : Nat) (f : Quad → Quad) : (updQuad s k f).loft = s.loft := rfl
@[simp] theorem updQuad_loftPoison (s : State) (k : Nat) (f : Quad → Quad) : (updQuad s k f).loftPoison = s.loftPoison := rfl
@[simp] theorem updQuad_windows (s : State) (k : Nat) (f : Quad → Quad) : (updQuad s k f).windows = s.windows := rfl
@[simp] theorem updQuad_ownPkg (s : State) (k : Nat) (f : Quad → Quad) : (updQuad s k f).ownPkg = s.ownPkg := rfl
@[simp] theorem updQuad_programs (s : State) (k : Nat) (f : Quad → Quad) : (updQuad s k f).programs = s.programs := rfl
@[simp] theorem updQuad_bindings (s : State) (k : Nat) (f : Quad → Quad) : (updQuad s k f).bindings = s.bindings := rfl
@[simp] theorem updQuad_slots (s : State) (k : Nat) (f : Quad → Quad) : (updQuad s k f).slots = s.slots := rfl
@[simp] theorem updQuad_instances (s : State) (k : Nat) (f : Quad → Quad) : (updQuad s k f).instances = s.instances := rfl
@[simp] theorem updQuad_keys (s : State) (k : Nat) (f : Quad → Quad) : (updQuad s k f).keys = s.keys := rfl
@[simp] theorem updQuad_flights (s : State) (k : Nat) (f : Quad → Quad) : (updQuad s k f).flights = s.flights := rfl
@[simp] theorem updQuad_wire (s : State) (k : Nat) (f : Quad → Quad) : (updQuad s k f).wire = s.wire := rfl
@[simp] theorem updQuad_answered (s : State) (k : Nat) (f : Quad → Quad) : (updQuad s k f).answered = s.answered := rfl
@[simp] theorem updQuad_routes (s : State) (k : Nat) (f : Quad → Quad) : (updQuad s k f).routes = s.routes := rfl
@[simp] theorem updQuad_breakout (s : State) (k : Nat) (f : Quad → Quad) : (updQuad s k f).breakout = s.breakout := rfl
@[simp] theorem updQuad_transit (s : State) (k : Nat) (f : Quad → Quad) : (updQuad s k f).transit = s.transit := rfl
@[simp] theorem updQuad_missing (s : State) (k : Nat) (f : Quad → Quad) : (updQuad s k f).missing = s.missing := rfl
@[simp] theorem updQuad_ios (s : State) (k : Nat) (f : Quad → Quad) : (updQuad s k f).ios = s.ios := rfl
@[simp] theorem updQuad_requests (s : State) (k : Nat) (f : Quad → Quad) : (updQuad s k f).requests = s.requests := rfl
@[simp] theorem updQuad_opReads (s : State) (k : Nat) (f : Quad → Quad) : (updQuad s k f).opReads = s.opReads := rfl
@[simp] theorem updQuad_remoteAtoms (s : State) (k : Nat) (f : Quad → Quad) : (updQuad s k f).remoteAtoms = s.remoteAtoms := rfl
@[simp] theorem updQuad_arrived (s : State) (k : Nat) (f : Quad → Quad) : (updQuad s k f).arrived = s.arrived := rfl
@[simp] theorem updQuad_bus (s : State) (k : Nat) (f : Quad → Quad) : (updQuad s k f).bus = s.bus := rfl
@[simp] theorem updQuad_heldAccess (s : State) (k : Nat) (f : Quad → Quad) : (updQuad s k f).heldAccess = s.heldAccess := rfl
@[simp] theorem updQuad_stage (s : State) (k : Nat) (f : Quad → Quad) : (updQuad s k f).stage = s.stage := rfl
@[simp] theorem updQuad_firmware (s : State) (k : Nat) (f : Quad → Quad) : (updQuad s k f).firmware = s.firmware := rfl
@[simp] theorem updQuad_reply (s : State) (k : Nat) (f : Quad → Quad) : (updQuad s k f).reply = s.reply := rfl
@[simp] theorem updQuad_numVfs (s : State) (k : Nat) (f : Quad → Quad) : (updQuad s k f).numVfs = s.numVfs := rfl
@[simp] theorem updQuad_vfs (s : State) (k : Nat) (f : Quad → Quad) : (updQuad s k f).vfs = s.vfs := rfl
@[simp] theorem updQuad_peerWin (s : State) (k : Nat) (f : Quad → Quad) : (updQuad s k f).peerWin = s.peerWin := rfl
@[simp] theorem updQuad_laneGroups (s : State) (k : Nat) (f : Quad → Quad) : (updQuad s k f).laneGroups = s.laneGroups := rfl
@[simp] theorem updQuad_linkDown (s : State) (k : Nat) (f : Quad → Quad) : (updQuad s k f).linkDown = s.linkDown := rfl
@[simp] theorem updQuad_newMode (s : State) (k : Nat) (f : Quad → Quad) : (updQuad s k f).newMode = s.newMode := rfl

/-! ### updCtx -/

@[simp] theorem updCtx_gid (s : State) (k : Nat) (f : Context → Context) : (updCtx s k f).gid = s.gid := rfl
@[simp] theorem updCtx_sp (s : State) (k : Nat) (f : Context → Context) : (updCtx s k f).sp = s.sp := rfl
@[simp] theorem updCtx_inst (s : State) (k : Nat) (f : Context → Context) : (updCtx s k f).inst = s.inst := rfl
@[simp] theorem updCtx_input (s : State) (k : Nat) (f : Context → Context) : (updCtx s k f).input = s.input := rfl
@[simp] theorem updCtx_agenda (s : State) (k : Nat) (f : Context → Context) : (updCtx s k f).agenda = s.agenda := rfl
@[simp] theorem updCtx_stalled (s : State) (k : Nat) (f : Context → Context) : (updCtx s k f).stalled = s.stalled := rfl
@[simp] theorem updCtx_fresh (s : State) (k : Nat) (f : Context → Context) : (updCtx s k f).fresh = s.fresh := rfl
@[simp] theorem updCtx_free (s : State) (k : Nat) (f : Context → Context) : (updCtx s k f).free = s.free := rfl
@[simp] theorem updCtx_clock (s : State) (k : Nat) (f : Context → Context) : (updCtx s k f).clock = s.clock := rfl
@[simp] theorem updCtx_mode (s : State) (k : Nat) (f : Context → Context) : (updCtx s k f).mode = s.mode := rfl
@[simp] theorem updCtx_gen (s : State) (k : Nat) (f : Context → Context) : (updCtx s k f).gen = s.gen := rfl
@[simp] theorem updCtx_busy (s : State) (k : Nat) (f : Context → Context) : (updCtx s k f).busy = s.busy := rfl
@[simp] theorem updCtx_secondTier (s : State) (k : Nat) (f : Context → Context) : (updCtx s k f).secondTier = s.secondTier := rfl
@[simp] theorem updCtx_mem (s : State) (k : Nat) (f : Context → Context) : (updCtx s k f).mem = s.mem := rfl
@[simp] theorem updCtx_poison (s : State) (k : Nat) (f : Context → Context) : (updCtx s k f).poison = s.poison := rfl
@[simp] theorem updCtx_rewritten (s : State) (k : Nat) (f : Context → Context) : (updCtx s k f).rewritten = s.rewritten := rfl
@[simp] theorem updCtx_owners (s : State) (k : Nat) (f : Context → Context) : (updCtx s k f).owners = s.owners := rfl
@[simp] theorem updCtx_gtroot (s : State) (k : Nat) (f : Context → Context) : (updCtx s k f).gtroot = s.gtroot := rfl
@[simp] theorem updCtx_tlb (s : State) (k : Nat) (f : Context → Context) : (updCtx s k f).tlb = s.tlb := rfl
@[simp] theorem updCtx_tables (s : State) (k : Nat) (f : Context → Context) : (updCtx s k f).tables = s.tables := rfl
@[simp] theorem updCtx_frames (s : State) (k : Nat) (f : Context → Context) : (updCtx s k f).frames = s.frames := rfl
@[simp] theorem updCtx_l1 (s : State) (k : Nat) (f : Context → Context) : (updCtx s k f).l1 = s.l1 := rfl
@[simp] theorem updCtx_parts (s : State) (k : Nat) (f : Context → Context) : (updCtx s k f).parts = s.parts := rfl
@[simp] theorem updCtx_sq (s : State) (k : Nat) (f : Context → Context) : (updCtx s k f).sq = s.sq := rfl
@[simp] theorem updCtx_late (s : State) (k : Nat) (f : Context → Context) : (updCtx s k f).late = s.late := rfl
@[simp] theorem updCtx_orphaned (s : State) (k : Nat) (f : Context → Context) : (updCtx s k f).orphaned = s.orphaned := rfl
@[simp] theorem updCtx_l2 (s : State) (k : Nat) (f : Context → Context) : (updCtx s k f).l2 = s.l2 := rfl
@[simp] theorem updCtx_sliceMts (s : State) (k : Nat) (f : Context → Context) : (updCtx s k f).sliceMts = s.sliceMts := rfl
@[simp] theorem updCtx_wb (s : State) (k : Nat) (f : Context → Context) : (updCtx s k f).wb = s.wb := rfl
@[simp] theorem updCtx_dir (s : State) (k : Nat) (f : Context → Context) : (updCtx s k f).dir = s.dir := rfl
@[simp] theorem updCtx_dirStatus (s : State) (k : Nat) (f : Context → Context) : (updCtx s k f).dirStatus = s.dirStatus := rfl
@[simp] theorem updCtx_rels (s : State) (k : Nat) (f : Context → Context) : (updCtx s k f).rels = s.rels := rfl
@[simp] theorem updCtx_written (s : State) (k : Nat) (f : Context → Context) : (updCtx s k f).written = s.written := rfl
@[simp] theorem updCtx_fetched (s : State) (k : Nat) (f : Context → Context) : (updCtx s k f).fetched = s.fetched := rfl
@[simp] theorem updCtx_quadHolder (s : State) (k : Nat) (f : Context → Context) : (updCtx s k f).quadHolder = s.quadHolder := rfl
@[simp] theorem updCtx_queueHolder (s : State) (k : Nat) (f : Context → Context) : (updCtx s k f).queueHolder = s.queueHolder := rfl
@[simp] theorem updCtx_portHolder (s : State) (k : Nat) (f : Context → Context) : (updCtx s k f).portHolder = s.portHolder := rfl
@[simp] theorem updCtx_queues (s : State) (k : Nat) (f : Context → Context) : (updCtx s k f).queues = s.queues := rfl
@[simp] theorem updCtx_grids (s : State) (k : Nat) (f : Context → Context) : (updCtx s k f).grids = s.grids := rfl
@[simp] theorem updCtx_slices (s : State) (k : Nat) (f : Context → Context) : (updCtx s k f).slices = s.slices := rfl
@[simp] theorem updCtx_blocks (s : State) (k : Nat) (f : Context → Context) : (updCtx s k f).blocks = s.blocks := rfl
@[simp] theorem updCtx_groups (s : State) (k : Nat) (f : Context → Context) : (updCtx s k f).groups = s.groups := rfl
@[simp] theorem updCtx_answers (s : State) (k : Nat) (f : Context → Context) : (updCtx s k f).answers = s.answers := rfl
@[simp] theorem updCtx_inns (s : State) (k : Nat) (f : Context → Context) : (updCtx s k f).inns = s.inns := rfl
@[simp] theorem updCtx_chunkQ (s : State) (k : Nat) (f : Context → Context) : (updCtx s k f).chunkQ = s.chunkQ := rfl
@[simp] theorem updCtx_boostTurn (s : State) (k : Nat) (f : Context → Context) : (updCtx s k f).boostTurn = s.boostTurn := rfl
@[simp] theorem updCtx_producers (s : State) (k : Nat) (f : Context → Context) : (updCtx s k f).producers = s.producers := rfl
@[simp] theorem updCtx_counters (s : State) (k : Nat) (f : Context → Context) : (updCtx s k f).counters = s.counters := rfl
@[simp] theorem updCtx_porterOps (s : State) (k : Nat) (f : Context → Context) : (updCtx s k f).porterOps = s.porterOps := rfl
@[simp] theorem updCtx_porters (s : State) (k : Nat) (f : Context → Context) : (updCtx s k f).porters = s.porters := rfl
@[simp] theorem updCtx_porterCtx (s : State) (k : Nat) (f : Context → Context) : (updCtx s k f).porterCtx = s.porterCtx := rfl
@[simp] theorem updCtx_heldRecs (s : State) (k : Nat) (f : Context → Context) : (updCtx s k f).heldRecs = s.heldRecs := rfl
@[simp] theorem updCtx_quads (s : State) (k : Nat) (f : Context → Context) : (updCtx s k f).quads = s.quads := rfl
@[simp] theorem updCtx_loft (s : State) (k : Nat) (f : Context → Context) : (updCtx s k f).loft = s.loft := rfl
@[simp] theorem updCtx_loftPoison (s : State) (k : Nat) (f : Context → Context) : (updCtx s k f).loftPoison = s.loftPoison := rfl
@[simp] theorem updCtx_windows (s : State) (k : Nat) (f : Context → Context) : (updCtx s k f).windows = s.windows := rfl
@[simp] theorem updCtx_ownPkg (s : State) (k : Nat) (f : Context → Context) : (updCtx s k f).ownPkg = s.ownPkg := rfl
@[simp] theorem updCtx_programs (s : State) (k : Nat) (f : Context → Context) : (updCtx s k f).programs = s.programs := rfl
@[simp] theorem updCtx_bindings (s : State) (k : Nat) (f : Context → Context) : (updCtx s k f).bindings = s.bindings := rfl
@[simp] theorem updCtx_slots (s : State) (k : Nat) (f : Context → Context) : (updCtx s k f).slots = s.slots := rfl
@[simp] theorem updCtx_instances (s : State) (k : Nat) (f : Context → Context) : (updCtx s k f).instances = s.instances := rfl
@[simp] theorem updCtx_keys (s : State) (k : Nat) (f : Context → Context) : (updCtx s k f).keys = s.keys := rfl
@[simp] theorem updCtx_flights (s : State) (k : Nat) (f : Context → Context) : (updCtx s k f).flights = s.flights := rfl
@[simp] theorem updCtx_wire (s : State) (k : Nat) (f : Context → Context) : (updCtx s k f).wire = s.wire := rfl
@[simp] theorem updCtx_answered (s : State) (k : Nat) (f : Context → Context) : (updCtx s k f).answered = s.answered := rfl
@[simp] theorem updCtx_routes (s : State) (k : Nat) (f : Context → Context) : (updCtx s k f).routes = s.routes := rfl
@[simp] theorem updCtx_breakout (s : State) (k : Nat) (f : Context → Context) : (updCtx s k f).breakout = s.breakout := rfl
@[simp] theorem updCtx_transit (s : State) (k : Nat) (f : Context → Context) : (updCtx s k f).transit = s.transit := rfl
@[simp] theorem updCtx_missing (s : State) (k : Nat) (f : Context → Context) : (updCtx s k f).missing = s.missing := rfl
@[simp] theorem updCtx_ios (s : State) (k : Nat) (f : Context → Context) : (updCtx s k f).ios = s.ios := rfl
@[simp] theorem updCtx_requests (s : State) (k : Nat) (f : Context → Context) : (updCtx s k f).requests = s.requests := rfl
@[simp] theorem updCtx_opReads (s : State) (k : Nat) (f : Context → Context) : (updCtx s k f).opReads = s.opReads := rfl
@[simp] theorem updCtx_remoteAtoms (s : State) (k : Nat) (f : Context → Context) : (updCtx s k f).remoteAtoms = s.remoteAtoms := rfl
@[simp] theorem updCtx_arrived (s : State) (k : Nat) (f : Context → Context) : (updCtx s k f).arrived = s.arrived := rfl
@[simp] theorem updCtx_bus (s : State) (k : Nat) (f : Context → Context) : (updCtx s k f).bus = s.bus := rfl
@[simp] theorem updCtx_heldAccess (s : State) (k : Nat) (f : Context → Context) : (updCtx s k f).heldAccess = s.heldAccess := rfl
@[simp] theorem updCtx_stage (s : State) (k : Nat) (f : Context → Context) : (updCtx s k f).stage = s.stage := rfl
@[simp] theorem updCtx_firmware (s : State) (k : Nat) (f : Context → Context) : (updCtx s k f).firmware = s.firmware := rfl
@[simp] theorem updCtx_reply (s : State) (k : Nat) (f : Context → Context) : (updCtx s k f).reply = s.reply := rfl
@[simp] theorem updCtx_numVfs (s : State) (k : Nat) (f : Context → Context) : (updCtx s k f).numVfs = s.numVfs := rfl
@[simp] theorem updCtx_vfs (s : State) (k : Nat) (f : Context → Context) : (updCtx s k f).vfs = s.vfs := rfl
@[simp] theorem updCtx_peerWin (s : State) (k : Nat) (f : Context → Context) : (updCtx s k f).peerWin = s.peerWin := rfl
@[simp] theorem updCtx_laneGroups (s : State) (k : Nat) (f : Context → Context) : (updCtx s k f).laneGroups = s.laneGroups := rfl
@[simp] theorem updCtx_linkDown (s : State) (k : Nat) (f : Context → Context) : (updCtx s k f).linkDown = s.linkDown := rfl
@[simp] theorem updCtx_newMode (s : State) (k : Nat) (f : Context → Context) : (updCtx s k f).newMode = s.newMode := rfl

/-! ### updBlock -/

@[simp] theorem updBlock_gid (s : State) (k : Nat) (f : Block → Block) : (updBlock s k f).gid = s.gid := rfl
@[simp] theorem updBlock_sp (s : State) (k : Nat) (f : Block → Block) : (updBlock s k f).sp = s.sp := rfl
@[simp] theorem updBlock_inst (s : State) (k : Nat) (f : Block → Block) : (updBlock s k f).inst = s.inst := rfl
@[simp] theorem updBlock_input (s : State) (k : Nat) (f : Block → Block) : (updBlock s k f).input = s.input := rfl
@[simp] theorem updBlock_agenda (s : State) (k : Nat) (f : Block → Block) : (updBlock s k f).agenda = s.agenda := rfl
@[simp] theorem updBlock_stalled (s : State) (k : Nat) (f : Block → Block) : (updBlock s k f).stalled = s.stalled := rfl
@[simp] theorem updBlock_fresh (s : State) (k : Nat) (f : Block → Block) : (updBlock s k f).fresh = s.fresh := rfl
@[simp] theorem updBlock_free (s : State) (k : Nat) (f : Block → Block) : (updBlock s k f).free = s.free := rfl
@[simp] theorem updBlock_clock (s : State) (k : Nat) (f : Block → Block) : (updBlock s k f).clock = s.clock := rfl
@[simp] theorem updBlock_mode (s : State) (k : Nat) (f : Block → Block) : (updBlock s k f).mode = s.mode := rfl
@[simp] theorem updBlock_gen (s : State) (k : Nat) (f : Block → Block) : (updBlock s k f).gen = s.gen := rfl
@[simp] theorem updBlock_busy (s : State) (k : Nat) (f : Block → Block) : (updBlock s k f).busy = s.busy := rfl
@[simp] theorem updBlock_secondTier (s : State) (k : Nat) (f : Block → Block) : (updBlock s k f).secondTier = s.secondTier := rfl
@[simp] theorem updBlock_mem (s : State) (k : Nat) (f : Block → Block) : (updBlock s k f).mem = s.mem := rfl
@[simp] theorem updBlock_poison (s : State) (k : Nat) (f : Block → Block) : (updBlock s k f).poison = s.poison := rfl
@[simp] theorem updBlock_rewritten (s : State) (k : Nat) (f : Block → Block) : (updBlock s k f).rewritten = s.rewritten := rfl
@[simp] theorem updBlock_owners (s : State) (k : Nat) (f : Block → Block) : (updBlock s k f).owners = s.owners := rfl
@[simp] theorem updBlock_gtroot (s : State) (k : Nat) (f : Block → Block) : (updBlock s k f).gtroot = s.gtroot := rfl
@[simp] theorem updBlock_tlb (s : State) (k : Nat) (f : Block → Block) : (updBlock s k f).tlb = s.tlb := rfl
@[simp] theorem updBlock_tables (s : State) (k : Nat) (f : Block → Block) : (updBlock s k f).tables = s.tables := rfl
@[simp] theorem updBlock_frames (s : State) (k : Nat) (f : Block → Block) : (updBlock s k f).frames = s.frames := rfl
@[simp] theorem updBlock_l1 (s : State) (k : Nat) (f : Block → Block) : (updBlock s k f).l1 = s.l1 := rfl
@[simp] theorem updBlock_parts (s : State) (k : Nat) (f : Block → Block) : (updBlock s k f).parts = s.parts := rfl
@[simp] theorem updBlock_sq (s : State) (k : Nat) (f : Block → Block) : (updBlock s k f).sq = s.sq := rfl
@[simp] theorem updBlock_late (s : State) (k : Nat) (f : Block → Block) : (updBlock s k f).late = s.late := rfl
@[simp] theorem updBlock_orphaned (s : State) (k : Nat) (f : Block → Block) : (updBlock s k f).orphaned = s.orphaned := rfl
@[simp] theorem updBlock_l2 (s : State) (k : Nat) (f : Block → Block) : (updBlock s k f).l2 = s.l2 := rfl
@[simp] theorem updBlock_sliceMts (s : State) (k : Nat) (f : Block → Block) : (updBlock s k f).sliceMts = s.sliceMts := rfl
@[simp] theorem updBlock_wb (s : State) (k : Nat) (f : Block → Block) : (updBlock s k f).wb = s.wb := rfl
@[simp] theorem updBlock_dir (s : State) (k : Nat) (f : Block → Block) : (updBlock s k f).dir = s.dir := rfl
@[simp] theorem updBlock_dirStatus (s : State) (k : Nat) (f : Block → Block) : (updBlock s k f).dirStatus = s.dirStatus := rfl
@[simp] theorem updBlock_rels (s : State) (k : Nat) (f : Block → Block) : (updBlock s k f).rels = s.rels := rfl
@[simp] theorem updBlock_written (s : State) (k : Nat) (f : Block → Block) : (updBlock s k f).written = s.written := rfl
@[simp] theorem updBlock_fetched (s : State) (k : Nat) (f : Block → Block) : (updBlock s k f).fetched = s.fetched := rfl
@[simp] theorem updBlock_ctxs (s : State) (k : Nat) (f : Block → Block) : (updBlock s k f).ctxs = s.ctxs := rfl
@[simp] theorem updBlock_quadHolder (s : State) (k : Nat) (f : Block → Block) : (updBlock s k f).quadHolder = s.quadHolder := rfl
@[simp] theorem updBlock_queueHolder (s : State) (k : Nat) (f : Block → Block) : (updBlock s k f).queueHolder = s.queueHolder := rfl
@[simp] theorem updBlock_portHolder (s : State) (k : Nat) (f : Block → Block) : (updBlock s k f).portHolder = s.portHolder := rfl
@[simp] theorem updBlock_queues (s : State) (k : Nat) (f : Block → Block) : (updBlock s k f).queues = s.queues := rfl
@[simp] theorem updBlock_grids (s : State) (k : Nat) (f : Block → Block) : (updBlock s k f).grids = s.grids := rfl
@[simp] theorem updBlock_slices (s : State) (k : Nat) (f : Block → Block) : (updBlock s k f).slices = s.slices := rfl
@[simp] theorem updBlock_groups (s : State) (k : Nat) (f : Block → Block) : (updBlock s k f).groups = s.groups := rfl
@[simp] theorem updBlock_answers (s : State) (k : Nat) (f : Block → Block) : (updBlock s k f).answers = s.answers := rfl
@[simp] theorem updBlock_inns (s : State) (k : Nat) (f : Block → Block) : (updBlock s k f).inns = s.inns := rfl
@[simp] theorem updBlock_chunkQ (s : State) (k : Nat) (f : Block → Block) : (updBlock s k f).chunkQ = s.chunkQ := rfl
@[simp] theorem updBlock_boostTurn (s : State) (k : Nat) (f : Block → Block) : (updBlock s k f).boostTurn = s.boostTurn := rfl
@[simp] theorem updBlock_producers (s : State) (k : Nat) (f : Block → Block) : (updBlock s k f).producers = s.producers := rfl
@[simp] theorem updBlock_counters (s : State) (k : Nat) (f : Block → Block) : (updBlock s k f).counters = s.counters := rfl
@[simp] theorem updBlock_porterOps (s : State) (k : Nat) (f : Block → Block) : (updBlock s k f).porterOps = s.porterOps := rfl
@[simp] theorem updBlock_porters (s : State) (k : Nat) (f : Block → Block) : (updBlock s k f).porters = s.porters := rfl
@[simp] theorem updBlock_porterCtx (s : State) (k : Nat) (f : Block → Block) : (updBlock s k f).porterCtx = s.porterCtx := rfl
@[simp] theorem updBlock_heldRecs (s : State) (k : Nat) (f : Block → Block) : (updBlock s k f).heldRecs = s.heldRecs := rfl
@[simp] theorem updBlock_quads (s : State) (k : Nat) (f : Block → Block) : (updBlock s k f).quads = s.quads := rfl
@[simp] theorem updBlock_loft (s : State) (k : Nat) (f : Block → Block) : (updBlock s k f).loft = s.loft := rfl
@[simp] theorem updBlock_loftPoison (s : State) (k : Nat) (f : Block → Block) : (updBlock s k f).loftPoison = s.loftPoison := rfl
@[simp] theorem updBlock_windows (s : State) (k : Nat) (f : Block → Block) : (updBlock s k f).windows = s.windows := rfl
@[simp] theorem updBlock_ownPkg (s : State) (k : Nat) (f : Block → Block) : (updBlock s k f).ownPkg = s.ownPkg := rfl
@[simp] theorem updBlock_programs (s : State) (k : Nat) (f : Block → Block) : (updBlock s k f).programs = s.programs := rfl
@[simp] theorem updBlock_bindings (s : State) (k : Nat) (f : Block → Block) : (updBlock s k f).bindings = s.bindings := rfl
@[simp] theorem updBlock_slots (s : State) (k : Nat) (f : Block → Block) : (updBlock s k f).slots = s.slots := rfl
@[simp] theorem updBlock_instances (s : State) (k : Nat) (f : Block → Block) : (updBlock s k f).instances = s.instances := rfl
@[simp] theorem updBlock_keys (s : State) (k : Nat) (f : Block → Block) : (updBlock s k f).keys = s.keys := rfl
@[simp] theorem updBlock_flights (s : State) (k : Nat) (f : Block → Block) : (updBlock s k f).flights = s.flights := rfl
@[simp] theorem updBlock_wire (s : State) (k : Nat) (f : Block → Block) : (updBlock s k f).wire = s.wire := rfl
@[simp] theorem updBlock_answered (s : State) (k : Nat) (f : Block → Block) : (updBlock s k f).answered = s.answered := rfl
@[simp] theorem updBlock_routes (s : State) (k : Nat) (f : Block → Block) : (updBlock s k f).routes = s.routes := rfl
@[simp] theorem updBlock_breakout (s : State) (k : Nat) (f : Block → Block) : (updBlock s k f).breakout = s.breakout := rfl
@[simp] theorem updBlock_transit (s : State) (k : Nat) (f : Block → Block) : (updBlock s k f).transit = s.transit := rfl
@[simp] theorem updBlock_missing (s : State) (k : Nat) (f : Block → Block) : (updBlock s k f).missing = s.missing := rfl
@[simp] theorem updBlock_ios (s : State) (k : Nat) (f : Block → Block) : (updBlock s k f).ios = s.ios := rfl
@[simp] theorem updBlock_requests (s : State) (k : Nat) (f : Block → Block) : (updBlock s k f).requests = s.requests := rfl
@[simp] theorem updBlock_opReads (s : State) (k : Nat) (f : Block → Block) : (updBlock s k f).opReads = s.opReads := rfl
@[simp] theorem updBlock_remoteAtoms (s : State) (k : Nat) (f : Block → Block) : (updBlock s k f).remoteAtoms = s.remoteAtoms := rfl
@[simp] theorem updBlock_arrived (s : State) (k : Nat) (f : Block → Block) : (updBlock s k f).arrived = s.arrived := rfl
@[simp] theorem updBlock_bus (s : State) (k : Nat) (f : Block → Block) : (updBlock s k f).bus = s.bus := rfl
@[simp] theorem updBlock_heldAccess (s : State) (k : Nat) (f : Block → Block) : (updBlock s k f).heldAccess = s.heldAccess := rfl
@[simp] theorem updBlock_stage (s : State) (k : Nat) (f : Block → Block) : (updBlock s k f).stage = s.stage := rfl
@[simp] theorem updBlock_firmware (s : State) (k : Nat) (f : Block → Block) : (updBlock s k f).firmware = s.firmware := rfl
@[simp] theorem updBlock_reply (s : State) (k : Nat) (f : Block → Block) : (updBlock s k f).reply = s.reply := rfl
@[simp] theorem updBlock_numVfs (s : State) (k : Nat) (f : Block → Block) : (updBlock s k f).numVfs = s.numVfs := rfl
@[simp] theorem updBlock_vfs (s : State) (k : Nat) (f : Block → Block) : (updBlock s k f).vfs = s.vfs := rfl
@[simp] theorem updBlock_peerWin (s : State) (k : Nat) (f : Block → Block) : (updBlock s k f).peerWin = s.peerWin := rfl
@[simp] theorem updBlock_laneGroups (s : State) (k : Nat) (f : Block → Block) : (updBlock s k f).laneGroups = s.laneGroups := rfl
@[simp] theorem updBlock_linkDown (s : State) (k : Nat) (f : Block → Block) : (updBlock s k f).linkDown = s.linkDown := rfl
@[simp] theorem updBlock_newMode (s : State) (k : Nat) (f : Block → Block) : (updBlock s k f).newMode = s.newMode := rfl

/-! ### updGrid -/

@[simp] theorem updGrid_gid (s : State) (k : Nat) (f : Grid → Grid) : (updGrid s k f).gid = s.gid := rfl
@[simp] theorem updGrid_sp (s : State) (k : Nat) (f : Grid → Grid) : (updGrid s k f).sp = s.sp := rfl
@[simp] theorem updGrid_inst (s : State) (k : Nat) (f : Grid → Grid) : (updGrid s k f).inst = s.inst := rfl
@[simp] theorem updGrid_input (s : State) (k : Nat) (f : Grid → Grid) : (updGrid s k f).input = s.input := rfl
@[simp] theorem updGrid_agenda (s : State) (k : Nat) (f : Grid → Grid) : (updGrid s k f).agenda = s.agenda := rfl
@[simp] theorem updGrid_stalled (s : State) (k : Nat) (f : Grid → Grid) : (updGrid s k f).stalled = s.stalled := rfl
@[simp] theorem updGrid_fresh (s : State) (k : Nat) (f : Grid → Grid) : (updGrid s k f).fresh = s.fresh := rfl
@[simp] theorem updGrid_free (s : State) (k : Nat) (f : Grid → Grid) : (updGrid s k f).free = s.free := rfl
@[simp] theorem updGrid_clock (s : State) (k : Nat) (f : Grid → Grid) : (updGrid s k f).clock = s.clock := rfl
@[simp] theorem updGrid_mode (s : State) (k : Nat) (f : Grid → Grid) : (updGrid s k f).mode = s.mode := rfl
@[simp] theorem updGrid_gen (s : State) (k : Nat) (f : Grid → Grid) : (updGrid s k f).gen = s.gen := rfl
@[simp] theorem updGrid_busy (s : State) (k : Nat) (f : Grid → Grid) : (updGrid s k f).busy = s.busy := rfl
@[simp] theorem updGrid_secondTier (s : State) (k : Nat) (f : Grid → Grid) : (updGrid s k f).secondTier = s.secondTier := rfl
@[simp] theorem updGrid_mem (s : State) (k : Nat) (f : Grid → Grid) : (updGrid s k f).mem = s.mem := rfl
@[simp] theorem updGrid_poison (s : State) (k : Nat) (f : Grid → Grid) : (updGrid s k f).poison = s.poison := rfl
@[simp] theorem updGrid_rewritten (s : State) (k : Nat) (f : Grid → Grid) : (updGrid s k f).rewritten = s.rewritten := rfl
@[simp] theorem updGrid_owners (s : State) (k : Nat) (f : Grid → Grid) : (updGrid s k f).owners = s.owners := rfl
@[simp] theorem updGrid_gtroot (s : State) (k : Nat) (f : Grid → Grid) : (updGrid s k f).gtroot = s.gtroot := rfl
@[simp] theorem updGrid_tlb (s : State) (k : Nat) (f : Grid → Grid) : (updGrid s k f).tlb = s.tlb := rfl
@[simp] theorem updGrid_tables (s : State) (k : Nat) (f : Grid → Grid) : (updGrid s k f).tables = s.tables := rfl
@[simp] theorem updGrid_frames (s : State) (k : Nat) (f : Grid → Grid) : (updGrid s k f).frames = s.frames := rfl
@[simp] theorem updGrid_l1 (s : State) (k : Nat) (f : Grid → Grid) : (updGrid s k f).l1 = s.l1 := rfl
@[simp] theorem updGrid_parts (s : State) (k : Nat) (f : Grid → Grid) : (updGrid s k f).parts = s.parts := rfl
@[simp] theorem updGrid_sq (s : State) (k : Nat) (f : Grid → Grid) : (updGrid s k f).sq = s.sq := rfl
@[simp] theorem updGrid_late (s : State) (k : Nat) (f : Grid → Grid) : (updGrid s k f).late = s.late := rfl
@[simp] theorem updGrid_orphaned (s : State) (k : Nat) (f : Grid → Grid) : (updGrid s k f).orphaned = s.orphaned := rfl
@[simp] theorem updGrid_l2 (s : State) (k : Nat) (f : Grid → Grid) : (updGrid s k f).l2 = s.l2 := rfl
@[simp] theorem updGrid_sliceMts (s : State) (k : Nat) (f : Grid → Grid) : (updGrid s k f).sliceMts = s.sliceMts := rfl
@[simp] theorem updGrid_wb (s : State) (k : Nat) (f : Grid → Grid) : (updGrid s k f).wb = s.wb := rfl
@[simp] theorem updGrid_dir (s : State) (k : Nat) (f : Grid → Grid) : (updGrid s k f).dir = s.dir := rfl
@[simp] theorem updGrid_dirStatus (s : State) (k : Nat) (f : Grid → Grid) : (updGrid s k f).dirStatus = s.dirStatus := rfl
@[simp] theorem updGrid_rels (s : State) (k : Nat) (f : Grid → Grid) : (updGrid s k f).rels = s.rels := rfl
@[simp] theorem updGrid_written (s : State) (k : Nat) (f : Grid → Grid) : (updGrid s k f).written = s.written := rfl
@[simp] theorem updGrid_fetched (s : State) (k : Nat) (f : Grid → Grid) : (updGrid s k f).fetched = s.fetched := rfl
@[simp] theorem updGrid_ctxs (s : State) (k : Nat) (f : Grid → Grid) : (updGrid s k f).ctxs = s.ctxs := rfl
@[simp] theorem updGrid_quadHolder (s : State) (k : Nat) (f : Grid → Grid) : (updGrid s k f).quadHolder = s.quadHolder := rfl
@[simp] theorem updGrid_queueHolder (s : State) (k : Nat) (f : Grid → Grid) : (updGrid s k f).queueHolder = s.queueHolder := rfl
@[simp] theorem updGrid_portHolder (s : State) (k : Nat) (f : Grid → Grid) : (updGrid s k f).portHolder = s.portHolder := rfl
@[simp] theorem updGrid_queues (s : State) (k : Nat) (f : Grid → Grid) : (updGrid s k f).queues = s.queues := rfl
@[simp] theorem updGrid_slices (s : State) (k : Nat) (f : Grid → Grid) : (updGrid s k f).slices = s.slices := rfl
@[simp] theorem updGrid_blocks (s : State) (k : Nat) (f : Grid → Grid) : (updGrid s k f).blocks = s.blocks := rfl
@[simp] theorem updGrid_groups (s : State) (k : Nat) (f : Grid → Grid) : (updGrid s k f).groups = s.groups := rfl
@[simp] theorem updGrid_answers (s : State) (k : Nat) (f : Grid → Grid) : (updGrid s k f).answers = s.answers := rfl
@[simp] theorem updGrid_inns (s : State) (k : Nat) (f : Grid → Grid) : (updGrid s k f).inns = s.inns := rfl
@[simp] theorem updGrid_chunkQ (s : State) (k : Nat) (f : Grid → Grid) : (updGrid s k f).chunkQ = s.chunkQ := rfl
@[simp] theorem updGrid_boostTurn (s : State) (k : Nat) (f : Grid → Grid) : (updGrid s k f).boostTurn = s.boostTurn := rfl
@[simp] theorem updGrid_producers (s : State) (k : Nat) (f : Grid → Grid) : (updGrid s k f).producers = s.producers := rfl
@[simp] theorem updGrid_counters (s : State) (k : Nat) (f : Grid → Grid) : (updGrid s k f).counters = s.counters := rfl
@[simp] theorem updGrid_porterOps (s : State) (k : Nat) (f : Grid → Grid) : (updGrid s k f).porterOps = s.porterOps := rfl
@[simp] theorem updGrid_porters (s : State) (k : Nat) (f : Grid → Grid) : (updGrid s k f).porters = s.porters := rfl
@[simp] theorem updGrid_porterCtx (s : State) (k : Nat) (f : Grid → Grid) : (updGrid s k f).porterCtx = s.porterCtx := rfl
@[simp] theorem updGrid_heldRecs (s : State) (k : Nat) (f : Grid → Grid) : (updGrid s k f).heldRecs = s.heldRecs := rfl
@[simp] theorem updGrid_quads (s : State) (k : Nat) (f : Grid → Grid) : (updGrid s k f).quads = s.quads := rfl
@[simp] theorem updGrid_loft (s : State) (k : Nat) (f : Grid → Grid) : (updGrid s k f).loft = s.loft := rfl
@[simp] theorem updGrid_loftPoison (s : State) (k : Nat) (f : Grid → Grid) : (updGrid s k f).loftPoison = s.loftPoison := rfl
@[simp] theorem updGrid_windows (s : State) (k : Nat) (f : Grid → Grid) : (updGrid s k f).windows = s.windows := rfl
@[simp] theorem updGrid_ownPkg (s : State) (k : Nat) (f : Grid → Grid) : (updGrid s k f).ownPkg = s.ownPkg := rfl
@[simp] theorem updGrid_programs (s : State) (k : Nat) (f : Grid → Grid) : (updGrid s k f).programs = s.programs := rfl
@[simp] theorem updGrid_bindings (s : State) (k : Nat) (f : Grid → Grid) : (updGrid s k f).bindings = s.bindings := rfl
@[simp] theorem updGrid_slots (s : State) (k : Nat) (f : Grid → Grid) : (updGrid s k f).slots = s.slots := rfl
@[simp] theorem updGrid_instances (s : State) (k : Nat) (f : Grid → Grid) : (updGrid s k f).instances = s.instances := rfl
@[simp] theorem updGrid_keys (s : State) (k : Nat) (f : Grid → Grid) : (updGrid s k f).keys = s.keys := rfl
@[simp] theorem updGrid_flights (s : State) (k : Nat) (f : Grid → Grid) : (updGrid s k f).flights = s.flights := rfl
@[simp] theorem updGrid_wire (s : State) (k : Nat) (f : Grid → Grid) : (updGrid s k f).wire = s.wire := rfl
@[simp] theorem updGrid_answered (s : State) (k : Nat) (f : Grid → Grid) : (updGrid s k f).answered = s.answered := rfl
@[simp] theorem updGrid_routes (s : State) (k : Nat) (f : Grid → Grid) : (updGrid s k f).routes = s.routes := rfl
@[simp] theorem updGrid_breakout (s : State) (k : Nat) (f : Grid → Grid) : (updGrid s k f).breakout = s.breakout := rfl
@[simp] theorem updGrid_transit (s : State) (k : Nat) (f : Grid → Grid) : (updGrid s k f).transit = s.transit := rfl
@[simp] theorem updGrid_missing (s : State) (k : Nat) (f : Grid → Grid) : (updGrid s k f).missing = s.missing := rfl
@[simp] theorem updGrid_ios (s : State) (k : Nat) (f : Grid → Grid) : (updGrid s k f).ios = s.ios := rfl
@[simp] theorem updGrid_requests (s : State) (k : Nat) (f : Grid → Grid) : (updGrid s k f).requests = s.requests := rfl
@[simp] theorem updGrid_opReads (s : State) (k : Nat) (f : Grid → Grid) : (updGrid s k f).opReads = s.opReads := rfl
@[simp] theorem updGrid_remoteAtoms (s : State) (k : Nat) (f : Grid → Grid) : (updGrid s k f).remoteAtoms = s.remoteAtoms := rfl
@[simp] theorem updGrid_arrived (s : State) (k : Nat) (f : Grid → Grid) : (updGrid s k f).arrived = s.arrived := rfl
@[simp] theorem updGrid_bus (s : State) (k : Nat) (f : Grid → Grid) : (updGrid s k f).bus = s.bus := rfl
@[simp] theorem updGrid_heldAccess (s : State) (k : Nat) (f : Grid → Grid) : (updGrid s k f).heldAccess = s.heldAccess := rfl
@[simp] theorem updGrid_stage (s : State) (k : Nat) (f : Grid → Grid) : (updGrid s k f).stage = s.stage := rfl
@[simp] theorem updGrid_firmware (s : State) (k : Nat) (f : Grid → Grid) : (updGrid s k f).firmware = s.firmware := rfl
@[simp] theorem updGrid_reply (s : State) (k : Nat) (f : Grid → Grid) : (updGrid s k f).reply = s.reply := rfl
@[simp] theorem updGrid_numVfs (s : State) (k : Nat) (f : Grid → Grid) : (updGrid s k f).numVfs = s.numVfs := rfl
@[simp] theorem updGrid_vfs (s : State) (k : Nat) (f : Grid → Grid) : (updGrid s k f).vfs = s.vfs := rfl
@[simp] theorem updGrid_peerWin (s : State) (k : Nat) (f : Grid → Grid) : (updGrid s k f).peerWin = s.peerWin := rfl
@[simp] theorem updGrid_laneGroups (s : State) (k : Nat) (f : Grid → Grid) : (updGrid s k f).laneGroups = s.laneGroups := rfl
@[simp] theorem updGrid_linkDown (s : State) (k : Nat) (f : Grid → Grid) : (updGrid s k f).linkDown = s.linkDown := rfl
@[simp] theorem updGrid_newMode (s : State) (k : Nat) (f : Grid → Grid) : (updGrid s k f).newMode = s.newMode := rfl

/-! ### updInstance -/

@[simp] theorem updInstance_gid (s : State) (k : Nat) (f : Instance → Instance) : (updInstance s k f).gid = s.gid := rfl
@[simp] theorem updInstance_sp (s : State) (k : Nat) (f : Instance → Instance) : (updInstance s k f).sp = s.sp := rfl
@[simp] theorem updInstance_inst (s : State) (k : Nat) (f : Instance → Instance) : (updInstance s k f).inst = s.inst := rfl
@[simp] theorem updInstance_input (s : State) (k : Nat) (f : Instance → Instance) : (updInstance s k f).input = s.input := rfl
@[simp] theorem updInstance_agenda (s : State) (k : Nat) (f : Instance → Instance) : (updInstance s k f).agenda = s.agenda := rfl
@[simp] theorem updInstance_stalled (s : State) (k : Nat) (f : Instance → Instance) : (updInstance s k f).stalled = s.stalled := rfl
@[simp] theorem updInstance_fresh (s : State) (k : Nat) (f : Instance → Instance) : (updInstance s k f).fresh = s.fresh := rfl
@[simp] theorem updInstance_free (s : State) (k : Nat) (f : Instance → Instance) : (updInstance s k f).free = s.free := rfl
@[simp] theorem updInstance_clock (s : State) (k : Nat) (f : Instance → Instance) : (updInstance s k f).clock = s.clock := rfl
@[simp] theorem updInstance_mode (s : State) (k : Nat) (f : Instance → Instance) : (updInstance s k f).mode = s.mode := rfl
@[simp] theorem updInstance_gen (s : State) (k : Nat) (f : Instance → Instance) : (updInstance s k f).gen = s.gen := rfl
@[simp] theorem updInstance_busy (s : State) (k : Nat) (f : Instance → Instance) : (updInstance s k f).busy = s.busy := rfl
@[simp] theorem updInstance_secondTier (s : State) (k : Nat) (f : Instance → Instance) : (updInstance s k f).secondTier = s.secondTier := rfl
@[simp] theorem updInstance_mem (s : State) (k : Nat) (f : Instance → Instance) : (updInstance s k f).mem = s.mem := rfl
@[simp] theorem updInstance_poison (s : State) (k : Nat) (f : Instance → Instance) : (updInstance s k f).poison = s.poison := rfl
@[simp] theorem updInstance_rewritten (s : State) (k : Nat) (f : Instance → Instance) : (updInstance s k f).rewritten = s.rewritten := rfl
@[simp] theorem updInstance_owners (s : State) (k : Nat) (f : Instance → Instance) : (updInstance s k f).owners = s.owners := rfl
@[simp] theorem updInstance_gtroot (s : State) (k : Nat) (f : Instance → Instance) : (updInstance s k f).gtroot = s.gtroot := rfl
@[simp] theorem updInstance_tlb (s : State) (k : Nat) (f : Instance → Instance) : (updInstance s k f).tlb = s.tlb := rfl
@[simp] theorem updInstance_tables (s : State) (k : Nat) (f : Instance → Instance) : (updInstance s k f).tables = s.tables := rfl
@[simp] theorem updInstance_frames (s : State) (k : Nat) (f : Instance → Instance) : (updInstance s k f).frames = s.frames := rfl
@[simp] theorem updInstance_l1 (s : State) (k : Nat) (f : Instance → Instance) : (updInstance s k f).l1 = s.l1 := rfl
@[simp] theorem updInstance_parts (s : State) (k : Nat) (f : Instance → Instance) : (updInstance s k f).parts = s.parts := rfl
@[simp] theorem updInstance_sq (s : State) (k : Nat) (f : Instance → Instance) : (updInstance s k f).sq = s.sq := rfl
@[simp] theorem updInstance_late (s : State) (k : Nat) (f : Instance → Instance) : (updInstance s k f).late = s.late := rfl
@[simp] theorem updInstance_orphaned (s : State) (k : Nat) (f : Instance → Instance) : (updInstance s k f).orphaned = s.orphaned := rfl
@[simp] theorem updInstance_l2 (s : State) (k : Nat) (f : Instance → Instance) : (updInstance s k f).l2 = s.l2 := rfl
@[simp] theorem updInstance_sliceMts (s : State) (k : Nat) (f : Instance → Instance) : (updInstance s k f).sliceMts = s.sliceMts := rfl
@[simp] theorem updInstance_wb (s : State) (k : Nat) (f : Instance → Instance) : (updInstance s k f).wb = s.wb := rfl
@[simp] theorem updInstance_dir (s : State) (k : Nat) (f : Instance → Instance) : (updInstance s k f).dir = s.dir := rfl
@[simp] theorem updInstance_dirStatus (s : State) (k : Nat) (f : Instance → Instance) : (updInstance s k f).dirStatus = s.dirStatus := rfl
@[simp] theorem updInstance_rels (s : State) (k : Nat) (f : Instance → Instance) : (updInstance s k f).rels = s.rels := rfl
@[simp] theorem updInstance_written (s : State) (k : Nat) (f : Instance → Instance) : (updInstance s k f).written = s.written := rfl
@[simp] theorem updInstance_fetched (s : State) (k : Nat) (f : Instance → Instance) : (updInstance s k f).fetched = s.fetched := rfl
@[simp] theorem updInstance_ctxs (s : State) (k : Nat) (f : Instance → Instance) : (updInstance s k f).ctxs = s.ctxs := rfl
@[simp] theorem updInstance_quadHolder (s : State) (k : Nat) (f : Instance → Instance) : (updInstance s k f).quadHolder = s.quadHolder := rfl
@[simp] theorem updInstance_queueHolder (s : State) (k : Nat) (f : Instance → Instance) : (updInstance s k f).queueHolder = s.queueHolder := rfl
@[simp] theorem updInstance_portHolder (s : State) (k : Nat) (f : Instance → Instance) : (updInstance s k f).portHolder = s.portHolder := rfl
@[simp] theorem updInstance_queues (s : State) (k : Nat) (f : Instance → Instance) : (updInstance s k f).queues = s.queues := rfl
@[simp] theorem updInstance_grids (s : State) (k : Nat) (f : Instance → Instance) : (updInstance s k f).grids = s.grids := rfl
@[simp] theorem updInstance_slices (s : State) (k : Nat) (f : Instance → Instance) : (updInstance s k f).slices = s.slices := rfl
@[simp] theorem updInstance_blocks (s : State) (k : Nat) (f : Instance → Instance) : (updInstance s k f).blocks = s.blocks := rfl
@[simp] theorem updInstance_groups (s : State) (k : Nat) (f : Instance → Instance) : (updInstance s k f).groups = s.groups := rfl
@[simp] theorem updInstance_answers (s : State) (k : Nat) (f : Instance → Instance) : (updInstance s k f).answers = s.answers := rfl
@[simp] theorem updInstance_inns (s : State) (k : Nat) (f : Instance → Instance) : (updInstance s k f).inns = s.inns := rfl
@[simp] theorem updInstance_chunkQ (s : State) (k : Nat) (f : Instance → Instance) : (updInstance s k f).chunkQ = s.chunkQ := rfl
@[simp] theorem updInstance_boostTurn (s : State) (k : Nat) (f : Instance → Instance) : (updInstance s k f).boostTurn = s.boostTurn := rfl
@[simp] theorem updInstance_producers (s : State) (k : Nat) (f : Instance → Instance) : (updInstance s k f).producers = s.producers := rfl
@[simp] theorem updInstance_counters (s : State) (k : Nat) (f : Instance → Instance) : (updInstance s k f).counters = s.counters := rfl
@[simp] theorem updInstance_porterOps (s : State) (k : Nat) (f : Instance → Instance) : (updInstance s k f).porterOps = s.porterOps := rfl
@[simp] theorem updInstance_porters (s : State) (k : Nat) (f : Instance → Instance) : (updInstance s k f).porters = s.porters := rfl
@[simp] theorem updInstance_porterCtx (s : State) (k : Nat) (f : Instance → Instance) : (updInstance s k f).porterCtx = s.porterCtx := rfl
@[simp] theorem updInstance_heldRecs (s : State) (k : Nat) (f : Instance → Instance) : (updInstance s k f).heldRecs = s.heldRecs := rfl
@[simp] theorem updInstance_quads (s : State) (k : Nat) (f : Instance → Instance) : (updInstance s k f).quads = s.quads := rfl
@[simp] theorem updInstance_loft (s : State) (k : Nat) (f : Instance → Instance) : (updInstance s k f).loft = s.loft := rfl
@[simp] theorem updInstance_loftPoison (s : State) (k : Nat) (f : Instance → Instance) : (updInstance s k f).loftPoison = s.loftPoison := rfl
@[simp] theorem updInstance_windows (s : State) (k : Nat) (f : Instance → Instance) : (updInstance s k f).windows = s.windows := rfl
@[simp] theorem updInstance_ownPkg (s : State) (k : Nat) (f : Instance → Instance) : (updInstance s k f).ownPkg = s.ownPkg := rfl
@[simp] theorem updInstance_programs (s : State) (k : Nat) (f : Instance → Instance) : (updInstance s k f).programs = s.programs := rfl
@[simp] theorem updInstance_bindings (s : State) (k : Nat) (f : Instance → Instance) : (updInstance s k f).bindings = s.bindings := rfl
@[simp] theorem updInstance_slots (s : State) (k : Nat) (f : Instance → Instance) : (updInstance s k f).slots = s.slots := rfl
@[simp] theorem updInstance_keys (s : State) (k : Nat) (f : Instance → Instance) : (updInstance s k f).keys = s.keys := rfl
@[simp] theorem updInstance_flights (s : State) (k : Nat) (f : Instance → Instance) : (updInstance s k f).flights = s.flights := rfl
@[simp] theorem updInstance_wire (s : State) (k : Nat) (f : Instance → Instance) : (updInstance s k f).wire = s.wire := rfl
@[simp] theorem updInstance_answered (s : State) (k : Nat) (f : Instance → Instance) : (updInstance s k f).answered = s.answered := rfl
@[simp] theorem updInstance_routes (s : State) (k : Nat) (f : Instance → Instance) : (updInstance s k f).routes = s.routes := rfl
@[simp] theorem updInstance_breakout (s : State) (k : Nat) (f : Instance → Instance) : (updInstance s k f).breakout = s.breakout := rfl
@[simp] theorem updInstance_transit (s : State) (k : Nat) (f : Instance → Instance) : (updInstance s k f).transit = s.transit := rfl
@[simp] theorem updInstance_missing (s : State) (k : Nat) (f : Instance → Instance) : (updInstance s k f).missing = s.missing := rfl
@[simp] theorem updInstance_ios (s : State) (k : Nat) (f : Instance → Instance) : (updInstance s k f).ios = s.ios := rfl
@[simp] theorem updInstance_requests (s : State) (k : Nat) (f : Instance → Instance) : (updInstance s k f).requests = s.requests := rfl
@[simp] theorem updInstance_opReads (s : State) (k : Nat) (f : Instance → Instance) : (updInstance s k f).opReads = s.opReads := rfl
@[simp] theorem updInstance_remoteAtoms (s : State) (k : Nat) (f : Instance → Instance) : (updInstance s k f).remoteAtoms = s.remoteAtoms := rfl
@[simp] theorem updInstance_arrived (s : State) (k : Nat) (f : Instance → Instance) : (updInstance s k f).arrived = s.arrived := rfl
@[simp] theorem updInstance_bus (s : State) (k : Nat) (f : Instance → Instance) : (updInstance s k f).bus = s.bus := rfl
@[simp] theorem updInstance_heldAccess (s : State) (k : Nat) (f : Instance → Instance) : (updInstance s k f).heldAccess = s.heldAccess := rfl
@[simp] theorem updInstance_stage (s : State) (k : Nat) (f : Instance → Instance) : (updInstance s k f).stage = s.stage := rfl
@[simp] theorem updInstance_firmware (s : State) (k : Nat) (f : Instance → Instance) : (updInstance s k f).firmware = s.firmware := rfl
@[simp] theorem updInstance_reply (s : State) (k : Nat) (f : Instance → Instance) : (updInstance s k f).reply = s.reply := rfl
@[simp] theorem updInstance_numVfs (s : State) (k : Nat) (f : Instance → Instance) : (updInstance s k f).numVfs = s.numVfs := rfl
@[simp] theorem updInstance_vfs (s : State) (k : Nat) (f : Instance → Instance) : (updInstance s k f).vfs = s.vfs := rfl
@[simp] theorem updInstance_peerWin (s : State) (k : Nat) (f : Instance → Instance) : (updInstance s k f).peerWin = s.peerWin := rfl
@[simp] theorem updInstance_laneGroups (s : State) (k : Nat) (f : Instance → Instance) : (updInstance s k f).laneGroups = s.laneGroups := rfl
@[simp] theorem updInstance_linkDown (s : State) (k : Nat) (f : Instance → Instance) : (updInstance s k f).linkDown = s.linkDown := rfl
@[simp] theorem updInstance_newMode (s : State) (k : Nat) (f : Instance → Instance) : (updInstance s k f).newMode = s.newMode := rfl

/-! ### updBinding -/

@[simp] theorem updBinding_gid (s : State) (k : Nat) (f : Binding → Binding) : (updBinding s k f).gid = s.gid := rfl
@[simp] theorem updBinding_sp (s : State) (k : Nat) (f : Binding → Binding) : (updBinding s k f).sp = s.sp := rfl
@[simp] theorem updBinding_inst (s : State) (k : Nat) (f : Binding → Binding) : (updBinding s k f).inst = s.inst := rfl
@[simp] theorem updBinding_input (s : State) (k : Nat) (f : Binding → Binding) : (updBinding s k f).input = s.input := rfl
@[simp] theorem updBinding_agenda (s : State) (k : Nat) (f : Binding → Binding) : (updBinding s k f).agenda = s.agenda := rfl
@[simp] theorem updBinding_stalled (s : State) (k : Nat) (f : Binding → Binding) : (updBinding s k f).stalled = s.stalled := rfl
@[simp] theorem updBinding_fresh (s : State) (k : Nat) (f : Binding → Binding) : (updBinding s k f).fresh = s.fresh := rfl
@[simp] theorem updBinding_free (s : State) (k : Nat) (f : Binding → Binding) : (updBinding s k f).free = s.free := rfl
@[simp] theorem updBinding_clock (s : State) (k : Nat) (f : Binding → Binding) : (updBinding s k f).clock = s.clock := rfl
@[simp] theorem updBinding_mode (s : State) (k : Nat) (f : Binding → Binding) : (updBinding s k f).mode = s.mode := rfl
@[simp] theorem updBinding_gen (s : State) (k : Nat) (f : Binding → Binding) : (updBinding s k f).gen = s.gen := rfl
@[simp] theorem updBinding_busy (s : State) (k : Nat) (f : Binding → Binding) : (updBinding s k f).busy = s.busy := rfl
@[simp] theorem updBinding_secondTier (s : State) (k : Nat) (f : Binding → Binding) : (updBinding s k f).secondTier = s.secondTier := rfl
@[simp] theorem updBinding_mem (s : State) (k : Nat) (f : Binding → Binding) : (updBinding s k f).mem = s.mem := rfl
@[simp] theorem updBinding_poison (s : State) (k : Nat) (f : Binding → Binding) : (updBinding s k f).poison = s.poison := rfl
@[simp] theorem updBinding_rewritten (s : State) (k : Nat) (f : Binding → Binding) : (updBinding s k f).rewritten = s.rewritten := rfl
@[simp] theorem updBinding_owners (s : State) (k : Nat) (f : Binding → Binding) : (updBinding s k f).owners = s.owners := rfl
@[simp] theorem updBinding_gtroot (s : State) (k : Nat) (f : Binding → Binding) : (updBinding s k f).gtroot = s.gtroot := rfl
@[simp] theorem updBinding_tlb (s : State) (k : Nat) (f : Binding → Binding) : (updBinding s k f).tlb = s.tlb := rfl
@[simp] theorem updBinding_tables (s : State) (k : Nat) (f : Binding → Binding) : (updBinding s k f).tables = s.tables := rfl
@[simp] theorem updBinding_frames (s : State) (k : Nat) (f : Binding → Binding) : (updBinding s k f).frames = s.frames := rfl
@[simp] theorem updBinding_l1 (s : State) (k : Nat) (f : Binding → Binding) : (updBinding s k f).l1 = s.l1 := rfl
@[simp] theorem updBinding_parts (s : State) (k : Nat) (f : Binding → Binding) : (updBinding s k f).parts = s.parts := rfl
@[simp] theorem updBinding_sq (s : State) (k : Nat) (f : Binding → Binding) : (updBinding s k f).sq = s.sq := rfl
@[simp] theorem updBinding_late (s : State) (k : Nat) (f : Binding → Binding) : (updBinding s k f).late = s.late := rfl
@[simp] theorem updBinding_orphaned (s : State) (k : Nat) (f : Binding → Binding) : (updBinding s k f).orphaned = s.orphaned := rfl
@[simp] theorem updBinding_l2 (s : State) (k : Nat) (f : Binding → Binding) : (updBinding s k f).l2 = s.l2 := rfl
@[simp] theorem updBinding_sliceMts (s : State) (k : Nat) (f : Binding → Binding) : (updBinding s k f).sliceMts = s.sliceMts := rfl
@[simp] theorem updBinding_wb (s : State) (k : Nat) (f : Binding → Binding) : (updBinding s k f).wb = s.wb := rfl
@[simp] theorem updBinding_dir (s : State) (k : Nat) (f : Binding → Binding) : (updBinding s k f).dir = s.dir := rfl
@[simp] theorem updBinding_dirStatus (s : State) (k : Nat) (f : Binding → Binding) : (updBinding s k f).dirStatus = s.dirStatus := rfl
@[simp] theorem updBinding_rels (s : State) (k : Nat) (f : Binding → Binding) : (updBinding s k f).rels = s.rels := rfl
@[simp] theorem updBinding_written (s : State) (k : Nat) (f : Binding → Binding) : (updBinding s k f).written = s.written := rfl
@[simp] theorem updBinding_fetched (s : State) (k : Nat) (f : Binding → Binding) : (updBinding s k f).fetched = s.fetched := rfl
@[simp] theorem updBinding_ctxs (s : State) (k : Nat) (f : Binding → Binding) : (updBinding s k f).ctxs = s.ctxs := rfl
@[simp] theorem updBinding_quadHolder (s : State) (k : Nat) (f : Binding → Binding) : (updBinding s k f).quadHolder = s.quadHolder := rfl
@[simp] theorem updBinding_queueHolder (s : State) (k : Nat) (f : Binding → Binding) : (updBinding s k f).queueHolder = s.queueHolder := rfl
@[simp] theorem updBinding_portHolder (s : State) (k : Nat) (f : Binding → Binding) : (updBinding s k f).portHolder = s.portHolder := rfl
@[simp] theorem updBinding_queues (s : State) (k : Nat) (f : Binding → Binding) : (updBinding s k f).queues = s.queues := rfl
@[simp] theorem updBinding_grids (s : State) (k : Nat) (f : Binding → Binding) : (updBinding s k f).grids = s.grids := rfl
@[simp] theorem updBinding_slices (s : State) (k : Nat) (f : Binding → Binding) : (updBinding s k f).slices = s.slices := rfl
@[simp] theorem updBinding_blocks (s : State) (k : Nat) (f : Binding → Binding) : (updBinding s k f).blocks = s.blocks := rfl
@[simp] theorem updBinding_groups (s : State) (k : Nat) (f : Binding → Binding) : (updBinding s k f).groups = s.groups := rfl
@[simp] theorem updBinding_answers (s : State) (k : Nat) (f : Binding → Binding) : (updBinding s k f).answers = s.answers := rfl
@[simp] theorem updBinding_inns (s : State) (k : Nat) (f : Binding → Binding) : (updBinding s k f).inns = s.inns := rfl
@[simp] theorem updBinding_chunkQ (s : State) (k : Nat) (f : Binding → Binding) : (updBinding s k f).chunkQ = s.chunkQ := rfl
@[simp] theorem updBinding_boostTurn (s : State) (k : Nat) (f : Binding → Binding) : (updBinding s k f).boostTurn = s.boostTurn := rfl
@[simp] theorem updBinding_producers (s : State) (k : Nat) (f : Binding → Binding) : (updBinding s k f).producers = s.producers := rfl
@[simp] theorem updBinding_counters (s : State) (k : Nat) (f : Binding → Binding) : (updBinding s k f).counters = s.counters := rfl
@[simp] theorem updBinding_porterOps (s : State) (k : Nat) (f : Binding → Binding) : (updBinding s k f).porterOps = s.porterOps := rfl
@[simp] theorem updBinding_porters (s : State) (k : Nat) (f : Binding → Binding) : (updBinding s k f).porters = s.porters := rfl
@[simp] theorem updBinding_porterCtx (s : State) (k : Nat) (f : Binding → Binding) : (updBinding s k f).porterCtx = s.porterCtx := rfl
@[simp] theorem updBinding_heldRecs (s : State) (k : Nat) (f : Binding → Binding) : (updBinding s k f).heldRecs = s.heldRecs := rfl
@[simp] theorem updBinding_quads (s : State) (k : Nat) (f : Binding → Binding) : (updBinding s k f).quads = s.quads := rfl
@[simp] theorem updBinding_loft (s : State) (k : Nat) (f : Binding → Binding) : (updBinding s k f).loft = s.loft := rfl
@[simp] theorem updBinding_loftPoison (s : State) (k : Nat) (f : Binding → Binding) : (updBinding s k f).loftPoison = s.loftPoison := rfl
@[simp] theorem updBinding_windows (s : State) (k : Nat) (f : Binding → Binding) : (updBinding s k f).windows = s.windows := rfl
@[simp] theorem updBinding_ownPkg (s : State) (k : Nat) (f : Binding → Binding) : (updBinding s k f).ownPkg = s.ownPkg := rfl
@[simp] theorem updBinding_programs (s : State) (k : Nat) (f : Binding → Binding) : (updBinding s k f).programs = s.programs := rfl
@[simp] theorem updBinding_slots (s : State) (k : Nat) (f : Binding → Binding) : (updBinding s k f).slots = s.slots := rfl
@[simp] theorem updBinding_instances (s : State) (k : Nat) (f : Binding → Binding) : (updBinding s k f).instances = s.instances := rfl
@[simp] theorem updBinding_keys (s : State) (k : Nat) (f : Binding → Binding) : (updBinding s k f).keys = s.keys := rfl
@[simp] theorem updBinding_flights (s : State) (k : Nat) (f : Binding → Binding) : (updBinding s k f).flights = s.flights := rfl
@[simp] theorem updBinding_wire (s : State) (k : Nat) (f : Binding → Binding) : (updBinding s k f).wire = s.wire := rfl
@[simp] theorem updBinding_answered (s : State) (k : Nat) (f : Binding → Binding) : (updBinding s k f).answered = s.answered := rfl
@[simp] theorem updBinding_routes (s : State) (k : Nat) (f : Binding → Binding) : (updBinding s k f).routes = s.routes := rfl
@[simp] theorem updBinding_breakout (s : State) (k : Nat) (f : Binding → Binding) : (updBinding s k f).breakout = s.breakout := rfl
@[simp] theorem updBinding_transit (s : State) (k : Nat) (f : Binding → Binding) : (updBinding s k f).transit = s.transit := rfl
@[simp] theorem updBinding_missing (s : State) (k : Nat) (f : Binding → Binding) : (updBinding s k f).missing = s.missing := rfl
@[simp] theorem updBinding_ios (s : State) (k : Nat) (f : Binding → Binding) : (updBinding s k f).ios = s.ios := rfl
@[simp] theorem updBinding_requests (s : State) (k : Nat) (f : Binding → Binding) : (updBinding s k f).requests = s.requests := rfl
@[simp] theorem updBinding_opReads (s : State) (k : Nat) (f : Binding → Binding) : (updBinding s k f).opReads = s.opReads := rfl
@[simp] theorem updBinding_remoteAtoms (s : State) (k : Nat) (f : Binding → Binding) : (updBinding s k f).remoteAtoms = s.remoteAtoms := rfl
@[simp] theorem updBinding_arrived (s : State) (k : Nat) (f : Binding → Binding) : (updBinding s k f).arrived = s.arrived := rfl
@[simp] theorem updBinding_bus (s : State) (k : Nat) (f : Binding → Binding) : (updBinding s k f).bus = s.bus := rfl
@[simp] theorem updBinding_heldAccess (s : State) (k : Nat) (f : Binding → Binding) : (updBinding s k f).heldAccess = s.heldAccess := rfl
@[simp] theorem updBinding_stage (s : State) (k : Nat) (f : Binding → Binding) : (updBinding s k f).stage = s.stage := rfl
@[simp] theorem updBinding_firmware (s : State) (k : Nat) (f : Binding → Binding) : (updBinding s k f).firmware = s.firmware := rfl
@[simp] theorem updBinding_reply (s : State) (k : Nat) (f : Binding → Binding) : (updBinding s k f).reply = s.reply := rfl
@[simp] theorem updBinding_numVfs (s : State) (k : Nat) (f : Binding → Binding) : (updBinding s k f).numVfs = s.numVfs := rfl
@[simp] theorem updBinding_vfs (s : State) (k : Nat) (f : Binding → Binding) : (updBinding s k f).vfs = s.vfs := rfl
@[simp] theorem updBinding_peerWin (s : State) (k : Nat) (f : Binding → Binding) : (updBinding s k f).peerWin = s.peerWin := rfl
@[simp] theorem updBinding_laneGroups (s : State) (k : Nat) (f : Binding → Binding) : (updBinding s k f).laneGroups = s.laneGroups := rfl
@[simp] theorem updBinding_linkDown (s : State) (k : Nat) (f : Binding → Binding) : (updBinding s k f).linkDown = s.linkDown := rfl
@[simp] theorem updBinding_newMode (s : State) (k : Nat) (f : Binding → Binding) : (updBinding s k f).newMode = s.newMode := rfl

/-! ### updQueue -/

@[simp] theorem updQueue_gid (s : State) (k : Nat) (f : Queue → Queue) : (updQueue s k f).gid = s.gid := rfl
@[simp] theorem updQueue_sp (s : State) (k : Nat) (f : Queue → Queue) : (updQueue s k f).sp = s.sp := rfl
@[simp] theorem updQueue_inst (s : State) (k : Nat) (f : Queue → Queue) : (updQueue s k f).inst = s.inst := rfl
@[simp] theorem updQueue_input (s : State) (k : Nat) (f : Queue → Queue) : (updQueue s k f).input = s.input := rfl
@[simp] theorem updQueue_agenda (s : State) (k : Nat) (f : Queue → Queue) : (updQueue s k f).agenda = s.agenda := rfl
@[simp] theorem updQueue_stalled (s : State) (k : Nat) (f : Queue → Queue) : (updQueue s k f).stalled = s.stalled := rfl
@[simp] theorem updQueue_fresh (s : State) (k : Nat) (f : Queue → Queue) : (updQueue s k f).fresh = s.fresh := rfl
@[simp] theorem updQueue_free (s : State) (k : Nat) (f : Queue → Queue) : (updQueue s k f).free = s.free := rfl
@[simp] theorem updQueue_clock (s : State) (k : Nat) (f : Queue → Queue) : (updQueue s k f).clock = s.clock := rfl
@[simp] theorem updQueue_mode (s : State) (k : Nat) (f : Queue → Queue) : (updQueue s k f).mode = s.mode := rfl
@[simp] theorem updQueue_gen (s : State) (k : Nat) (f : Queue → Queue) : (updQueue s k f).gen = s.gen := rfl
@[simp] theorem updQueue_busy (s : State) (k : Nat) (f : Queue → Queue) : (updQueue s k f).busy = s.busy := rfl
@[simp] theorem updQueue_secondTier (s : State) (k : Nat) (f : Queue → Queue) : (updQueue s k f).secondTier = s.secondTier := rfl
@[simp] theorem updQueue_mem (s : State) (k : Nat) (f : Queue → Queue) : (updQueue s k f).mem = s.mem := rfl
@[simp] theorem updQueue_poison (s : State) (k : Nat) (f : Queue → Queue) : (updQueue s k f).poison = s.poison := rfl
@[simp] theorem updQueue_rewritten (s : State) (k : Nat) (f : Queue → Queue) : (updQueue s k f).rewritten = s.rewritten := rfl
@[simp] theorem updQueue_owners (s : State) (k : Nat) (f : Queue → Queue) : (updQueue s k f).owners = s.owners := rfl
@[simp] theorem updQueue_gtroot (s : State) (k : Nat) (f : Queue → Queue) : (updQueue s k f).gtroot = s.gtroot := rfl
@[simp] theorem updQueue_tlb (s : State) (k : Nat) (f : Queue → Queue) : (updQueue s k f).tlb = s.tlb := rfl
@[simp] theorem updQueue_tables (s : State) (k : Nat) (f : Queue → Queue) : (updQueue s k f).tables = s.tables := rfl
@[simp] theorem updQueue_frames (s : State) (k : Nat) (f : Queue → Queue) : (updQueue s k f).frames = s.frames := rfl
@[simp] theorem updQueue_l1 (s : State) (k : Nat) (f : Queue → Queue) : (updQueue s k f).l1 = s.l1 := rfl
@[simp] theorem updQueue_parts (s : State) (k : Nat) (f : Queue → Queue) : (updQueue s k f).parts = s.parts := rfl
@[simp] theorem updQueue_sq (s : State) (k : Nat) (f : Queue → Queue) : (updQueue s k f).sq = s.sq := rfl
@[simp] theorem updQueue_late (s : State) (k : Nat) (f : Queue → Queue) : (updQueue s k f).late = s.late := rfl
@[simp] theorem updQueue_orphaned (s : State) (k : Nat) (f : Queue → Queue) : (updQueue s k f).orphaned = s.orphaned := rfl
@[simp] theorem updQueue_l2 (s : State) (k : Nat) (f : Queue → Queue) : (updQueue s k f).l2 = s.l2 := rfl
@[simp] theorem updQueue_sliceMts (s : State) (k : Nat) (f : Queue → Queue) : (updQueue s k f).sliceMts = s.sliceMts := rfl
@[simp] theorem updQueue_wb (s : State) (k : Nat) (f : Queue → Queue) : (updQueue s k f).wb = s.wb := rfl
@[simp] theorem updQueue_dir (s : State) (k : Nat) (f : Queue → Queue) : (updQueue s k f).dir = s.dir := rfl
@[simp] theorem updQueue_dirStatus (s : State) (k : Nat) (f : Queue → Queue) : (updQueue s k f).dirStatus = s.dirStatus := rfl
@[simp] theorem updQueue_rels (s : State) (k : Nat) (f : Queue → Queue) : (updQueue s k f).rels = s.rels := rfl
@[simp] theorem updQueue_written (s : State) (k : Nat) (f : Queue → Queue) : (updQueue s k f).written = s.written := rfl
@[simp] theorem updQueue_fetched (s : State) (k : Nat) (f : Queue → Queue) : (updQueue s k f).fetched = s.fetched := rfl
@[simp] theorem updQueue_ctxs (s : State) (k : Nat) (f : Queue → Queue) : (updQueue s k f).ctxs = s.ctxs := rfl
@[simp] theorem updQueue_quadHolder (s : State) (k : Nat) (f : Queue → Queue) : (updQueue s k f).quadHolder = s.quadHolder := rfl
@[simp] theorem updQueue_queueHolder (s : State) (k : Nat) (f : Queue → Queue) : (updQueue s k f).queueHolder = s.queueHolder := rfl
@[simp] theorem updQueue_portHolder (s : State) (k : Nat) (f : Queue → Queue) : (updQueue s k f).portHolder = s.portHolder := rfl
@[simp] theorem updQueue_grids (s : State) (k : Nat) (f : Queue → Queue) : (updQueue s k f).grids = s.grids := rfl
@[simp] theorem updQueue_slices (s : State) (k : Nat) (f : Queue → Queue) : (updQueue s k f).slices = s.slices := rfl
@[simp] theorem updQueue_blocks (s : State) (k : Nat) (f : Queue → Queue) : (updQueue s k f).blocks = s.blocks := rfl
@[simp] theorem updQueue_groups (s : State) (k : Nat) (f : Queue → Queue) : (updQueue s k f).groups = s.groups := rfl
@[simp] theorem updQueue_answers (s : State) (k : Nat) (f : Queue → Queue) : (updQueue s k f).answers = s.answers := rfl
@[simp] theorem updQueue_inns (s : State) (k : Nat) (f : Queue → Queue) : (updQueue s k f).inns = s.inns := rfl
@[simp] theorem updQueue_chunkQ (s : State) (k : Nat) (f : Queue → Queue) : (updQueue s k f).chunkQ = s.chunkQ := rfl
@[simp] theorem updQueue_boostTurn (s : State) (k : Nat) (f : Queue → Queue) : (updQueue s k f).boostTurn = s.boostTurn := rfl
@[simp] theorem updQueue_producers (s : State) (k : Nat) (f : Queue → Queue) : (updQueue s k f).producers = s.producers := rfl
@[simp] theorem updQueue_counters (s : State) (k : Nat) (f : Queue → Queue) : (updQueue s k f).counters = s.counters := rfl
@[simp] theorem updQueue_porterOps (s : State) (k : Nat) (f : Queue → Queue) : (updQueue s k f).porterOps = s.porterOps := rfl
@[simp] theorem updQueue_porters (s : State) (k : Nat) (f : Queue → Queue) : (updQueue s k f).porters = s.porters := rfl
@[simp] theorem updQueue_porterCtx (s : State) (k : Nat) (f : Queue → Queue) : (updQueue s k f).porterCtx = s.porterCtx := rfl
@[simp] theorem updQueue_heldRecs (s : State) (k : Nat) (f : Queue → Queue) : (updQueue s k f).heldRecs = s.heldRecs := rfl
@[simp] theorem updQueue_quads (s : State) (k : Nat) (f : Queue → Queue) : (updQueue s k f).quads = s.quads := rfl
@[simp] theorem updQueue_loft (s : State) (k : Nat) (f : Queue → Queue) : (updQueue s k f).loft = s.loft := rfl
@[simp] theorem updQueue_loftPoison (s : State) (k : Nat) (f : Queue → Queue) : (updQueue s k f).loftPoison = s.loftPoison := rfl
@[simp] theorem updQueue_windows (s : State) (k : Nat) (f : Queue → Queue) : (updQueue s k f).windows = s.windows := rfl
@[simp] theorem updQueue_ownPkg (s : State) (k : Nat) (f : Queue → Queue) : (updQueue s k f).ownPkg = s.ownPkg := rfl
@[simp] theorem updQueue_programs (s : State) (k : Nat) (f : Queue → Queue) : (updQueue s k f).programs = s.programs := rfl
@[simp] theorem updQueue_bindings (s : State) (k : Nat) (f : Queue → Queue) : (updQueue s k f).bindings = s.bindings := rfl
@[simp] theorem updQueue_slots (s : State) (k : Nat) (f : Queue → Queue) : (updQueue s k f).slots = s.slots := rfl
@[simp] theorem updQueue_instances (s : State) (k : Nat) (f : Queue → Queue) : (updQueue s k f).instances = s.instances := rfl
@[simp] theorem updQueue_keys (s : State) (k : Nat) (f : Queue → Queue) : (updQueue s k f).keys = s.keys := rfl
@[simp] theorem updQueue_flights (s : State) (k : Nat) (f : Queue → Queue) : (updQueue s k f).flights = s.flights := rfl
@[simp] theorem updQueue_wire (s : State) (k : Nat) (f : Queue → Queue) : (updQueue s k f).wire = s.wire := rfl
@[simp] theorem updQueue_answered (s : State) (k : Nat) (f : Queue → Queue) : (updQueue s k f).answered = s.answered := rfl
@[simp] theorem updQueue_routes (s : State) (k : Nat) (f : Queue → Queue) : (updQueue s k f).routes = s.routes := rfl
@[simp] theorem updQueue_breakout (s : State) (k : Nat) (f : Queue → Queue) : (updQueue s k f).breakout = s.breakout := rfl
@[simp] theorem updQueue_transit (s : State) (k : Nat) (f : Queue → Queue) : (updQueue s k f).transit = s.transit := rfl
@[simp] theorem updQueue_missing (s : State) (k : Nat) (f : Queue → Queue) : (updQueue s k f).missing = s.missing := rfl
@[simp] theorem updQueue_ios (s : State) (k : Nat) (f : Queue → Queue) : (updQueue s k f).ios = s.ios := rfl
@[simp] theorem updQueue_requests (s : State) (k : Nat) (f : Queue → Queue) : (updQueue s k f).requests = s.requests := rfl
@[simp] theorem updQueue_opReads (s : State) (k : Nat) (f : Queue → Queue) : (updQueue s k f).opReads = s.opReads := rfl
@[simp] theorem updQueue_remoteAtoms (s : State) (k : Nat) (f : Queue → Queue) : (updQueue s k f).remoteAtoms = s.remoteAtoms := rfl
@[simp] theorem updQueue_arrived (s : State) (k : Nat) (f : Queue → Queue) : (updQueue s k f).arrived = s.arrived := rfl
@[simp] theorem updQueue_bus (s : State) (k : Nat) (f : Queue → Queue) : (updQueue s k f).bus = s.bus := rfl
@[simp] theorem updQueue_heldAccess (s : State) (k : Nat) (f : Queue → Queue) : (updQueue s k f).heldAccess = s.heldAccess := rfl
@[simp] theorem updQueue_stage (s : State) (k : Nat) (f : Queue → Queue) : (updQueue s k f).stage = s.stage := rfl
@[simp] theorem updQueue_firmware (s : State) (k : Nat) (f : Queue → Queue) : (updQueue s k f).firmware = s.firmware := rfl
@[simp] theorem updQueue_reply (s : State) (k : Nat) (f : Queue → Queue) : (updQueue s k f).reply = s.reply := rfl
@[simp] theorem updQueue_numVfs (s : State) (k : Nat) (f : Queue → Queue) : (updQueue s k f).numVfs = s.numVfs := rfl
@[simp] theorem updQueue_vfs (s : State) (k : Nat) (f : Queue → Queue) : (updQueue s k f).vfs = s.vfs := rfl
@[simp] theorem updQueue_peerWin (s : State) (k : Nat) (f : Queue → Queue) : (updQueue s k f).peerWin = s.peerWin := rfl
@[simp] theorem updQueue_laneGroups (s : State) (k : Nat) (f : Queue → Queue) : (updQueue s k f).laneGroups = s.laneGroups := rfl
@[simp] theorem updQueue_linkDown (s : State) (k : Nat) (f : Queue → Queue) : (updQueue s k f).linkDown = s.linkDown := rfl
@[simp] theorem updQueue_newMode (s : State) (k : Nat) (f : Queue → Queue) : (updQueue s k f).newMode = s.newMode := rfl

/-! ### count -/

@[simp] theorem count_gid (s : State) (k i n : Nat) : (count s k i n).gid = s.gid := rfl
@[simp] theorem count_sp (s : State) (k i n : Nat) : (count s k i n).sp = s.sp := rfl
@[simp] theorem count_inst (s : State) (k i n : Nat) : (count s k i n).inst = s.inst := rfl
@[simp] theorem count_input (s : State) (k i n : Nat) : (count s k i n).input = s.input := rfl
@[simp] theorem count_agenda (s : State) (k i n : Nat) : (count s k i n).agenda = s.agenda := rfl
@[simp] theorem count_stalled (s : State) (k i n : Nat) : (count s k i n).stalled = s.stalled := rfl
@[simp] theorem count_fresh (s : State) (k i n : Nat) : (count s k i n).fresh = s.fresh := rfl
@[simp] theorem count_free (s : State) (k i n : Nat) : (count s k i n).free = s.free := rfl
@[simp] theorem count_clock (s : State) (k i n : Nat) : (count s k i n).clock = s.clock := rfl
@[simp] theorem count_mode (s : State) (k i n : Nat) : (count s k i n).mode = s.mode := rfl
@[simp] theorem count_gen (s : State) (k i n : Nat) : (count s k i n).gen = s.gen := rfl
@[simp] theorem count_busy (s : State) (k i n : Nat) : (count s k i n).busy = s.busy := rfl
@[simp] theorem count_secondTier (s : State) (k i n : Nat) : (count s k i n).secondTier = s.secondTier := rfl
@[simp] theorem count_mem (s : State) (k i n : Nat) : (count s k i n).mem = s.mem := rfl
@[simp] theorem count_poison (s : State) (k i n : Nat) : (count s k i n).poison = s.poison := rfl
@[simp] theorem count_rewritten (s : State) (k i n : Nat) : (count s k i n).rewritten = s.rewritten := rfl
@[simp] theorem count_owners (s : State) (k i n : Nat) : (count s k i n).owners = s.owners := rfl
@[simp] theorem count_gtroot (s : State) (k i n : Nat) : (count s k i n).gtroot = s.gtroot := rfl
@[simp] theorem count_tlb (s : State) (k i n : Nat) : (count s k i n).tlb = s.tlb := rfl
@[simp] theorem count_tables (s : State) (k i n : Nat) : (count s k i n).tables = s.tables := rfl
@[simp] theorem count_frames (s : State) (k i n : Nat) : (count s k i n).frames = s.frames := rfl
@[simp] theorem count_l1 (s : State) (k i n : Nat) : (count s k i n).l1 = s.l1 := rfl
@[simp] theorem count_parts (s : State) (k i n : Nat) : (count s k i n).parts = s.parts := rfl
@[simp] theorem count_sq (s : State) (k i n : Nat) : (count s k i n).sq = s.sq := rfl
@[simp] theorem count_late (s : State) (k i n : Nat) : (count s k i n).late = s.late := rfl
@[simp] theorem count_orphaned (s : State) (k i n : Nat) : (count s k i n).orphaned = s.orphaned := rfl
@[simp] theorem count_l2 (s : State) (k i n : Nat) : (count s k i n).l2 = s.l2 := rfl
@[simp] theorem count_sliceMts (s : State) (k i n : Nat) : (count s k i n).sliceMts = s.sliceMts := rfl
@[simp] theorem count_wb (s : State) (k i n : Nat) : (count s k i n).wb = s.wb := rfl
@[simp] theorem count_dir (s : State) (k i n : Nat) : (count s k i n).dir = s.dir := rfl
@[simp] theorem count_dirStatus (s : State) (k i n : Nat) : (count s k i n).dirStatus = s.dirStatus := rfl
@[simp] theorem count_rels (s : State) (k i n : Nat) : (count s k i n).rels = s.rels := rfl
@[simp] theorem count_written (s : State) (k i n : Nat) : (count s k i n).written = s.written := rfl
@[simp] theorem count_fetched (s : State) (k i n : Nat) : (count s k i n).fetched = s.fetched := rfl
@[simp] theorem count_ctxs (s : State) (k i n : Nat) : (count s k i n).ctxs = s.ctxs := rfl
@[simp] theorem count_quadHolder (s : State) (k i n : Nat) : (count s k i n).quadHolder = s.quadHolder := rfl
@[simp] theorem count_queueHolder (s : State) (k i n : Nat) : (count s k i n).queueHolder = s.queueHolder := rfl
@[simp] theorem count_portHolder (s : State) (k i n : Nat) : (count s k i n).portHolder = s.portHolder := rfl
@[simp] theorem count_queues (s : State) (k i n : Nat) : (count s k i n).queues = s.queues := rfl
@[simp] theorem count_grids (s : State) (k i n : Nat) : (count s k i n).grids = s.grids := rfl
@[simp] theorem count_slices (s : State) (k i n : Nat) : (count s k i n).slices = s.slices := rfl
@[simp] theorem count_blocks (s : State) (k i n : Nat) : (count s k i n).blocks = s.blocks := rfl
@[simp] theorem count_groups (s : State) (k i n : Nat) : (count s k i n).groups = s.groups := rfl
@[simp] theorem count_answers (s : State) (k i n : Nat) : (count s k i n).answers = s.answers := rfl
@[simp] theorem count_inns (s : State) (k i n : Nat) : (count s k i n).inns = s.inns := rfl
@[simp] theorem count_chunkQ (s : State) (k i n : Nat) : (count s k i n).chunkQ = s.chunkQ := rfl
@[simp] theorem count_boostTurn (s : State) (k i n : Nat) : (count s k i n).boostTurn = s.boostTurn := rfl
@[simp] theorem count_producers (s : State) (k i n : Nat) : (count s k i n).producers = s.producers := rfl
@[simp] theorem count_porterOps (s : State) (k i n : Nat) : (count s k i n).porterOps = s.porterOps := rfl
@[simp] theorem count_porters (s : State) (k i n : Nat) : (count s k i n).porters = s.porters := rfl
@[simp] theorem count_porterCtx (s : State) (k i n : Nat) : (count s k i n).porterCtx = s.porterCtx := rfl
@[simp] theorem count_heldRecs (s : State) (k i n : Nat) : (count s k i n).heldRecs = s.heldRecs := rfl
@[simp] theorem count_quads (s : State) (k i n : Nat) : (count s k i n).quads = s.quads := rfl
@[simp] theorem count_loft (s : State) (k i n : Nat) : (count s k i n).loft = s.loft := rfl
@[simp] theorem count_loftPoison (s : State) (k i n : Nat) : (count s k i n).loftPoison = s.loftPoison := rfl
@[simp] theorem count_windows (s : State) (k i n : Nat) : (count s k i n).windows = s.windows := rfl
@[simp] theorem count_ownPkg (s : State) (k i n : Nat) : (count s k i n).ownPkg = s.ownPkg := rfl
@[simp] theorem count_programs (s : State) (k i n : Nat) : (count s k i n).programs = s.programs := rfl
@[simp] theorem count_bindings (s : State) (k i n : Nat) : (count s k i n).bindings = s.bindings := rfl
@[simp] theorem count_slots (s : State) (k i n : Nat) : (count s k i n).slots = s.slots := rfl
@[simp] theorem count_instances (s : State) (k i n : Nat) : (count s k i n).instances = s.instances := rfl
@[simp] theorem count_keys (s : State) (k i n : Nat) : (count s k i n).keys = s.keys := rfl
@[simp] theorem count_flights (s : State) (k i n : Nat) : (count s k i n).flights = s.flights := rfl
@[simp] theorem count_wire (s : State) (k i n : Nat) : (count s k i n).wire = s.wire := rfl
@[simp] theorem count_answered (s : State) (k i n : Nat) : (count s k i n).answered = s.answered := rfl
@[simp] theorem count_routes (s : State) (k i n : Nat) : (count s k i n).routes = s.routes := rfl
@[simp] theorem count_breakout (s : State) (k i n : Nat) : (count s k i n).breakout = s.breakout := rfl
@[simp] theorem count_transit (s : State) (k i n : Nat) : (count s k i n).transit = s.transit := rfl
@[simp] theorem count_missing (s : State) (k i n : Nat) : (count s k i n).missing = s.missing := rfl
@[simp] theorem count_ios (s : State) (k i n : Nat) : (count s k i n).ios = s.ios := rfl
@[simp] theorem count_requests (s : State) (k i n : Nat) : (count s k i n).requests = s.requests := rfl
@[simp] theorem count_opReads (s : State) (k i n : Nat) : (count s k i n).opReads = s.opReads := rfl
@[simp] theorem count_remoteAtoms (s : State) (k i n : Nat) : (count s k i n).remoteAtoms = s.remoteAtoms := rfl
@[simp] theorem count_arrived (s : State) (k i n : Nat) : (count s k i n).arrived = s.arrived := rfl
@[simp] theorem count_bus (s : State) (k i n : Nat) : (count s k i n).bus = s.bus := rfl
@[simp] theorem count_heldAccess (s : State) (k i n : Nat) : (count s k i n).heldAccess = s.heldAccess := rfl
@[simp] theorem count_stage (s : State) (k i n : Nat) : (count s k i n).stage = s.stage := rfl
@[simp] theorem count_firmware (s : State) (k i n : Nat) : (count s k i n).firmware = s.firmware := rfl
@[simp] theorem count_reply (s : State) (k i n : Nat) : (count s k i n).reply = s.reply := rfl
@[simp] theorem count_numVfs (s : State) (k i n : Nat) : (count s k i n).numVfs = s.numVfs := rfl
@[simp] theorem count_vfs (s : State) (k i n : Nat) : (count s k i n).vfs = s.vfs := rfl
@[simp] theorem count_peerWin (s : State) (k i n : Nat) : (count s k i n).peerWin = s.peerWin := rfl
@[simp] theorem count_laneGroups (s : State) (k i n : Nat) : (count s k i n).laneGroups = s.laneGroups := rfl
@[simp] theorem count_linkDown (s : State) (k i n : Nat) : (count s k i n).linkDown = s.linkDown := rfl
@[simp] theorem count_newMode (s : State) (k i n : Nat) : (count s k i n).newMode = s.newMode := rfl

/-! ### wake -/

@[simp] theorem wake_gid (s : State) : (wake s).gid = s.gid := rfl
@[simp] theorem wake_sp (s : State) : (wake s).sp = s.sp := rfl
@[simp] theorem wake_inst (s : State) : (wake s).inst = s.inst := rfl
@[simp] theorem wake_input (s : State) : (wake s).input = s.input := rfl
@[simp] theorem wake_agenda (s : State) : (wake s).agenda = s.agenda := rfl
@[simp] theorem wake_fresh (s : State) : (wake s).fresh = s.fresh := rfl
@[simp] theorem wake_free (s : State) : (wake s).free = s.free := rfl
@[simp] theorem wake_clock (s : State) : (wake s).clock = s.clock := rfl
@[simp] theorem wake_mode (s : State) : (wake s).mode = s.mode := rfl
@[simp] theorem wake_gen (s : State) : (wake s).gen = s.gen := rfl
@[simp] theorem wake_busy (s : State) : (wake s).busy = s.busy := rfl
@[simp] theorem wake_secondTier (s : State) : (wake s).secondTier = s.secondTier := rfl
@[simp] theorem wake_mem (s : State) : (wake s).mem = s.mem := rfl
@[simp] theorem wake_poison (s : State) : (wake s).poison = s.poison := rfl
@[simp] theorem wake_rewritten (s : State) : (wake s).rewritten = s.rewritten := rfl
@[simp] theorem wake_owners (s : State) : (wake s).owners = s.owners := rfl
@[simp] theorem wake_gtroot (s : State) : (wake s).gtroot = s.gtroot := rfl
@[simp] theorem wake_tlb (s : State) : (wake s).tlb = s.tlb := rfl
@[simp] theorem wake_tables (s : State) : (wake s).tables = s.tables := rfl
@[simp] theorem wake_frames (s : State) : (wake s).frames = s.frames := rfl
@[simp] theorem wake_l1 (s : State) : (wake s).l1 = s.l1 := rfl
@[simp] theorem wake_parts (s : State) : (wake s).parts = s.parts := rfl
@[simp] theorem wake_sq (s : State) : (wake s).sq = s.sq := rfl
@[simp] theorem wake_late (s : State) : (wake s).late = s.late := rfl
@[simp] theorem wake_orphaned (s : State) : (wake s).orphaned = s.orphaned := rfl
@[simp] theorem wake_l2 (s : State) : (wake s).l2 = s.l2 := rfl
@[simp] theorem wake_sliceMts (s : State) : (wake s).sliceMts = s.sliceMts := rfl
@[simp] theorem wake_wb (s : State) : (wake s).wb = s.wb := rfl
@[simp] theorem wake_dir (s : State) : (wake s).dir = s.dir := rfl
@[simp] theorem wake_dirStatus (s : State) : (wake s).dirStatus = s.dirStatus := rfl
@[simp] theorem wake_rels (s : State) : (wake s).rels = s.rels := rfl
@[simp] theorem wake_written (s : State) : (wake s).written = s.written := rfl
@[simp] theorem wake_fetched (s : State) : (wake s).fetched = s.fetched := rfl
@[simp] theorem wake_ctxs (s : State) : (wake s).ctxs = s.ctxs := rfl
@[simp] theorem wake_quadHolder (s : State) : (wake s).quadHolder = s.quadHolder := rfl
@[simp] theorem wake_queueHolder (s : State) : (wake s).queueHolder = s.queueHolder := rfl
@[simp] theorem wake_portHolder (s : State) : (wake s).portHolder = s.portHolder := rfl
@[simp] theorem wake_queues (s : State) : (wake s).queues = s.queues := rfl
@[simp] theorem wake_grids (s : State) : (wake s).grids = s.grids := rfl
@[simp] theorem wake_slices (s : State) : (wake s).slices = s.slices := rfl
@[simp] theorem wake_blocks (s : State) : (wake s).blocks = s.blocks := rfl
@[simp] theorem wake_groups (s : State) : (wake s).groups = s.groups := rfl
@[simp] theorem wake_answers (s : State) : (wake s).answers = s.answers := rfl
@[simp] theorem wake_inns (s : State) : (wake s).inns = s.inns := rfl
@[simp] theorem wake_chunkQ (s : State) : (wake s).chunkQ = s.chunkQ := rfl
@[simp] theorem wake_boostTurn (s : State) : (wake s).boostTurn = s.boostTurn := rfl
@[simp] theorem wake_producers (s : State) : (wake s).producers = s.producers := rfl
@[simp] theorem wake_counters (s : State) : (wake s).counters = s.counters := rfl
@[simp] theorem wake_porterOps (s : State) : (wake s).porterOps = s.porterOps := rfl
@[simp] theorem wake_porters (s : State) : (wake s).porters = s.porters := rfl
@[simp] theorem wake_porterCtx (s : State) : (wake s).porterCtx = s.porterCtx := rfl
@[simp] theorem wake_heldRecs (s : State) : (wake s).heldRecs = s.heldRecs := rfl
@[simp] theorem wake_quads (s : State) : (wake s).quads = s.quads := rfl
@[simp] theorem wake_loft (s : State) : (wake s).loft = s.loft := rfl
@[simp] theorem wake_loftPoison (s : State) : (wake s).loftPoison = s.loftPoison := rfl
@[simp] theorem wake_windows (s : State) : (wake s).windows = s.windows := rfl
@[simp] theorem wake_ownPkg (s : State) : (wake s).ownPkg = s.ownPkg := rfl
@[simp] theorem wake_programs (s : State) : (wake s).programs = s.programs := rfl
@[simp] theorem wake_bindings (s : State) : (wake s).bindings = s.bindings := rfl
@[simp] theorem wake_slots (s : State) : (wake s).slots = s.slots := rfl
@[simp] theorem wake_instances (s : State) : (wake s).instances = s.instances := rfl
@[simp] theorem wake_keys (s : State) : (wake s).keys = s.keys := rfl
@[simp] theorem wake_flights (s : State) : (wake s).flights = s.flights := rfl
@[simp] theorem wake_wire (s : State) : (wake s).wire = s.wire := rfl
@[simp] theorem wake_answered (s : State) : (wake s).answered = s.answered := rfl
@[simp] theorem wake_routes (s : State) : (wake s).routes = s.routes := rfl
@[simp] theorem wake_breakout (s : State) : (wake s).breakout = s.breakout := rfl
@[simp] theorem wake_transit (s : State) : (wake s).transit = s.transit := rfl
@[simp] theorem wake_missing (s : State) : (wake s).missing = s.missing := rfl
@[simp] theorem wake_ios (s : State) : (wake s).ios = s.ios := rfl
@[simp] theorem wake_requests (s : State) : (wake s).requests = s.requests := rfl
@[simp] theorem wake_opReads (s : State) : (wake s).opReads = s.opReads := rfl
@[simp] theorem wake_remoteAtoms (s : State) : (wake s).remoteAtoms = s.remoteAtoms := rfl
@[simp] theorem wake_arrived (s : State) : (wake s).arrived = s.arrived := rfl
@[simp] theorem wake_bus (s : State) : (wake s).bus = s.bus := rfl
@[simp] theorem wake_heldAccess (s : State) : (wake s).heldAccess = s.heldAccess := rfl
@[simp] theorem wake_stage (s : State) : (wake s).stage = s.stage := rfl
@[simp] theorem wake_firmware (s : State) : (wake s).firmware = s.firmware := rfl
@[simp] theorem wake_reply (s : State) : (wake s).reply = s.reply := rfl
@[simp] theorem wake_numVfs (s : State) : (wake s).numVfs = s.numVfs := rfl
@[simp] theorem wake_vfs (s : State) : (wake s).vfs = s.vfs := rfl
@[simp] theorem wake_peerWin (s : State) : (wake s).peerWin = s.peerWin := rfl
@[simp] theorem wake_laneGroups (s : State) : (wake s).laneGroups = s.laneGroups := rfl
@[simp] theorem wake_linkDown (s : State) : (wake s).linkDown = s.linkDown := rfl
@[simp] theorem wake_newMode (s : State) : (wake s).newMode = s.newMode := rfl

/-! ### stall -/

@[simp] theorem stall_gid (s : State) : (stall s).gid = s.gid := rfl
@[simp] theorem stall_sp (s : State) : (stall s).sp = s.sp := rfl
@[simp] theorem stall_inst (s : State) : (stall s).inst = s.inst := rfl
@[simp] theorem stall_input (s : State) : (stall s).input = s.input := rfl
@[simp] theorem stall_agenda (s : State) : (stall s).agenda = s.agenda := rfl
@[simp] theorem stall_fresh (s : State) : (stall s).fresh = s.fresh := rfl
@[simp] theorem stall_free (s : State) : (stall s).free = s.free := rfl
@[simp] theorem stall_clock (s : State) : (stall s).clock = s.clock := rfl
@[simp] theorem stall_mode (s : State) : (stall s).mode = s.mode := rfl
@[simp] theorem stall_gen (s : State) : (stall s).gen = s.gen := rfl
@[simp] theorem stall_busy (s : State) : (stall s).busy = s.busy := rfl
@[simp] theorem stall_secondTier (s : State) : (stall s).secondTier = s.secondTier := rfl
@[simp] theorem stall_mem (s : State) : (stall s).mem = s.mem := rfl
@[simp] theorem stall_poison (s : State) : (stall s).poison = s.poison := rfl
@[simp] theorem stall_rewritten (s : State) : (stall s).rewritten = s.rewritten := rfl
@[simp] theorem stall_owners (s : State) : (stall s).owners = s.owners := rfl
@[simp] theorem stall_gtroot (s : State) : (stall s).gtroot = s.gtroot := rfl
@[simp] theorem stall_tlb (s : State) : (stall s).tlb = s.tlb := rfl
@[simp] theorem stall_tables (s : State) : (stall s).tables = s.tables := rfl
@[simp] theorem stall_frames (s : State) : (stall s).frames = s.frames := rfl
@[simp] theorem stall_l1 (s : State) : (stall s).l1 = s.l1 := rfl
@[simp] theorem stall_parts (s : State) : (stall s).parts = s.parts := rfl
@[simp] theorem stall_sq (s : State) : (stall s).sq = s.sq := rfl
@[simp] theorem stall_late (s : State) : (stall s).late = s.late := rfl
@[simp] theorem stall_orphaned (s : State) : (stall s).orphaned = s.orphaned := rfl
@[simp] theorem stall_l2 (s : State) : (stall s).l2 = s.l2 := rfl
@[simp] theorem stall_sliceMts (s : State) : (stall s).sliceMts = s.sliceMts := rfl
@[simp] theorem stall_wb (s : State) : (stall s).wb = s.wb := rfl
@[simp] theorem stall_dir (s : State) : (stall s).dir = s.dir := rfl
@[simp] theorem stall_dirStatus (s : State) : (stall s).dirStatus = s.dirStatus := rfl
@[simp] theorem stall_rels (s : State) : (stall s).rels = s.rels := rfl
@[simp] theorem stall_written (s : State) : (stall s).written = s.written := rfl
@[simp] theorem stall_fetched (s : State) : (stall s).fetched = s.fetched := rfl
@[simp] theorem stall_ctxs (s : State) : (stall s).ctxs = s.ctxs := rfl
@[simp] theorem stall_quadHolder (s : State) : (stall s).quadHolder = s.quadHolder := rfl
@[simp] theorem stall_queueHolder (s : State) : (stall s).queueHolder = s.queueHolder := rfl
@[simp] theorem stall_portHolder (s : State) : (stall s).portHolder = s.portHolder := rfl
@[simp] theorem stall_queues (s : State) : (stall s).queues = s.queues := rfl
@[simp] theorem stall_grids (s : State) : (stall s).grids = s.grids := rfl
@[simp] theorem stall_slices (s : State) : (stall s).slices = s.slices := rfl
@[simp] theorem stall_blocks (s : State) : (stall s).blocks = s.blocks := rfl
@[simp] theorem stall_groups (s : State) : (stall s).groups = s.groups := rfl
@[simp] theorem stall_answers (s : State) : (stall s).answers = s.answers := rfl
@[simp] theorem stall_inns (s : State) : (stall s).inns = s.inns := rfl
@[simp] theorem stall_chunkQ (s : State) : (stall s).chunkQ = s.chunkQ := rfl
@[simp] theorem stall_boostTurn (s : State) : (stall s).boostTurn = s.boostTurn := rfl
@[simp] theorem stall_producers (s : State) : (stall s).producers = s.producers := rfl
@[simp] theorem stall_counters (s : State) : (stall s).counters = s.counters := rfl
@[simp] theorem stall_porterOps (s : State) : (stall s).porterOps = s.porterOps := rfl
@[simp] theorem stall_porters (s : State) : (stall s).porters = s.porters := rfl
@[simp] theorem stall_porterCtx (s : State) : (stall s).porterCtx = s.porterCtx := rfl
@[simp] theorem stall_heldRecs (s : State) : (stall s).heldRecs = s.heldRecs := rfl
@[simp] theorem stall_quads (s : State) : (stall s).quads = s.quads := rfl
@[simp] theorem stall_loft (s : State) : (stall s).loft = s.loft := rfl
@[simp] theorem stall_loftPoison (s : State) : (stall s).loftPoison = s.loftPoison := rfl
@[simp] theorem stall_windows (s : State) : (stall s).windows = s.windows := rfl
@[simp] theorem stall_ownPkg (s : State) : (stall s).ownPkg = s.ownPkg := rfl
@[simp] theorem stall_programs (s : State) : (stall s).programs = s.programs := rfl
@[simp] theorem stall_bindings (s : State) : (stall s).bindings = s.bindings := rfl
@[simp] theorem stall_slots (s : State) : (stall s).slots = s.slots := rfl
@[simp] theorem stall_instances (s : State) : (stall s).instances = s.instances := rfl
@[simp] theorem stall_keys (s : State) : (stall s).keys = s.keys := rfl
@[simp] theorem stall_flights (s : State) : (stall s).flights = s.flights := rfl
@[simp] theorem stall_wire (s : State) : (stall s).wire = s.wire := rfl
@[simp] theorem stall_answered (s : State) : (stall s).answered = s.answered := rfl
@[simp] theorem stall_routes (s : State) : (stall s).routes = s.routes := rfl
@[simp] theorem stall_breakout (s : State) : (stall s).breakout = s.breakout := rfl
@[simp] theorem stall_transit (s : State) : (stall s).transit = s.transit := rfl
@[simp] theorem stall_missing (s : State) : (stall s).missing = s.missing := rfl
@[simp] theorem stall_ios (s : State) : (stall s).ios = s.ios := rfl
@[simp] theorem stall_requests (s : State) : (stall s).requests = s.requests := rfl
@[simp] theorem stall_opReads (s : State) : (stall s).opReads = s.opReads := rfl
@[simp] theorem stall_remoteAtoms (s : State) : (stall s).remoteAtoms = s.remoteAtoms := rfl
@[simp] theorem stall_arrived (s : State) : (stall s).arrived = s.arrived := rfl
@[simp] theorem stall_bus (s : State) : (stall s).bus = s.bus := rfl
@[simp] theorem stall_heldAccess (s : State) : (stall s).heldAccess = s.heldAccess := rfl
@[simp] theorem stall_stage (s : State) : (stall s).stage = s.stage := rfl
@[simp] theorem stall_firmware (s : State) : (stall s).firmware = s.firmware := rfl
@[simp] theorem stall_reply (s : State) : (stall s).reply = s.reply := rfl
@[simp] theorem stall_numVfs (s : State) : (stall s).numVfs = s.numVfs := rfl
@[simp] theorem stall_vfs (s : State) : (stall s).vfs = s.vfs := rfl
@[simp] theorem stall_peerWin (s : State) : (stall s).peerWin = s.peerWin := rfl
@[simp] theorem stall_laneGroups (s : State) : (stall s).laneGroups = s.laneGroups := rfl
@[simp] theorem stall_linkDown (s : State) : (stall s).linkDown = s.linkDown := rfl
@[simp] theorem stall_newMode (s : State) : (stall s).newMode = s.newMode := rfl

/-! ### vSet -/

@[simp] theorem vSet_grid (g : Group) (r l : Nat) (x : Word) : (vSet g r l x).grid = g.grid := rfl
@[simp] theorem vSet_block (g : Group) (r l : Nat) (x : Word) : (vSet g r l x).block = g.block := rfl
@[simp] theorem vSet_quad (g : Group) (r l : Nat) (x : Word) : (vSet g r l x).quad = g.quad := rfl
@[simp] theorem vSet_idx (g : Group) (r l : Nat) (x : Word) : (vSet g r l x).idx = g.idx := rfl
@[simp] theorem vSet_serial (g : Group) (r l : Nat) (x : Word) : (vSet g r l x).serial = g.serial := rfl
@[simp] theorem vSet_regbase (g : Group) (r l : Nat) (x : Word) : (vSet g r l x).regbase = g.regbase := rfl
@[simp] theorem vSet_regext (g : Group) (r l : Nat) (x : Word) : (vSet g r l x).regext = g.regext := rfl
@[simp] theorem vSet_chunks (g : Group) (r l : Nat) (x : Word) : (vSet g r l x).chunks = g.chunks := rfl
@[simp] theorem vSet_live (g : Group) (r l : Nat) (x : Word) : (vSet g r l x).live = g.live := rfl
@[simp] theorem vSet_s (g : Group) (r l : Nat) (x : Word) : (vSet g r l x).s = g.s := rfl
@[simp] theorem vSet_empty (g : Group) (r l : Nat) (x : Word) : (vSet g r l x).empty = g.empty := rfl
@[simp] theorem vSet_preds (g : Group) (r l : Nat) (x : Word) : (vSet g r l x).preds = g.preds := rfl
@[simp] theorem vSet_paths (g : Group) (r l : Nat) (x : Word) : (vSet g r l x).paths = g.paths := rfl
@[simp] theorem vSet_splits (g : Group) (r l : Nat) (x : Word) : (vSet g r l x).splits = g.splits := rfl
@[simp] theorem vSet_families (g : Group) (r l : Nat) (x : Word) : (vSet g r l x).families = g.families := rfl
@[simp] theorem vSet_scl (g : Group) (r l : Nat) (x : Word) : (vSet g r l x).scl = g.scl := rfl
@[simp] theorem vSet_nbv (g : Group) (r l : Nat) (x : Word) : (vSet g r l x).nbv = g.nbv := rfl
@[simp] theorem vSet_perm (g : Group) (r l : Nat) (x : Word) : (vSet g r l x).perm = g.perm := rfl
@[simp] theorem vSet_grow (g : Group) (r l : Nat) (x : Word) : (vSet g r l x).grow = g.grow := rfl
@[simp] theorem vSet_tstate (g : Group) (r l : Nat) (x : Word) : (vSet g r l x).tstate = g.tstate := rfl
@[simp] theorem vSet_fltmask (g : Group) (r l : Nat) (x : Word) : (vSet g r l x).fltmask = g.fltmask := rfl
@[simp] theorem vSet_fltrec (g : Group) (r l : Nat) (x : Word) : (vSet g r l x).fltrec = g.fltrec := rfl
@[simp] theorem vSet_kbase (g : Group) (r l : Nat) (x : Word) : (vSet g r l x).kbase = g.kbase := rfl
@[simp] theorem vSet_ksize (g : Group) (r l : Nat) (x : Word) : (vSet g r l x).ksize = g.ksize := rfl
@[simp] theorem vSet_handler (g : Group) (r l : Nat) (x : Word) : (vSet g r l x).handler = g.handler := rfl
@[simp] theorem vSet_frame (g : Group) (r l : Nat) (x : Word) : (vSet g r l x).frame = g.frame := rfl
@[simp] theorem vSet_recs (g : Group) (r l : Nat) (x : Word) : (vSet g r l x).recs = g.recs := rfl
@[simp] theorem vSet_held (g : Group) (r l : Nat) (x : Word) : (vSet g r l x).held = g.held := rfl
@[simp] theorem vSet_ckpt (g : Group) (r l : Nat) (x : Word) : (vSet g r l x).ckpt = g.ckpt := rfl
@[simp] theorem vSet_idem (g : Group) (r l : Nat) (x : Word) : (vSet g r l x).idem = g.idem := rfl
@[simp] theorem vSet_ranCkpt (g : Group) (r l : Nat) (x : Word) : (vSet g r l x).ranCkpt = g.ranCkpt := rfl
@[simp] theorem vSet_reports (g : Group) (r l : Nat) (x : Word) : (vSet g r l x).reports = g.reports := rfl
@[simp] theorem vSet_splitAge (g : Group) (r l : Nat) (x : Word) : (vSet g r l x).splitAge = g.splitAge := rfl
@[simp] theorem vSet_seen (g : Group) (r l : Nat) (x : Word) : (vSet g r l x).seen = g.seen := rfl
@[simp] theorem vSet_fenced (g : Group) (r l : Nat) (x : Word) : (vSet g r l x).fenced = g.fenced := rfl
@[simp] theorem vSet_relayed (g : Group) (r l : Nat) (x : Word) : (vSet g r l x).relayed = g.relayed := rfl
@[simp] theorem vSet_fence (g : Group) (r l : Nat) (x : Word) : (vSet g r l x).fence = g.fence := rfl
@[simp] theorem vSet_pend (g : Group) (r l : Nat) (x : Word) : (vSet g r l x).pend = g.pend := rfl

/-! ### sSet -/

@[simp] theorem sSet_grid (g : Group) (r : Nat) (x : Long) : (sSet g r x).grid = g.grid := rfl
@[simp] theorem sSet_block (g : Group) (r : Nat) (x : Long) : (sSet g r x).block = g.block := rfl
@[simp] theorem sSet_quad (g : Group) (r : Nat) (x : Long) : (sSet g r x).quad = g.quad := rfl
@[simp] theorem sSet_idx (g : Group) (r : Nat) (x : Long) : (sSet g r x).idx = g.idx := rfl
@[simp] theorem sSet_serial (g : Group) (r : Nat) (x : Long) : (sSet g r x).serial = g.serial := rfl
@[simp] theorem sSet_regbase (g : Group) (r : Nat) (x : Long) : (sSet g r x).regbase = g.regbase := rfl
@[simp] theorem sSet_regext (g : Group) (r : Nat) (x : Long) : (sSet g r x).regext = g.regext := rfl
@[simp] theorem sSet_chunks (g : Group) (r : Nat) (x : Long) : (sSet g r x).chunks = g.chunks := rfl
@[simp] theorem sSet_live (g : Group) (r : Nat) (x : Long) : (sSet g r x).live = g.live := rfl
@[simp] theorem sSet_v (g : Group) (r : Nat) (x : Long) : (sSet g r x).v = g.v := rfl
@[simp] theorem sSet_empty (g : Group) (r : Nat) (x : Long) : (sSet g r x).empty = g.empty := rfl
@[simp] theorem sSet_preds (g : Group) (r : Nat) (x : Long) : (sSet g r x).preds = g.preds := rfl
@[simp] theorem sSet_paths (g : Group) (r : Nat) (x : Long) : (sSet g r x).paths = g.paths := rfl
@[simp] theorem sSet_splits (g : Group) (r : Nat) (x : Long) : (sSet g r x).splits = g.splits := rfl
@[simp] theorem sSet_families (g : Group) (r : Nat) (x : Long) : (sSet g r x).families = g.families := rfl
@[simp] theorem sSet_scl (g : Group) (r : Nat) (x : Long) : (sSet g r x).scl = g.scl := rfl
@[simp] theorem sSet_nbv (g : Group) (r : Nat) (x : Long) : (sSet g r x).nbv = g.nbv := rfl
@[simp] theorem sSet_perm (g : Group) (r : Nat) (x : Long) : (sSet g r x).perm = g.perm := rfl
@[simp] theorem sSet_grow (g : Group) (r : Nat) (x : Long) : (sSet g r x).grow = g.grow := rfl
@[simp] theorem sSet_tstate (g : Group) (r : Nat) (x : Long) : (sSet g r x).tstate = g.tstate := rfl
@[simp] theorem sSet_fltmask (g : Group) (r : Nat) (x : Long) : (sSet g r x).fltmask = g.fltmask := rfl
@[simp] theorem sSet_fltrec (g : Group) (r : Nat) (x : Long) : (sSet g r x).fltrec = g.fltrec := rfl
@[simp] theorem sSet_kbase (g : Group) (r : Nat) (x : Long) : (sSet g r x).kbase = g.kbase := rfl
@[simp] theorem sSet_ksize (g : Group) (r : Nat) (x : Long) : (sSet g r x).ksize = g.ksize := rfl
@[simp] theorem sSet_handler (g : Group) (r : Nat) (x : Long) : (sSet g r x).handler = g.handler := rfl
@[simp] theorem sSet_frame (g : Group) (r : Nat) (x : Long) : (sSet g r x).frame = g.frame := rfl
@[simp] theorem sSet_recs (g : Group) (r : Nat) (x : Long) : (sSet g r x).recs = g.recs := rfl
@[simp] theorem sSet_held (g : Group) (r : Nat) (x : Long) : (sSet g r x).held = g.held := rfl
@[simp] theorem sSet_ckpt (g : Group) (r : Nat) (x : Long) : (sSet g r x).ckpt = g.ckpt := rfl
@[simp] theorem sSet_idem (g : Group) (r : Nat) (x : Long) : (sSet g r x).idem = g.idem := rfl
@[simp] theorem sSet_ranCkpt (g : Group) (r : Nat) (x : Long) : (sSet g r x).ranCkpt = g.ranCkpt := rfl
@[simp] theorem sSet_reports (g : Group) (r : Nat) (x : Long) : (sSet g r x).reports = g.reports := rfl
@[simp] theorem sSet_splitAge (g : Group) (r : Nat) (x : Long) : (sSet g r x).splitAge = g.splitAge := rfl
@[simp] theorem sSet_seen (g : Group) (r : Nat) (x : Long) : (sSet g r x).seen = g.seen := rfl
@[simp] theorem sSet_fenced (g : Group) (r : Nat) (x : Long) : (sSet g r x).fenced = g.fenced := rfl
@[simp] theorem sSet_relayed (g : Group) (r : Nat) (x : Long) : (sSet g r x).relayed = g.relayed := rfl
@[simp] theorem sSet_fence (g : Group) (r : Nat) (x : Long) : (sSet g r x).fence = g.fence := rfl
@[simp] theorem sSet_pend (g : Group) (r : Nat) (x : Long) : (sSet g r x).pend = g.pend := rfl

/-! ### setEmpty -/

@[simp] theorem setEmpty_grid (g : Group) (ks : List Nat) (b : Bool) : (setEmpty g ks b).grid = g.grid := rfl
@[simp] theorem setEmpty_block (g : Group) (ks : List Nat) (b : Bool) : (setEmpty g ks b).block = g.block := rfl
@[simp] theorem setEmpty_quad (g : Group) (ks : List Nat) (b : Bool) : (setEmpty g ks b).quad = g.quad := rfl
@[simp] theorem setEmpty_idx (g : Group) (ks : List Nat) (b : Bool) : (setEmpty g ks b).idx = g.idx := rfl
@[simp] theorem setEmpty_serial (g : Group) (ks : List Nat) (b : Bool) : (setEmpty g ks b).serial = g.serial := rfl
@[simp] theorem setEmpty_regbase (g : Group) (ks : List Nat) (b : Bool) : (setEmpty g ks b).regbase = g.regbase := rfl
@[simp] theorem setEmpty_regext (g : Group) (ks : List Nat) (b : Bool) : (setEmpty g ks b).regext = g.regext := rfl
@[simp] theorem setEmpty_chunks (g : Group) (ks : List Nat) (b : Bool) : (setEmpty g ks b).chunks = g.chunks := rfl
@[simp] theorem setEmpty_live (g : Group) (ks : List Nat) (b : Bool) : (setEmpty g ks b).live = g.live := rfl
@[simp] theorem setEmpty_v (g : Group) (ks : List Nat) (b : Bool) : (setEmpty g ks b).v = g.v := rfl
@[simp] theorem setEmpty_s (g : Group) (ks : List Nat) (b : Bool) : (setEmpty g ks b).s = g.s := rfl
@[simp] theorem setEmpty_preds (g : Group) (ks : List Nat) (b : Bool) : (setEmpty g ks b).preds = g.preds := rfl
@[simp] theorem setEmpty_paths (g : Group) (ks : List Nat) (b : Bool) : (setEmpty g ks b).paths = g.paths := rfl
@[simp] theorem setEmpty_splits (g : Group) (ks : List Nat) (b : Bool) : (setEmpty g ks b).splits = g.splits := rfl
@[simp] theorem setEmpty_families (g : Group) (ks : List Nat) (b : Bool) : (setEmpty g ks b).families = g.families := rfl
@[simp] theorem setEmpty_scl (g : Group) (ks : List Nat) (b : Bool) : (setEmpty g ks b).scl = g.scl := rfl
@[simp] theorem setEmpty_nbv (g : Group) (ks : List Nat) (b : Bool) : (setEmpty g ks b).nbv = g.nbv := rfl
@[simp] theorem setEmpty_perm (g : Group) (ks : List Nat) (b : Bool) : (setEmpty g ks b).perm = g.perm := rfl
@[simp] theorem setEmpty_grow (g : Group) (ks : List Nat) (b : Bool) : (setEmpty g ks b).grow = g.grow := rfl
@[simp] theorem setEmpty_tstate (g : Group) (ks : List Nat) (b : Bool) : (setEmpty g ks b).tstate = g.tstate := rfl
@[simp] theorem setEmpty_fltmask (g : Group) (ks : List Nat) (b : Bool) : (setEmpty g ks b).fltmask = g.fltmask := rfl
@[simp] theorem setEmpty_fltrec (g : Group) (ks : List Nat) (b : Bool) : (setEmpty g ks b).fltrec = g.fltrec := rfl
@[simp] theorem setEmpty_kbase (g : Group) (ks : List Nat) (b : Bool) : (setEmpty g ks b).kbase = g.kbase := rfl
@[simp] theorem setEmpty_ksize (g : Group) (ks : List Nat) (b : Bool) : (setEmpty g ks b).ksize = g.ksize := rfl
@[simp] theorem setEmpty_handler (g : Group) (ks : List Nat) (b : Bool) : (setEmpty g ks b).handler = g.handler := rfl
@[simp] theorem setEmpty_frame (g : Group) (ks : List Nat) (b : Bool) : (setEmpty g ks b).frame = g.frame := rfl
@[simp] theorem setEmpty_recs (g : Group) (ks : List Nat) (b : Bool) : (setEmpty g ks b).recs = g.recs := rfl
@[simp] theorem setEmpty_held (g : Group) (ks : List Nat) (b : Bool) : (setEmpty g ks b).held = g.held := rfl
@[simp] theorem setEmpty_ckpt (g : Group) (ks : List Nat) (b : Bool) : (setEmpty g ks b).ckpt = g.ckpt := rfl
@[simp] theorem setEmpty_idem (g : Group) (ks : List Nat) (b : Bool) : (setEmpty g ks b).idem = g.idem := rfl
@[simp] theorem setEmpty_ranCkpt (g : Group) (ks : List Nat) (b : Bool) : (setEmpty g ks b).ranCkpt = g.ranCkpt := rfl
@[simp] theorem setEmpty_reports (g : Group) (ks : List Nat) (b : Bool) : (setEmpty g ks b).reports = g.reports := rfl
@[simp] theorem setEmpty_splitAge (g : Group) (ks : List Nat) (b : Bool) : (setEmpty g ks b).splitAge = g.splitAge := rfl
@[simp] theorem setEmpty_seen (g : Group) (ks : List Nat) (b : Bool) : (setEmpty g ks b).seen = g.seen := rfl
@[simp] theorem setEmpty_fenced (g : Group) (ks : List Nat) (b : Bool) : (setEmpty g ks b).fenced = g.fenced := rfl
@[simp] theorem setEmpty_relayed (g : Group) (ks : List Nat) (b : Bool) : (setEmpty g ks b).relayed = g.relayed := rfl
@[simp] theorem setEmpty_fence (g : Group) (ks : List Nat) (b : Bool) : (setEmpty g ks b).fence = g.fence := rfl
@[simp] theorem setEmpty_pend (g : Group) (ks : List Nat) (b : Bool) : (setEmpty g ks b).pend = g.pend := rfl

/-! ### updPath -/

@[simp] theorem updPath_grid (g : Group) (m : Lanes) (f : Path → Path) : (updPath g m f).grid = g.grid := rfl
@[simp] theorem updPath_block (g : Group) (m : Lanes) (f : Path → Path) : (updPath g m f).block = g.block := rfl
@[simp] theorem updPath_quad (g : Group) (m : Lanes) (f : Path → Path) : (updPath g m f).quad = g.quad := rfl
@[simp] theorem updPath_idx (g : Group) (m : Lanes) (f : Path → Path) : (updPath g m f).idx = g.idx := rfl
@[simp] theorem updPath_serial (g : Group) (m : Lanes) (f : Path → Path) : (updPath g m f).serial = g.serial := rfl
@[simp] theorem updPath_regbase (g : Group) (m : Lanes) (f : Path → Path) : (updPath g m f).regbase = g.regbase := rfl
@[simp] theorem updPath_regext (g : Group) (m : Lanes) (f : Path → Path) : (updPath g m f).regext = g.regext := rfl
@[simp] theorem updPath_chunks (g : Group) (m : Lanes) (f : Path → Path) : (updPath g m f).chunks = g.chunks := rfl
@[simp] theorem updPath_live (g : Group) (m : Lanes) (f : Path → Path) : (updPath g m f).live = g.live := rfl
@[simp] theorem updPath_v (g : Group) (m : Lanes) (f : Path → Path) : (updPath g m f).v = g.v := rfl
@[simp] theorem updPath_s (g : Group) (m : Lanes) (f : Path → Path) : (updPath g m f).s = g.s := rfl
@[simp] theorem updPath_empty (g : Group) (m : Lanes) (f : Path → Path) : (updPath g m f).empty = g.empty := rfl
@[simp] theorem updPath_preds (g : Group) (m : Lanes) (f : Path → Path) : (updPath g m f).preds = g.preds := rfl
@[simp] theorem updPath_splits (g : Group) (m : Lanes) (f : Path → Path) : (updPath g m f).splits = g.splits := rfl
@[simp] theorem updPath_families (g : Group) (m : Lanes) (f : Path → Path) : (updPath g m f).families = g.families := rfl
@[simp] theorem updPath_scl (g : Group) (m : Lanes) (f : Path → Path) : (updPath g m f).scl = g.scl := rfl
@[simp] theorem updPath_nbv (g : Group) (m : Lanes) (f : Path → Path) : (updPath g m f).nbv = g.nbv := rfl
@[simp] theorem updPath_perm (g : Group) (m : Lanes) (f : Path → Path) : (updPath g m f).perm = g.perm := rfl
@[simp] theorem updPath_grow (g : Group) (m : Lanes) (f : Path → Path) : (updPath g m f).grow = g.grow := rfl
@[simp] theorem updPath_tstate (g : Group) (m : Lanes) (f : Path → Path) : (updPath g m f).tstate = g.tstate := rfl
@[simp] theorem updPath_fltmask (g : Group) (m : Lanes) (f : Path → Path) : (updPath g m f).fltmask = g.fltmask := rfl
@[simp] theorem updPath_fltrec (g : Group) (m : Lanes) (f : Path → Path) : (updPath g m f).fltrec = g.fltrec := rfl
@[simp] theorem updPath_kbase (g : Group) (m : Lanes) (f : Path → Path) : (updPath g m f).kbase = g.kbase := rfl
@[simp] theorem updPath_ksize (g : Group) (m : Lanes) (f : Path → Path) : (updPath g m f).ksize = g.ksize := rfl
@[simp] theorem updPath_handler (g : Group) (m : Lanes) (f : Path → Path) : (updPath g m f).handler = g.handler := rfl
@[simp] theorem updPath_frame (g : Group) (m : Lanes) (f : Path → Path) : (updPath g m f).frame = g.frame := rfl
@[simp] theorem updPath_recs (g : Group) (m : Lanes) (f : Path → Path) : (updPath g m f).recs = g.recs := rfl
@[simp] theorem updPath_held (g : Group) (m : Lanes) (f : Path → Path) : (updPath g m f).held = g.held := rfl
@[simp] theorem updPath_ckpt (g : Group) (m : Lanes) (f : Path → Path) : (updPath g m f).ckpt = g.ckpt := rfl
@[simp] theorem updPath_idem (g : Group) (m : Lanes) (f : Path → Path) : (updPath g m f).idem = g.idem := rfl
@[simp] theorem updPath_ranCkpt (g : Group) (m : Lanes) (f : Path → Path) : (updPath g m f).ranCkpt = g.ranCkpt := rfl
@[simp] theorem updPath_reports (g : Group) (m : Lanes) (f : Path → Path) : (updPath g m f).reports = g.reports := rfl
@[simp] theorem updPath_splitAge (g : Group) (m : Lanes) (f : Path → Path) : (updPath g m f).splitAge = g.splitAge := rfl
@[simp] theorem updPath_seen (g : Group) (m : Lanes) (f : Path → Path) : (updPath g m f).seen = g.seen := rfl
@[simp] theorem updPath_fenced (g : Group) (m : Lanes) (f : Path → Path) : (updPath g m f).fenced = g.fenced := rfl
@[simp] theorem updPath_relayed (g : Group) (m : Lanes) (f : Path → Path) : (updPath g m f).relayed = g.relayed := rfl
@[simp] theorem updPath_fence (g : Group) (m : Lanes) (f : Path → Path) : (updPath g m f).fence = g.fence := rfl
@[simp] theorem updPath_pend (g : Group) (m : Lanes) (f : Path → Path) : (updPath g m f).pend = g.pend := rfl

end Sys2Proof.Machine
end

