-- ==== Sys2Proof/Laws/Registers.lean ====
section
/-! SUPPORT. What the named operations over groups, registers and scratchpads do to what they change. -/

namespace Sys2Proof.Machine

/-! ### Entities after an update -/

theorem find_updGroup (s : State) (k j : Nat) (f : Group → Group) :
    tblFind (updGroup s k f).groups j = if k = j then (tblFind s.groups j).map f else tblFind s.groups j :=
  tblFind_upd s.groups k j f

theorem find_updCtx (s : State) (k j : Nat) (f : Context → Context) :
    tblFind (updCtx s k f).ctxs j = if k = j then (tblFind s.ctxs j).map f else tblFind s.ctxs j :=
  tblFind_upd s.ctxs k j f

theorem find_updBlock (s : State) (k j : Nat) (f : Block → Block) :
    tblFind (updBlock s k f).blocks j = if k = j then (tblFind s.blocks j).map f else tblFind s.blocks j :=
  tblFind_upd s.blocks k j f

theorem find_updGrid (s : State) (k j : Nat) (f : Grid → Grid) :
    tblFind (updGrid s k f).grids j = if k = j then (tblFind s.grids j).map f else tblFind s.grids j :=
  tblFind_upd s.grids k j f

theorem find_updInstance (s : State) (k j : Nat) (f : Instance → Instance) :
    tblFind (updInstance s k f).instances j = if k = j then (tblFind s.instances j).map f else tblFind s.instances j :=
  tblFind_upd s.instances k j f

theorem quadOf_updQuad (s : State) (q r : Nat) (f : Quad → Quad) :
    quadOf (updQuad s q f) r = if q = r then f (quadOf s r) else quadOf s r := by
  simp only [quadOf, updQuad, tblGet_set]
  split
  · subst_vars; rfl
  · rfl

theorem queueOf_updQueue (s : State) (q r : Nat) (f : Queue → Queue) :
    queueOf (updQueue s q f) r = if q = r then f (queueOf s r) else queueOf s r := by
  simp only [queueOf, updQueue, tblGet_set]
  split
  · subst_vars; rfl
  · rfl

/-! ### Registers -/

theorem vGet_vSet (g : Group) (r l : Nat) (x : Word) (q m : Nat) :
    vGet (vSet g r l x) q m = if 32 * r + l = 32 * q + m then x else vGet g q m :=
  tblGet_set 0 g.v (32 * r + l) (32 * q + m) x

theorem vGet_vSet_lane {g : Group} {r l q m : Nat} {x : Word} (hl : l < 32) (hm : m < 32) :
    vGet (vSet g r l x) q m = if r = q ∧ l = m then x else vGet g q m := by
  rw [vGet_vSet]
  by_cases h : 32 * r + l = 32 * q + m
  · rw [if_pos h, if_pos (by omega)]
  · rw [if_neg h, if_neg (by omega)]

theorem sGet_sSet (g : Group) (r q : Nat) (x : Long) : sGet (sSet g r x) q = if r = q then x else sGet g q :=
  tblGet_set 0 g.s r q x

@[simp] theorem vGet_sSet (g : Group) (r : Nat) (x : Long) (q m : Nat) : vGet (sSet g r x) q m = vGet g q m := rfl
@[simp] theorem sGet_vSet (g : Group) (r l : Nat) (x : Word) (q : Nat) : sGet (vSet g r l x) q = sGet g q := rfl
@[simp] theorem pGet_vSet (g : Group) (r l : Nat) (x : Word) (q : Nat) : pGet (vSet g r l x) q = pGet g q := rfl
@[simp] theorem pGet_sSet (g : Group) (r : Nat) (x : Long) (q : Nat) : pGet (sSet g r x) q = pGet g q := rfl

/-- p7 reads true and is never written (09 R209, R210). -/
@[simp] theorem pGet_seven (g : Group) : pGet g 7 = allLanes := rfl
@[simp] theorem pSet_seven (g : Group) (m x : Lanes) : pSet g 7 m x = g := rfl

theorem pGet_pSet (g : Group) (p q : Nat) (m x : Lanes) (hp : p ≠ 7) :
    pGet (pSet g p m x) q = if p = q then (pGet g p &&& ~~~m) ||| (x &&& m) else pGet g q := by
  simp only [pGet, pSet, if_neg hp, tblGet_set]
  by_cases h : p = q
  · subst h; simp [hp]
  · simp [h]

@[simp] theorem vGet_pSet (g : Group) (p : Nat) (m x : Lanes) (q l : Nat) : vGet (pSet g p m x) q l = vGet g q l := by
  unfold pSet; split <;> rfl
@[simp] theorem sGet_pSet (g : Group) (p : Nat) (m x : Lanes) (q : Nat) : sGet (pSet g p m x) q = sGet g q := by
  unfold pSet; split <;> rfl

theorem isEmpty_setEmpty (g : Group) (ks : List Nat) (b : Bool) (k : Nat) :
    isEmpty (setEmpty g ks b) k = if k ∈ ks then b else isEmpty g k := by
  simp only [isEmpty, setEmpty]
  generalize g.empty = t
  induction ks generalizing t with
  | nil => rfl
  | cons a r ih =>
    simp only [List.foldl_cons, ih, tblGet_set, List.mem_cons]
    by_cases h1 : k ∈ r
    · simp [h1]
    · by_cases h2 : a = k
      · simp [h1, h2]
      · simp [h1, h2, Ne.symm h2]

/-! ### Lanes -/

theorem mem_laneList {m : Lanes} {l : Nat} : l ∈ laneList m ↔ l < 32 ∧ m.getLsbD l = true := by
  simp [laneList]

/-! ### Scratchpads and lofts -/

theorem loftRead_write_same (s : State) (q off : Nat) (bs : List Byte) : loftRead (loftWrite s q off bs) q off bs.length = bs :=
  memBytes_write_same s.loft (loftKey q off) bs

theorem scratchRead_write_same {s : State} {b off : Nat} {bs : List Byte} (h : (tblFind s.blocks b).isSome) :
    scratchRead (scratchWrite s b false off bs) b false off bs.length = bs := by
  obtain ⟨k, hk⟩ := Option.isSome_iff_exists.1 h
  simp only [scratchWrite, hk, Bool.false_eq_true, if_false, scratchRead, scratchBytes, find_updBlock, if_pos, Option.map_some]
  exact memBytes_write_same k.spad off bs

theorem scratchWrite_frame (s : State) (b : Nat) (die : Bool) (off : Nat) (bs : List Byte) :
    scratchWrite s b die off bs =
      { s with blocks := (scratchWrite s b die off bs).blocks, slices := (scratchWrite s b die off bs).slices } := by
  unfold scratchWrite
  split
  · rfl
  · split <;> rfl

theorem loftWrite_frame (s : State) (q off : Nat) (bs : List Byte) :
    loftWrite s q off bs =
      { s with loft := (loftWrite s q off bs).loft, loftPoison := (loftWrite s q off bs).loftPoison } := rfl

end Sys2Proof.Machine
end

