-- ==== Sys2Proof/Laws/Ops.lean ====
section
/-! SUPPORT. What the shared operations of Machine/Ops.lean can do, said once: an issue's outcomes, what an issue adds to
the effect of its instruction, and writes of destinations and of producers. -/

namespace Sys2Proof.Machine

/-! ### An issue -/

/-- Everything an issue can do: nothing when no path has its turn; the instruction's body, or nothing when no lane acts, for a
path that has begun it or that passes the checks; else a wait, a report's trap, or the trap of a check. -/
theorem issue_cases (i : Instr) (body : Ins → State → Act) (s : State) :
    (issuing s = none ∧ issue i body s = .next s) ∨
    ∃ g p, issuing s = some (g, p) ∧
      ((actLanes g p i = 0 ∧ issue i body s = .next (concludeIssue s (insOf i s g p) (.done (atIssue i s g p)))) ∨
        (actLanes g p i ≠ 0 ∧ (p.await.isSome ∨ issueCheck g p i (actLanes g p i) = .go) ∧
          issue i body s = .next (concludeIssue s (insOf i s g p) (body (insOf i s g p) (atIssue i s g p)))) ∨
        issue i body s = .next (stall s) ∨
        (∃ r, issue i body s = .next (wake (takeTrap (dropReport s s.gid r) s.gid
          { reportTrap p (actLanes g p i) r with dsts := destKeys i }))) ∨
        ∃ t : Trap, issue i body s = .next (wake (takeTrap s s.gid { t with dsts := destKeys i }))) := by
  cases h : issuing s with
  | none => exact .inl ⟨rfl, by simp [issue, issueWith, h]⟩
  | some e =>
    obtain ⟨g, p⟩ := e
    refine .inr ⟨g, p, rfl, ?_⟩
    by_cases ha : actLanes g p i = 0
    · cases hw : p.await with
      | some a =>
        by_cases hf : (waitsFull i && i.uses.any fun u => u.writes && emptyKeys g u != []) = true
        · exact .inr (.inr (.inl (by simp only [issue, issueWith, h, hw, hf]; simp)))
        · exact .inl ⟨ha, by simp only [issue, issueWith, h, hw, hf]; simp [ha, insOf, atIssue]⟩
      | none =>
        cases hc : issueCheck g p i (actLanes g p i) with
        | go => exact .inl ⟨ha, by simp only [issue, issueWith, h, hw, hc]; simp [ha, insOf, atIssue]⟩
        | wait => exact .inr (.inr (.inl (by simp [issue, issueWith, h, hw, hc])))
        | report r => exact .inr (.inr (.inr (.inl ⟨r, by simp [issue, issueWith, h, hw, hc]⟩)))
        | trap t => exact .inr (.inr (.inr (.inr ⟨t, by simp [issue, issueWith, h, hw, hc]⟩)))
    · have ha' : (actLanes g p i = 0) = False := eq_false ha
      cases hw : p.await with
      | some a =>
        by_cases hf : (waitsFull i && i.uses.any fun u => u.writes && emptyKeys g u != []) = true
        · exact .inr (.inr (.inl (by simp only [issue, issueWith, h, hw, hf]; simp)))
        · exact .inr (.inl ⟨ha, .inl rfl, by simp only [issue, issueWith, h, hw, ha', hf, insOf, atIssue]; simp⟩)
      | none =>
        cases hc : issueCheck g p i (actLanes g p i) with
        | go => exact .inr (.inl ⟨ha, .inr rfl, by simp only [issue, issueWith, h, hw, hc, ha', insOf, atIssue]; simp⟩)
        | wait => exact .inr (.inr (.inl (by simp [issue, issueWith, h, hw, hc])))
        | report r => exact .inr (.inr (.inr (.inl ⟨r, by simp [issue, issueWith, h, hw, hc]⟩)))
        | trap t => exact .inr (.inr (.inr (.inr ⟨t, by simp [issue, issueWith, h, hw, hc]⟩)))

/-- An issue never stops the machine. -/
theorem issue_isNext (i : Instr) (body : Ins → State → Act) (s : State) : ∃ t, issue i body s = .next t := ⟨_, rfl⟩

/-! ### What an issue leaves -/

theorem atIssue_frame (i : Instr) (s : State) (g : Group) (p : Path) :
    atIssue i s g p = { s with groups := (atIssue i s g p).groups } := rfl

theorem unboost_frame (s : State) (gid sp : Nat) : unboost s gid sp = { s with groups := (unboost s gid sp).groups } := rfl

theorem freeNext_frame (s : State) : (freeNext s).2 = { s with free := s.free + 1 } := rfl

theorem holdLatch_state {s : State} {g : Group} {p : Path} {i : Instr} {k : Nat} {l : Latch} {t : State}
    (h : holdLatch s g p i = some (k, l, t)) : t = s ∨ t = (freeNext s).2 := by
  unfold holdLatch at h
  split at h
  · cases h
  · split at h
    · cases h
    · dsimp only at h
      split at h
      · cases h; exact .inl rfl
      · split at h
        · cases h
        · split at h
          · cases h; exact .inr rfl
          · cases h; exact .inl rfl

/-- What an instruction holds costs at most a free value. -/
theorem heldValue_state (s : State) (c : Ins) : (heldValue s c).2 = s ∨ (heldValue s c).2 = (freeNext s).2 := by
  unfold heldValue
  split
  · exact .inl rfl
  · split
    · exact .inl rfl
    · rename_i h
      exact holdLatch_state h

theorem advance_frame (s : State) (c : Ins) :
    advance s c = { s with groups := (advance s c).groups, free := (advance s c).free } := by
  unfold advance
  rcases heldValue_state s c with h | h <;> simp only [h] <;> rfl

/-- The end of an issue adds to the effect u only to the group and the waiting splits. -/
theorem goesOn_frame (i : Instr) (s : State) (g : Group) (p : Path) (u : State) :
    goesOn i s g p u = { u with groups := (goesOn i s g p u).groups, free := (goesOn i s g p u).free, stalled := [] } := by
  show wake (unboost (advance u (insOf i s g p)) s.gid p.split) = _
  have h := advance_frame u (insOf i s g p)
  simp only [goesOn, wake, unboost, updGroup]
  rw [h]

theorem goesOn_mem (i : Instr) (s : State) (g : Group) (p : Path) (u : State) : (goesOn i s g p u).mem = u.mem := by
  rw [goesOn_frame]

theorem rewinds_frame (s : State) (p : Path) (u : State) : rewinds s p u = { u with groups := (rewinds s p u).groups } := rfl

/-- An instruction that waits stores nothing of its own. -/
theorem waits_mem (i : Instr) (s : State) (g : Group) (p : Path) (u : State) : (waits i s g p u).mem = u.mem := by
  have h : (heldValue u (insOf i s g p)).2.mem = u.mem := by
    rcases heldValue_state u (insOf i s g p) with h | h <;> rw [h] <;> rfl
  unfold waits
  cases issuesAsWaits i <;> simp [unboost, rewinds, h]

/-- Other groups stay when an issue ends. -/
theorem goesOn_others {i : Instr} {s : State} {g : Group} {p : Path} {u : State} {k : Nat} (h : s.gid ≠ k) :
    tblFind (goesOn i s g p u).groups k = tblFind u.groups k := by
  have h1 : ∀ (v : State) (f : Group → Group), tblFind (updGroup v s.gid f).groups k = tblFind v.groups k := by
    intro v f; rw [find_updGroup, if_neg h]
  have h2 : tblFind (advance u (insOf i s g p)).groups k = tblFind u.groups k := by
    unfold advance
    rcases heldValue_state u (insOf i s g p) with h0 | h0 <;> simp only [h0] <;> exact h1 _ _
  simp only [goesOn, wake_groups, unboost]
  rw [h1, h2]

/-! ### Producers -/

theorem produce_frame (s : State) (gid : Nat) (ms : List Nat) (ws : List RegWrite) (ps : List (Nat × Lanes × Lanes)) :
    produce s gid ms ws ps = { s with
      groups := (produce s gid ms ws ps).groups, fresh := s.fresh + 1, producers := (produce s gid ms ws ps).producers } := rfl

theorem completeProducer_frame (s : State) (id : Nat) :
    completeProducer s id = { s with
      groups := (completeProducer s id).groups, producers := (completeProducer s id).producers
      stalled := (completeProducer s id).stalled } := by
  unfold completeProducer
  split <;> rfl

/-! ### Destinations -/

theorem writeDst_scalar (g : Group) (r : BitVec 8) (n : Nat) (m : Lanes) (f : Nat → Long) :
    writeDst g ⟨.scalar, r⟩ n m f = sSet g r.toNat (f (firstLane m)) := rfl

/-- One register, in the lanes that act (09 R210). -/
theorem writeDst_lane (g : Group) (r : BitVec 8) (m : Lanes) (f : Nat → Long) (q l : Nat) (hl : l < 32) :
    vGet (writeDst g ⟨.lane, r⟩ 1 m f) q l =
      if q = r.toNat ∧ m.getLsbD l = true then (f l).setWidth 32 else vGet g q l := by
  have key : ∀ (ls : List Nat), (∀ x ∈ ls, x < 32) → ∀ h : Group,
      vGet (ls.foldl (fun h x => vSet h r.toNat x ((f x).setWidth 32)) h) q l =
        if q = r.toNat ∧ l ∈ ls then (f l).setWidth 32 else vGet h q l := by
    intro ls
    induction ls with
    | nil => intro _ h; simp
    | cons a t ih =>
      intro ha h
      have ha' : a < 32 := ha a (List.mem_cons_self ..)
      rw [List.foldl_cons, ih (fun x hx => ha x (List.mem_cons_of_mem _ hx)), vGet_vSet_lane ha' hl]
      by_cases h1 : q = r.toNat
      · by_cases h2 : l ∈ t
        · simp [h1, h2]
        · by_cases h3 : a = l
          · simp [h1, h3]
          · simp [h1, h2, h3, Ne.symm h3]
      · simp [h1, Ne.symm h1]
  have h := key (laneList m) (fun x hx => (mem_laneList.1 hx).1) g
  simp only [mem_laneList, hl, true_and] at h
  simpa [writeDst] using h

end Sys2Proof.Machine
end

