-- ==== Sys2Proof/Tests/Slice0.lean ====
section
/-! SUPPORT. Tests: words of the spec's encodings, words and terms that the slot checks refuse, witnesses of the
statements' hypotheses, and results of single steps that the spec's text gives. -/

namespace Sys2Proof.Tests

open Sys2Proof.Machine

set_option Elab.async false

/-! ### States -/

/-- A package at work: the root runs, with one group of 32 lanes of one started block that has scratchpad, a slice, a
loft window and the array, and whose path stands at slot 0 of its line. The root maps its first GiB to itself. -/
def work : State :=
  let s := placeSplit State.reset 0
  { s with
    gid := 3, sp := 0, agenda := [], stage := .ready, clock := 100
    grids := tblMap s.grids fun _ g => { g with hdr := { g.hdr with spad := 4096, dspad := 4096, regext := 2, loft := 65536 } }
    ctxs := tblMap s.ctxs fun _ c => { c with troot := 0x10000 }
    mem := memWrite (memWrite (memWrite [] 0x10000 (bytesOfNat 8 0x11001)) 0x11000 (bytesOfNat 8 0x12001)) 0x12000
      (bytesOfNat 8 0x3F)
    slices := [⟨1, 0, 4096, [], [], newBarrier, []⟩]
    windows := [⟨2, 0, 0, 65536⟩]
    quads := [(0, { newQuad with holder := some 2 })]
    groups := tblMap s.groups fun _ g => { g with
      regext := 2, kbase := 0x400000, ksize := 4096, paths := g.paths.map fun p => { p with enter := false, checked := false } } }

/-- That group. -/
def workGroup : Group := (tblFind work.groups 3).getD (startGroup placedGrid 1 2 0 0 0 allLanes (threadRegs 0) 0 0x100)

/-- Its path. -/
def workPath : Path := (workGroup.paths.head?).getD ⟨0, allLanes, 0, 0, [], .current, none, true, true, 0, none, 0, false, none⟩

/-- The package with the group changed. -/
def withGroup (f : Group → Group) : State := { work with groups := tblPut work.groups 3 (f workGroup) }

/-- The package with scalar registers set. -/
def withS (l : List (Nat × Long)) : State := withGroup fun g => l.foldl (fun g e => sSet g e.1 e.2) g

/-- The group and the path of the turn. -/
def turnGroup (s : State) : Group := ((issuing s).map (·.1)).getD workGroup
def turnPath (s : State) : Path := ((issuing s).map (·.2)).getD workPath
def turnAct (i : Instr) (s : State) : Lanes := actLanes (turnGroup s) (turnPath s) i
/-- The machine as the instruction issues, and what its meaning is given. -/
def issuedAt (i : Instr) (s : State) : State := atIssue i s (turnGroup s) (turnPath s)
def insAt (i : Instr) (s : State) : Ins := insOf i s (turnGroup s) (turnPath s)

/-- The instruction issues. -/
def issuesHere (i : Instr) (s : State) : Bool :=
  (issuing s).any fun e =>
    e.2.await.isNone && actLanes e.1 e.2 i != 0 && decide (issueCheck e.1 e.2 i (actLanes e.1 e.2 i) = .go)

/-- It reaches its issue, and no lane acts. -/
def reachesHere (i : Instr) (s : State) : Bool :=
  (issuing s).any fun e =>
    e.2.await.isNone && decide (issueCheck e.1 e.2 i (actLanes e.1 e.2 i) = .go)

theorem issues_of_issuesHere {i : Instr} {s : State} (h : issuesHere i s = true) :
    Issues i s (turnGroup s) (turnPath s) := by
  cases h1 : issuing s with
  | none => simp [issuesHere, h1] at h
  | some e =>
    simp only [issuesHere, h1, Option.any_some, Bool.and_eq_true, decide_eq_true_eq, bne_iff_ne, ne_eq,
      Option.isNone_iff_eq_none] at h
    simp only [turnGroup, turnPath, h1, Option.map_some, Option.getD_some]
    exact ⟨h1, h.1.1, h.1.2, h.2⟩

/-! ### Operands -/

def always : Guard := ⟨⟨false, 7⟩, ⟨0, 0⟩⟩
def never : Guard := ⟨⟨true, 7⟩, ⟨0, 0⟩⟩
def v (r : BitVec 8) : Src := ⟨.lane, r, false⟩
def x (r : BitVec 8) : Src := ⟨.scalar, r, false⟩
def dv (r : BitVec 8) : Dst := ⟨.lane, r⟩
def dx (r : BitVec 8) : Dst := ⟨.scalar, r⟩
def plain (sz : MSize) : MAttr := ⟨0, .grp, .plain, sz⟩
def at0 (b : Src) : MemOpd := ⟨b, .off 0⟩

/-! ### Witnesses: instructions of the register families -/

/-- One instruction of each kind of the result tables. -/
def moveSamples : List Instr :=
  [.mov always .bits (dv 1) (v 0), .movi always false (dv 1) 0xFFFFFFFF, .movhi always (dx 4) 1,
   .sel always 7 .bits (dv 1) (v 0) (.imm 1), .plop always 0x80 1 7 7 7, .s2p always (.toPred 1 (x 0)),
   .s2p always (.rev (dx 4) 7), .s2p always (.all (v 0)), .s2p always (.vr (dv 1)), .setscl always 1 (.imm 1),
   .fechk always 1 (v 0) 0, .idem always false]

def predicateSamples : List Instr :=
  [.icmp always .lt .i32 (v 0) (.imm 100) ⟨0, ⟨false, 0⟩, 2⟩, .fcmp always .lt .f32 (v 0) (.imm 0) ⟨1, ⟨false, 7⟩, 2⟩,
   .fclass always .f16 (v 0) (.imm 0x103) ⟨0, ⟨false, 0⟩, 5⟩, .iaddc always .u32 (dv 1) (v 0) (.imm 0xFFFFFFFF) ⟨false, 0⟩ 1]

def integerSamples : List Instr :=
  [.iadd always false .i32 (dv 1) (v 0) (.imm 1), .iadd3 always .i32 (dv 1) (v 0) (.reg (v 0)) (v 0),
   .isub always true .i32 (dv 1) (v 0) (.imm 1), .imul always .u64 (dv 2) (v 0) (.reg (v 4)), .imulhi always .i32 (dv 1) (v 0) (.imm 3),
   .imad always .i32 (dv 1) (v 0) (.imm 3) (v 0), .imadw always .i32 (dv 2) (v 0) (.imm 3) (v 4),
   .idiv always true .i32 (dv 1) (v 0) (.imm 3), .imin always .i32 (dv 1) (v 0) (.imm 3), .imax always .i32 (dv 1) (v 0) (.imm 3),
   .iabs always false .i32 (dv 1) (v 0), .isad always .i32 (dv 1) (v 0) (.imm 3) (v 0), .isat always 0 .i32 (dv 1) (v 0),
   .lop3 always .bits (dv 1) (v 0) (v 0) (v 0) 0x80, .shl always false .i32 (dv 1) (v 0) (.imm 3),
   .shr always false .i32 (dv 1) (v 0) (.imm 3), .sar always false .i32 (dv 1) (v 0) (.imm 3),
   .fshf always true false .i32 (dv 1) (v 0) (.imm 3) (v 0), .bfe always .i32 (dv 1) (v 0) (.imm 0x0801),
   .bfi always .i32 (dv 1) (v 0) (.imm 0x0801) (v 0), .bmsk always .i32 (dv 1) (v 0) (.imm 3), .popc always .i32 (dv 1) (v 0),
   .clz always .i32 (dv 1) (v 0), .brev always .i32 (dv 1) (v 0), .prmt always (dv 1) (v 0) (.imm 0x3210) (v 0),
   .idot4 always false false .i8x4 (dv 1) (v 0) (.reg (v 0)) (v 0), .lea always (dx 4) ⟨x 0, .off 8⟩]

def floatSamples : List Instr :=
  [.fadd always .rne .f32 (dv 1) (v 0) (.imm 0), .fsub always .rne .f32 (dv 1) (v 0) (.imm 0), .fmul always .rne .f16 (dv 1) (v 0) (.imm 0),
   .ffma always .rne .f32 (dv 1) (v 0) (.imm 0) (v 0), .fdiv always .rne .f32 (dv 1) (v 0) (.imm 1), .frcp always .rne .f32 (dv 1) (v 0),
   .frsq always .rne .f32 (dv 1) (v 0), .fsqrt always .rne .f32 (dv 1) (v 0), .fscale always .rne .f32 (dv 1) (v 0) (.imm 1),
   .fmin always false .f32 (dv 1) (v 0) (.imm 0), .fmax always false .f32 (dv 1) (v 0) (.imm 0), .frnd always .rne .f32 (dv 1) (v 0),
   .fcpys always .cpy .f32 (dv 1) (v 0) (.imm 0), .fexp2 always .f32 (dv 1) (v 0), .flog2 always .f32 (dv 1) (v 0),
   .ftanh always .f32 (dv 1) (v 0), .ferf always .f32 (dv 1) (v 0), .fsin always .f32 (dv 1) (v 0), .fcos always .f32 (dv 1) (v 0),
   .fdot2 always .bf16x2 (dv 1) (v 0) (v 0) (v 0), .fdot4 always true .e4m3x4 (dv 1) (v 0) (v 0) (v 0),
   .cvtn always 0 .e4m3x4 (dv 1) (v 4) (x 0)]

def convertSamples : List Instr :=
  [.cvt always (.fixed .rne) true 0 .e4m3 .f32 (dv 1) (v 0), .qntg always true .rne .int4g (dv 2) (v 0) none none,
   .qntg always false .rne .int4g (dv 1) (v 8) (some (v 0)) none, .dqnt always 0 .int4g (dv 8) (v 0) (v 0) none]

def crossSamples : List Instr :=
  [.shfl always .up .bits (dv 1) (v 0) (.imm 1) (some 2), .vote always .all ⟨false, 7⟩ 2 none, .vote always .all ⟨false, 7⟩ 0 (some (dx 4)),
   .lmatch always .bits (dv 1) (v 0), .scan always .add false .i32 (dv 1) (v 0), .lred always .add .i32 (dv 1) (v 0),
   .compact always (dv 2) (v 0) ⟨false, 7⟩, .lhist always false (dv 1) (v 0) (.imm 32)]

/-- Every one of them is well formed, has its rule, and issues in the package at work. -/
def haveRule (l : List Instr) (rule : Instr → Group → Path → Lanes → Option (Group → Group)) : Bool :=
  l.all fun i => i.wf && issuesHere i work && (rule i (turnGroup work) (turnPath work) (turnAct i work)).isSome

theorem witness_registers : haveRule moveSamples moveRule = true ∧ haveRule predicateSamples predicateRule = true := by
  decide +kernel

theorem witness_floats : haveRule floatSamples floatRule = true ∧ haveRule convertSamples convertRule = true := by
  decide +kernel

theorem witness_integers : haveRule integerSamples integerRule = true ∧ haveRule crossSamples crossRule = true := by
  decide +kernel

theorem witness_registerFrame : haveRule (moveSamples ++ predicateSamples ++ integerSamples ++ floatSamples ++ convertSamples ++
    crossSamples) registerRule = true := by decide +kernel

/-- The instruction issues, and its other hypotheses hold in the machine at its issue. -/
def meets (i : Instr) (s : State) (h : State → Group → Path → Lanes → Bool := fun _ _ _ _ => true) : Bool :=
  i.wf && issuesHere i s && h (issuedAt i s) (turnGroup s) (turnPath s) (turnAct i s)

theorem witness_groupResults :
    meets (.getc always false (dx 6) 0x39) work (fun u g _ _ => !factBusy u 3 g.quad 0x39) = true ∧
    meets (.setc always false 0x18 (x 0)) work (fun u g _ _ => !factBusy u 3 g.quad 0x18) = true ∧
    meets (.setc always false 0x10 (x 9)) work (fun u g p act => !factBusy u 3 g.quad 0x10 && fmtValid
      ((setcVal (specialVal u g p 0x10 (firstLane act)) (srcVal g p (x 9) 1 (firstLane act)) 0x10 false true).setWidth 32)) = true ∧
    meets (.setfmt always none (.imm 0)) work (fun _ g p _ => fmtValid ((bVal g p (.imm 0) 1 false 0).setWidth 32)) = true ∧
    meets (.setfmt always (some (x 9)) (.imm 0)) work (fun _ _ p _ => fmtValid p.fmt) = true ∧
    meets (.racq always false 1 0) work (fun u g _ _ => chunkCount 1 ≤ g.regext && g.chunks == 0 && g.splits.length == 1 &&
      tblGet [] u.chunkQ g.quad == [] && chunkCount 1 ≤ poolFree u g.quad) = true ∧
    meets (.rrel always 1) work (fun _ g _ _ => g.splits.length == 1 &&
      !(g.empty.any fun e => e.1 < 256 && inChunks (1 &&& g.chunks) e.1)) = true ∧
    meets (.fewait always (some (v 0, 3))) work (fun _ g _ _ => !anyEmpty g (some (v 0, 3))) = true ∧
    meets (.topk always true .f32 (dv 4) (v 0) (v 1) 2 4 (some 5)) work = true ∧
    meets (.bsort always false .u32 (dv 2) (v 0) (v 1) 5) work = true := by decide +kernel

theorem witness_noLaneActs :
    reachesHere (.mov never .bits (dv 1) (v 0)) work = true ∧ turnAct (.mov never .bits (dv 1) (v 0)) work = 0 := by
  decide +kernel

/-! ### Witnesses: control -/

/-- A second path of the same split is parked. -/
def twoPaths : State := withGroup fun g => { g with
  paths := g.paths.map (fun p => { p with lanes := 0xFFFF }) ++ g.paths.map fun p => { p with lanes := 0xFFFF0000, status := .wsync } }

def transferSamples : List Instr :=
  [.bra always ⟨1, 1⟩, .bri always (x 4), .ret always (x 4), .brx always ⟨1, 1⟩ (v 0) (x 5), .call always (dv 2) ⟨0, 1⟩,
   .calli always (dv 2) (x 4), .loop always (dx 5) ⟨0, 1⟩]

theorem witness_transfers :
    transferSamples.all (fun i => meets i (withS [(4, 0x140), (5, 3)]) fun _ g p act =>
      (transferRule i g p act).any fun e => (laneList act).all fun l => !badPc (e.1 l)) = true ∧
    ([Instr.bri always (x 4), .ret always (x 4), .calli always (dv 2) (x 4)].all fun i => meets i (withS [(4, 0x107)]) fun _ g p act =>
      (transferRule i g p act).any fun e => (laneList act).any fun l => badPc (e.1 l)) = true := by decide +kernel

theorem witness_pathControl :
    meets (.nop always) work = true ∧ meets (.join always ⟨1, 0⟩) work = true ∧
    (reachesHere (.wsync always) work && (turnGroup work).paths.length == 1) = true ∧
    (reachesHere (.wsync always) twoPaths && (turnGroup twoPaths).paths.length == 2) = true ∧
    meets (.exit always) work = true ∧ meets (.yield always) twoPaths = true := by decide +kernel

theorem witness_pathMoves : workPath.lanes ≠ 0 ∧ workPath.lanes.getLsbD 0 = true ∧ workPath.lanes.getLsbD 31 = true := by
  decide +kernel

/-- The cause that forbids a barrier instruction. -/
def barrierStop (i : Instr) (s : State) : Option Nat :=
  let c := insAt i s
  let u := issuedAt i s
  match i with
  | .bar _ die id n | .bara _ die id n => barrierCause u c die n.toNat (getBarrier u c.g die id.toNat) true
  | .barw _ die id => barrierCause u c die 0 (getBarrier u c.g die id.toNat) false
  | _ => none

/-- The phases of a barrier as a BAR issues, when its lanes that have not arrived do, and when the others do again;
and these. -/
def barPhases (i : Instr) (s : State) : Option (Nat × Nat × Nat × Lanes) :=
  let c := insAt i s
  let u := issuedAt i s
  match i with
  | .bar _ die id n =>
    let phase (t : State) : Nat := (getBarrier t c.g die id.toNat).phase
    let again := arrivedNow (getBarrier u c.g die id.toNat) 3 c.act
    let v := barrierArrive c u die id.toNat n.toNat (c.act &&& ~~~again)
    some (phase u, phase v, phase (barrierArrive c v die id.toNat n.toNat again), again)
  | _ => none

/-- Barrier 2 in a phase in which the upper lanes of the group have arrived. -/
def halfArrived : State :=
  { work with blocks := tblMap work.blocks fun _ k => { k with bars := [(2, ⟨7, none, [(3, 0xFFFF0000)], [], Times.zero⟩)] } }

theorem witness_barriers :
    [Instr.bar always false 2 1, .bar always false 15 0, .bara always false 0 1, .barw always false 2].all (fun i =>
      meets i work fun u g _ act => barrierStop i work == none && !releaseHeld u g .blk && (List.range 16).all fun id =>
        arrivedNow (getBarrier u g false id) 3 act == 0 && (getBarrier u g false id).last == []) = true ∧
    (barPhases (.bar always false 2 1) work = some (0, 1, 1, 0) ∧ barPhases (.bar always false 2 0) twoPaths = some (0, 0, 0, 0)) ∧
    meets (.bar always false 2 0) halfArrived (fun u g _ _ => !releaseHeld u g .blk) = true ∧
    barPhases (.bar always false 2 0) halfArrived = some (7, 8, 8, 0xFFFF0000) ∧
    [Instr.bar always false 2 2, .bara always true 0 0, .barw always true 0].all (fun i =>
      meets i work && (barrierStop i work).isSome) = true := by decide +kernel

/-- The package with a launch queue of the root's enabled, and a child grid that has completed. -/
def launching : State :=
  let s := withS [(4, 0x100000), (5, 9), (6, 0x8000000000000007), (7, 7)]
  { s with
    queues := tblPut s.queues 9 { queueOf s 9 with base := 0x200000, log2 := 4, dev := true, en := true }
    grids := tblPut s.grids 5 { placedGrid with seq := 7, parent := 1, parentBlock := 2, state := .complete } }

/-- A reply of an access to virtual memory. -/
def okVm {ε α : Type} : Except ε α → Bool
  | .ok _ => true
  | .error _ => false

/-- The machine and the bytes after a read that succeeds. -/
def afterRead (r : Except EngErr (State × List Byte)) : State × List Byte :=
  match r with
  | .ok x => x
  | .error _ => (work, [])

theorem witness_spawns :
    meets (.spawn always 1 (dv 2) (v 0) ⟨0, 0⟩) work (fun u g _ _ => !isDet u g && !releaseHeld u g .die) = true ∧
    meets (.spawnw always 1 (dv 2) (x 9) ⟨0, 0⟩) work (fun u g _ _ => !isDet u g && !releaseHeld u g .die && 8 ≤ scratchSize u g.block false &&
      !scratchPoison u g.block false 0 8) = true ∧
    meets (.spawnw always 0 (dv 2) (x 4) ⟨0, 0⟩) (withS [(4, 4092)]) (fun u g _ _ => 4096 ≤ scratchSize u g.block false &&
      !scratchPoison u g.block false 4092 4) = true ∧
    meets (.innset always (dx 6) (x 4) (x 5)) (withS [(4, 0x100), (5, 3)]) (fun u g p act =>
      (gridOf u g).any (fun gr => inCode gr 0x100 && (findInn u 1 0 0x100).isNone && innFree u gr.ctx 0) &&
        (findInn (takeInn u 1 (dieOf ⟨3, g, p, act, .nop always⟩) 0x100) 1 0 0x100).isSome) = true ∧
    meets (.curfew always none) work = true := by decide +kernel

theorem witness_launches :
    meets (.launch always (dx 10) (x 4) (x 5)) launching (fun u g _ act =>
      let t : State := { drainGroup u g with arrived := [] }
      let r := afterRead (vmRead t (whoOf t g) 0x100000 64 .load)
      let w : State := { r.1 with arrived := [], ios := tblDel r.1.ios t.fresh }
      g.idx == 0 && act.getLsbD 0 && (gridOf u g).any (fun gr => gr.depth < 10) && queueHolder u 9 == ctxOf u g &&
        canPush u (ctxOf u g) 9 && !drainHeld u (ownStore u g) && okVm (vmRead t (whoOf t g) 0x100000 64 .load) &&
        r.2.length == 64 && canPush w (ctxOf w g) 9 && ((queueOf w 9).tail - (queueOf w 9).head).toNat < 2 ^ (queueOf w 9).log2 &&
        !releaseHeld w g .pkg && sourcesOpen w (ctxOf w g) &&
        okVm (vmWrite (release w g .pkg) (whoOf w g) 0x200000 r.2 .store)) = true ∧
    (let s := withGroup fun g => { g with paths := g.paths.map fun p => { p with await := some (.answer 1) } }
     (turnPath s).await = some (.answer 1) ∧ turnAct (.launch always (dx 10) (x 4) (x 5)) s ≠ 0) ∧
    meets (.lwait always (dx 10) (some (x 7))) launching (fun u g _ _ =>
      ((u.grids.filter fun e => e.2.parent = g.grid).map (·.2)).any fun r => r.seq % 2 ^ 32 = 7 && gridFinal r.state) = true := by
  decide +kernel

/-! ### Witnesses: memory -/

/-- The package with addresses in s4 (block scratchpad), s5 (virtual memory). -/
def addressed : State := withS [(4, 4092), (5, 0x300004)]

theorem witness_scratch :
    [Instr.lds always .bits (plain .b32) (dx 10) (at0 (x 4)), .ldd always .bits (plain .b32) (dx 10) (at0 (x 4))].all (fun i =>
      meets i addressed fun u g _ act => (loadOf i).any fun e => (memLanes e.2.2.2.1 act) != [] && (memLanes e.2.2.2.1 act).all fun _ =>
        4096 ≤ scratchSize u g.block false && 4096 ≤ scratchSize u g.block true &&
          !scratchPoison u g.block false 4092 4 && !scratchPoison u g.block true 4092 4) = true ∧
    [Instr.sts always .bits (plain .b32) (dx 10) (at0 (x 4)), .std always .bits ⟨0, .sys, .rel, .b32⟩ (dx 10) (at0 (x 4))].all (fun i =>
      meets i addressed fun u g _ act => (storeOf i).any fun e => (memLanes e.2.2.1 act) != [] &&
        !storeWaits u (accessOf (insAt i addressed) u e.1 .store e.2.1) (memLanes e.2.2.1 act) (memAddr g (turnPath addressed) e.2.2.2) &&
        4096 ≤ scratchSize u g.block false && 4096 ≤ scratchSize (release u g .sys) g.block true) = true ∧
    (tblFind work.blocks 2).any (fun k => (sliceOf work k.grid k.die).isSome) = true ∧
    ((tblFind work.blocks 2).any fun k => (tblFind (tblMap work.blocks fun _ k => { k with die := 1 }) 2).any fun x =>
      k.die != x.die) = true := by decide +kernel

/-- The access of an instruction. -/
def accessAt (i : Instr) (s : State) (sp : Space) (acc : Acc) (at_ : MAttr) : Access := accessOf (insAt i s) (issuedAt i s) sp acc at_

/-- No lane of a load, store or atomic has met an error or asks the host. -/
def quiet (m : Prog) : Bool := m.errs.isEmpty && m.wants == 0

theorem witness_accesses :
    [Instr.ld always .bits (plain .b32) (dx 10) (at0 (x 5)), .lds always .bits (plain .b32) (dx 10) (at0 (x 4)),
      .ldd always .bits (plain .b32) (dx 10) (at0 (x 4)), .ldk always .bits (plain .b32) (dv 10) (at0 (x 9))].all (fun i =>
      meets i addressed && (loadOf i).any fun (sp, _, at_, d, mo) =>
        !linesHeld (issuedAt i addressed) (accessAt i addressed sp .load at_) false (memLanes d (turnAct i addressed))
          (memAddr (turnGroup addressed) (turnPath addressed) mo) && quiet ((memLanes d (turnAct i addressed)).foldl
          (loadLane (accessAt i addressed sp .load at_) (memAddr (turnGroup addressed) (turnPath addressed) mo))
          (newProg (issuedAt i addressed)))) = true ∧
    [Instr.st always .bits (plain .b32) (dx 10) (at0 (x 5)), .sts always .bits (plain .b32) (dx 10) (at0 (x 4)),
      .std always .bits (plain .b32) (dx 10) (at0 (x 4)), .st always .bits ⟨0, .sys, .rel, .b32⟩ (dx 10) (at0 (x 9)), .stk always .bits (plain .b32) (dv 10) (at0 (x 9))].all (fun i =>
      meets i addressed && (storeOf i).any fun (sp, at_, d, mo) =>
        !storeWaits (issuedAt i addressed) (accessAt i addressed sp .store at_) (memLanes d (turnAct i addressed))
          (memAddr (turnGroup addressed) (turnPath addressed) mo) && quiet ((memLanes d (turnAct i addressed)).foldl
          (storeLane (accessAt i addressed sp .store at_) d (memAddr (turnGroup addressed) (turnPath addressed) mo))
          (newProg (issuedAt i addressed)))) = true := by decide +kernel

def atomicSamples : List Instr :=
  [.atom always .add .bits (plain .b32) (dx 10) (at0 (x 6)), .atoms always .inc .u32 (plain .b32) (dx 10) (at0 (x 4)),
   .prom always .add .bits (plain .b32) (dx 10) (at0 (x 6)), .atomf always .add .f32 (plain .b32) (dx 10) (at0 (x 6)),
   .atomfs always .min .f32 (plain .b32) (dx 10) (at0 (x 4)), .cas always .bits (plain .b32) (dx 10) (at0 (x 6)),
   .cass always .bits (plain .b32) (dx 10) (at0 (x 4)), .amaxr always .bits (plain .b32) (dx 10) (at0 (x 6))]

/-- The package with a word's address of each space. -/
def atWords : State := withS [(4, 4092), (6, 0x300080)]

theorem witness_atomics :
    atomicSamples.all (fun i => meets i atWords (fun u g _ act =>
      !((gridOf u g).map (·.hdr.det)).getD false && (atomicOf i g).any fun (sp, at_, d, mo, _, r) =>
        memLanes d act != [] &&
          !rmwHeld u (accessAt i atWords sp .atomic at_) r (memLanes d act) (memAddr g (turnPath atWords) mo) && quiet ((memLanes d act).foldl
          (rmwLane (accessAt i atWords sp .atomic at_) r (memAddr g (turnPath atWords) mo)) (newProg u)))) = true ∧
    (let a := accessAt (.atoms always .inc .u32 (plain .b32) (dx 10) (at0 (x 4))) atWords .bs .atomic (plain .b32)
     a.sp = .bs ∧ 4092 + a.size ≤ scratchSize atWords a.c.g.block false ∧ 4092 % a.size = 0 ∧
       scratchPoison atWords a.c.g.block false 4092 a.size = false) := by decide +kernel

/-- Additions of signed words, whose words with MOD 7 are refused. -/
theorem witness_atomicTypes : [Instr.atom always .add .i32 ⟨0, .die, .rel, .b32⟩ (dv 10) (at0 (x 4)),
    .atoms always .add .i64 (plain .b64) (dv 10) (at0 (x 4)), .prom always .add .i32 ⟨0, .die, .rel, .b32⟩ (dv 10) (at0 (x 4))].all
    (fun i => i.wf && (encode i).any fun w => match decode (w ||| 0x7000) with
      | .error e => decide (e = .type)
      | .ok _ => false) = true ∧
    [(Instr.atom always .inc .u32 (plain .b32) (dv 10) (at0 (x 4)), 0x8C, 2), (.atoms always .exch .i64 (plain .b64) (dv 10) (at0 (x 4)), 0x8D, 3),
      (.prom always .add .i32 ⟨0, .die, .rel, .b32⟩ (dv 10) (at0 (x 4)), 0x92, 2)].all (fun e => (encode e.1).any fun w =>
      w.toNat % 256 == e.2.1 && (w.extractLsb' 49 3).toNat == e.2.2 && (decode w).toOption == some e.1) = true := by decide +kernel

/-- The check of an address of a b32 access in a space. -/
def checkAt (sp : Space) (a : Long) (ordered : Bool) : Option LaneErr :=
  addrErr atWords (accessAt (.ld always .bits (plain .b32) (dx 10) (at0 (x 4))) atWords sp .load (plain .b32)) a ordered

theorem witness_addressTraps :
    [Space.bs, .ds, .k].all (fun sp => checkAt sp 4092 true == none && checkAt sp 4093 true == some (.access 2 4093 0) &&
      checkAt sp 4091 true == some (.access 1 4091 0) && checkAt sp 4091 false == none) = true ∧
    checkAt .vm 4093 true = some (.access 1 4093 0) ∧ checkAt .vm 0x00FFFFFFFFFFFFFC true = none ∧
    checkAt .vm 0x0100000000000001 true = some (.access 1 0x0100000000000001 0) ∧
    (checkAt .vm 0x0100000000000000 true).isSome = true ∧ (checkAt .vm 0x0100000000000001 false).isSome = true := by
  decide +kernel

/-- A lane's access fails, and nothing is asked of the host. -/
def failing (m : Prog) : Bool := !m.errs.isEmpty && m.wants == 0

/-- The addresses of the scratchpads' last byte, in s4, and of one that is not canonical, in s5. -/
def atEnds : State := withS [(4, 4095), (5, 0x0100000000000000)]

theorem witness_memoryTraps :
    [Instr.ld always .bits (plain .b32) (dx 10) (at0 (x 5)), .lds always .bits (plain .b32) (dx 10) (at0 (x 4)),
      .ldd always .bits (plain .b32) (dx 10) (at0 (x 4))].all (fun i => meets i atEnds fun u g p act =>
      (loadOf i).any fun (sp, _, at_, d, mo) => !linesHeld u (accessAt i atEnds sp .load at_) false (memLanes d act) (memAddr g p mo) &&
        failing ((memLanes d act).foldl (loadLane (accessAt i atEnds sp .load at_) (memAddr g p mo)) (newProg u))) = true ∧
    [Instr.st always .bits ⟨0, .sys, .rel, .b32⟩ (dx 10) (at0 (x 4)), .sts always .bits (plain .b32) (dx 10) (at0 (x 4))].all (fun i =>
      meets i atEnds fun u g p act => (storeOf i).any fun (sp, at_, d, mo) =>
        !storeWaits u (accessAt i atEnds sp .store at_) (memLanes d act) (memAddr g p mo) && failing ((memLanes d act).foldl
          (storeLane (accessAt i atEnds sp .store at_) d (memAddr g p mo))
          (newProg (if releases at_.ord then release u g at_.scope else u)))) = true ∧
    [Instr.atom always .add .bits (plain .b32) (dx 10) (at0 (x 5)), .cass always .bits (plain .b32) (dx 10) (at0 (x 4))].all (fun i =>
      meets i atEnds fun u g p act => (atomicOf i g).any fun (sp, at_, d, mo, _, r) =>
        !rmwHeld u (accessAt i atEnds sp .atomic at_) r (memLanes d act) (memAddr g p mo) && failing ((memLanes d act).foldl
          (rmwLane (accessAt i atEnds sp .atomic at_) r (memAddr g p mo)) (newProg u))) = true := by decide +kernel

/-- A line of the core's L1 that the root may read and write. -/
def heldLine : L1Line := ⟨0, 1, 1, 0x300080, 0x11223344, ⟨true, true, false, true, .normal, false⟩, 0, 2 ^ 32, 0, 2 ^ 32, 0, 0⟩

theorem witness_cachedLoads :
    let s : State := { atWords with l1 := [heldLine] }
    let a := accessAt (.ld always .bits (plain .b32) (dx 10) (at0 (x 6))) s .vm .load (plain .b32)
    a.sp = .vm ∧ a.ord = .plain ∧ a.c.p.full = false ∧ addressFault s a.w 0x300080 a.acc = none ∧ canonical 0x300080 = true ∧
    piecesOf 0x300080 a.size = [(0x300080, a.size)] ∧
    l1Find s 0 a.w.ctx (asidOf a.w.ctx 0x300080) (lineOf 0x300080) = some heldLine ∧ l1Valid s heldLine = true ∧
    permOk heldLine.perm a.acc a.w.handler = true ∧ touchesPoison heldLine.poison 0 a.size = false ∧
    0x300080 % 128 + 4 ≤ 128 ∧ (s.sq.filter fun e => e.core = coreOfQuad a.c.g.quad).length < 32 := by decide +kernel

theorem witness_fences :
    [Instr.fence always .acqrel .sys, .fence always .rel .grp, .fencea always .matrix, .pref always .excl 0 (at0 (x 6)),
      .cwb always 0 (at0 (x 6)), .cinv always 0 .die (at0 (x 6))].all (meets · atWords fun u g _ _ =>
        !drainHeld u (ownStore u g) && !releaseHeld u g .sys) = true ∧
    canonical 0x300080 = true ∧ wideScope atWords workGroup .die = true ∧ wideScope atWords workGroup .sys = true := by decide +kernel

/-! ### Witnesses: porters and the fabric -/

/-- The package with copy operands, an endpoint and a route. -/
def copying : State :=
  let s := withS [(2, 0x100), (3, 0x300000), (4, 0x40), (5, 0x2000000010), (8, 0x300000), (9, 0x400000), (10, 0x300000040), (11, 8)]
  { s with ctxs := tblMap s.ctxs fun _ c => { c with endpoints := [(3, ⟨5, 1, 0⟩)] }, routes := [(5, 2)] }

def copyCtl : PCtl := ⟨0, 0x20, false, true, .vm, .bs⟩

def copySamples : List Instr :=
  [.pcopy always copyCtl (dx 20) (x 2) (x 3) (x 4), .pcopy2 always copyCtl (dx 20) (x 2) (x 3) (x 6),
   .pgath always { copyCtl with esz := 2 } (dx 20) (x 2) (x 3) (v 0), .pscat always { copyCtl with esz := 2 } (dx 20) (x 2) (x 3) (v 0)]

/-- All 64 slots of the group hold failures that nothing has read. -/
def allFailed : State :=
  let o (k : Nat) : PorterOp :=
    { newOp (copySamples.headD (.nop always)) copying copying workGroup workPath k .bs .vm [] none none none with state := .faulted }
  { copying with porterOps := (List.range 64).map fun k => (100 + k, o k) }

/-- The fault of a copy's runs. -/
def segsFault (u : State) (g : Group) (e : PCtl × Dst × Src × Src × List PSeg) : Option LaneErr :=
  segsErr u g e.1.dsp e.1.ssp (scalarAt g e.2.2.1 0) (scalarAt g e.2.2.2.1 0) e.2.2.2.2

theorem witness_copies :
    copySamples.all (fun i => meets i copying fun u g p act => (copyOf i g act).any fun e =>
      decide (segsFault u g e = none) && decide (counterErr u g e.1 = none) && freeOpSlot u 3 == some 0 &&
        !dispatcherFull u (dieOf ⟨3, g, p, act, i⟩)) = true ∧
    (meets (.pcopy always copyCtl (dx 20) (x 2) (x 3) (x 7)) copying fun _ g _ act =>
      (copyOf (.pcopy always copyCtl (dx 20) (x 2) (x 3) (x 7)) g act).any fun e => (transfersOf e.2.2.2.2).length == 0) = true ∧
    (meets (.pcopy always copyCtl (dx 20) (x 2) (x 3) (x 4)) copying fun _ g _ act =>
      (copyOf (.pcopy always copyCtl (dx 20) (x 2) (x 3) (x 4)) g act).any fun e => (transfersOf e.2.2.2.2).length != 0) = true ∧
    (meets (.pcopy always copyCtl (dx 20) (x 2) (x 3) (x 4)) allFailed fun u _ _ _ =>
      (freeOpSlot u 3).isNone && slotsFailed u 3) = true ∧
    (meets (.pgath always ⟨2, 0, false, false, .vm, .rg⟩ (dx 20) (v 4) (x 3) (v 0)) copying fun u g _ act =>
      let l : List PSeg := (ranked act).map fun e => ⟨4 * e.2, endAdd (scalarAt g (x 3) 0) ((vGet g 0 e.1).toNat * 4 : Nat), 4⟩
      decide (segsErr u g .rg .vm 0 (scalarAt g (x 3) 0) l = none) && freeOpSlot u 3 == some 0 && transfersOf l != []) = true ∧
    [Instr.pcopy always copyCtl (dx 20) (x 3) (x 3) (x 4), .pcopy always { copyCtl with cidx := 0x200 } (dx 20) (x 2) (x 3) (x 4)].all (fun i =>
      meets i copying fun u g _ act => (copyOf i g act).any fun e =>
        ((segsFault u g e).or (counterErr u g e.1)).isSome) = true := by decide +kernel

/-- An operation of the group in slot 0 in a state of its, whose ticket stands in s5. -/
def withOp (k : PState) (unacked : List Nat := []) : State :=
  let s := withS [(5, 7), (6, 0x8000000000000001), (7, 0x100000000)]
  { s with porterOps := [(100, { newOp (.nop always) s s workGroup workPath 0 .bs .vm [⟨0, 0, 4⟩] none none none with
      state := k, seq := 7, count := 1, unacked := unacked })] }

/-- The instructions that read a ticket, and those of every operation of the group. -/
def ticketSamples : List Instr :=
  [.pwait always .blk (dx 20) (some (x 5)), .pyield always .blk (some (x 5)) 0 1, .pstat always false (dx 20) (x 5),
    .pstat always true (dx 20) (x 5), .pcancel always (dx 20) (some (x 5))]
def allSamples : List Instr := [.pwait always .blk (dx 20) none, .pyield always .blk none 0 1, .pcancel always (dx 20) none]

theorem witness_porterStatus :
    (ticketSamples ++ allSamples).all (fun i => meets i (withOp .faulted) && meets i (withOp .running) && meets i work) = true ∧
    (slotsOf work 3 = [] ∧ ((slotsOf (withOp .faulted) 3) != [] && (slotsOf (withOp .faulted) 3).all fun e => !opActive e.2) = true ∧
      (slotsOf (withOp .running) 3).any (fun e => opActive e.2) = true) ∧
    (match ticketOp (withOp .faulted) 3 7 with | .op _ o => !opActive o | _ => false) = true ∧
    (match ticketOp (withOp .running) 3 7 with
      | .op id o => opActive o && (tblFind (cancelOp (withOp .running) id o).porterOps id).isNone
      | _ => false) = true ∧
    (match ticketOp (withOp .running [0]) 3 7 with
      | .op id o => opActive o && (tblFind (cancelOp (withOp .running [0]) id o).porterOps id).isSome
      | _ => false) = true ∧
    (match ticketOp work 3 0x8000000000000001 with | .refused => true | _ => false) = true ∧
    (match ticketOp work 3 0x100000000 with | .finished => true | _ => false) = true := by decide +kernel

/-- A counter word that a copy would add to is poisoned. -/
theorem witness_poisonedCounter :
    (let s := { work with blocks := tblMap work.blocks fun _ k => { k with poison := [2] } }
     addPoisoned s 2 false 8 (senderOf s 1) 7 = true ∧ addPoisoned work 2 false 8 (senderOf work 1) 7 = false) := by decide +kernel

/-- Every operation is cancelled at once, or one has a transfer under way; and a path that has its answer. -/
theorem witness_porterAnswers :
    (let all (s : State) : State := (slotsOf s 3).foldl (fun v e => cancelOp v e.1 e.2) s
     cancelling (all (withOp .running)) 3 = false ∧ cancelling (all (withOp .running [0])) 3 = true) ∧
    (let s := withGroup fun g => { g with paths := g.paths.map fun p => { p with await := some (.answer 3) } }
     (turnPath s).await = some (.answer 3) ∧ turnAct (.pwait always .blk (dx 20) none) s ≠ 0) := by decide +kernel

/-- The counter at offset 8 has reached its target. -/
def counted : State :=
  let s := withS [(4, 8), (5, 3), (6, 12)]
  setArrival (scratchWrite s 2 false 8 (bytesOfNat 8 3)) 2 false 8 { arrival s 2 false 8 with target := some 3, armed := true }

theorem witness_fabric :
    (meets (.arrset always false (x 4) (x 5)) counted fun u g _ _ => scalarAt g (x 4) 0 == 8 && 16 ≤ scratchSize u g.block false &&
      monitorRoom u g.block false 8) = true ∧
    (let s := withGroup fun g => { g with paths := g.paths.map fun p => { p with await := some (.arrival false 8 (some 3)) } }
     (turnPath s).await = some (.arrival false 8 (some 3)) ∧ turnAct (.arrwait always false .die (dx 20) (x 4)) s ≠ 0) ∧
    (meets (.arrwait always false .die (dx 20) (x 4)) counted fun u g _ _ => scalarAt g (x 4) 0 == 8 &&
      16 ≤ scratchSize u g.block false && (arrival u g.block false 8).target == some 3 &&
        natOfBytes (scratchRead u g.block false 8 8) % 2 ^ 63 == 3) = true ∧
    (meets (.arrset always false (x 6) (x 5)) counted fun _ g _ _ => scalarAt g (x 6) 0 % 8 != 0) = true ∧
    (meets (.fxfer always .vm true 31 (dx 20) (x 8)) copying fun u g p act => act.getLsbD 31 &&
      (endpointOf u (ctxOf u g) (scalarAt g (x 8) 2 / 2 ^ 32 % 2 ^ 16)).any (fun e =>
        (fabricPort u (ctxOf u g) e.pkg.toNat).isSome) && decide (endpointErr u g .vm (scalarAt g (x 8) 0) 0x40 .porterRead = none) &&
        scalarAt g (x 8) 3 % 8 == 0 && freeOpSlot u 3 == some 0 && !dispatcherFull u (dieOf ⟨3, g, p, act, .nop always⟩) &&
        transfersOf [⟨scalarAt g (x 8) 1, scalarAt g (x 8) 0, 0x40⟩] != []) = true ∧
    (meets (.fatom always .add .u64 0 (dx 20) (x 8)) copying fun u g _ act => act.getLsbD 0 && sourcesOpen u (ctxOf u g) &&
      (endpointOf u (ctxOf u g) (scalarAt g (x 8) 2 / 2 ^ 32 % 2 ^ 16)).any fun e =>
        (fabricPort u (ctxOf u g) e.pkg.toNat).isSome) = true ∧
    (meets (.fxfer always .vm false 0 (dx 20) (x 12)) copying fun u g _ act => act.getLsbD 0 &&
      (endpointOf u (ctxOf u g) (scalarAt g (x 12) 2 / 2 ^ 32 % 2 ^ 16)).isNone) = true := by decide +kernel

/-! ### Witnesses: the array -/

/-- The package with scratchpad and loft offsets in s4 to s8, and quadrant 0 changed. -/
def arrayed (f : Quad → Quad := fun x => x) : State :=
  let s := withS [(4, 1024), (5, 2048), (6, 64), (7, 16384), (8, 4)]
  updQuad s 0 f

def mmaSamples : List (Instr × Word) :=
  [(.mmaq always (dv 0) (v 32) (.reg (x 5)) none (some 7), 0), (.mmaqw always (dv 0) (v 32) (.imm 0xF800) (some 0) none, 0x28),
   (.mmaqi always false true (dv 0) (v 32) (.reg (x 5)), 0xA4)]

theorem witness_arrayResults :
    (meets (.mres always 1) (arrayed fun x => { x with holder := none }) fun u _ _ _ => (quadOf u 0).holder.isNone) = true ∧
    (meets (.mrel always) (arrayed) fun u g _ _ => (quadOf u 0).holder == some g.block && !arrayBusy u 0 g.block) = true ∧
    (meets (.mrel always) (arrayed fun x => { x with holder := none })) = true ∧
    (meets (.mrel always) (arrayed fun x => { x with tests := [⟨3, 9, 20, 1⟩] }) fun u g _ _ =>
      (quadOf u 0).holder == some g.block && arrayBusy u 0 g.block) = true ∧
    (meets (.mfence always) (arrayed) fun u _ p _ => !fillsOf (quadOf u 0) 3 p.lanes && u.producers.isEmpty) = true ∧
    (meets (.mwait always .blk) (arrayed) fun u g p _ => !matrixOf (quadOf u 0) 3 p.lanes && g.reports.isEmpty) = true ∧
    meets (.mstat always (dx 20)) (arrayed) = true ∧
    (meets (.mselft always (dx 20)) (arrayed) fun u g _ _ =>
      (quadOf u 0).holder == some g.block && !(quadOf u 0).releasing) = true := by decide +kernel

/-- A path that waits in MREL, and that path when it has its answer. -/
theorem witness_release :
    (let s := updQuad (withGroup fun g => { g with paths := g.paths.map fun p =>
        { p with await := some .array, word := (encode (.mrel always)).getD 0 } }) 0 fun x => { x with releasing := true }
     (quadOf s 0).holder = some 2 ∧ (quadOf s 0).releasing = true ∧ arrayBusy s 0 2 = false ∧
       (tblFind s.groups 3).any (fun g => g.block == 2 && g.quad == 0 && g.paths.any inMrel) = true ∧
       arrayBusy (updQuad s 0 fun x => { x with tests := [⟨3, 9, 20, 1⟩] }) 0 2 = true) ∧
    (let s := withGroup fun g => { g with paths := g.paths.map fun p => { p with await := some (.answer 0) } }
     (turnPath s).await = some (.answer 0) ∧ turnAct (.mrel always) s ≠ 0) := by decide +kernel

theorem witness_arrayFills :
    (meets (.mldb always false (x 4) (x 5) (x 6)) (arrayed) fun u g p act =>
      1024 + 64 ≤ scratchSize u g.block false && 2048 + 64 ≤ windowHere ⟨3, g, p, act, .nop always⟩ u) = true ∧
    (meets (.mldbR always (v 32) (x 5)) (arrayed) fun u g p act => 2048 + 2048 ≤ windowHere ⟨3, g, p, act, .nop always⟩ u) = true ∧
    (meets (.mlda always true (dv 16) ⟨x 4, .off 0⟩) (arrayed) fun u g p act => (laneList act).all fun l =>
      (memAddr g p ⟨x 4, .off 0⟩ l).toNat % 4 == 0 && (memAddr g p ⟨x 4, .off 0⟩ l).toNat + 64 ≤ scratchSize u g.block true) = true ∧
    [(false, 1), (true, 2)].all (fun e => meets (.mldt always false 0 e.1 (dv 16) ⟨x 8, .off 0⟩) (arrayed) fun u g _ _ =>
      4 + (64 / e.2 - 1) * pitchOf 0 e.2 + 32 * e.2 ≤ scratchSize u g.block false) = true := by decide +kernel

theorem witness_matrixResults : mmaSamples.all (fun e =>
    let s := withGroup fun g => { g with
      s := (tblPut g.s 5 2048), paths := g.paths.map fun p => { p with fmt := e.2 } }
    meets e.1 s fun u g p act => (mmaOf e.1).any fun (k, _, _, b, _, _) =>
      let qs := quartersOf g act b
      snapOk k p.fmt && (quadOf u 0).queue.length + qs.length ≤ 64 && (quadOf u 0).holder == some g.block && !(quadOf u 0).releasing && healthy (quadOf u 0) != 0 &&
        qs != [] && qs.all fun q => q.2 % 2048 == 0 && q.2 + 2048 ≤ windowHere ⟨3, g, p, act, e.1⟩ u) = true := by decide +kernel

theorem witness_quarterWrites :
    let o (k : QKind) (w : Word) : QOp := ⟨3, 0, 0, 0xFF, 64, 0, k, w, 8, none, none, 0, allLanes, 0⟩
    (tblFind work.groups 3).isSome = true ∧ (windowOf work 2 0).isSome = true ∧
    [o .f 0, o .w 0x28, o .w 0x30, o (.i false true) 0xA4].all (fun o => (List.range 32).all fun n =>
      (slotReads o).all fun r => !loftPoisoned work 0 (0 + o.tile + 64 * n + r.1) r.2) = true := by decide +kernel

def factorSamples : List Instr :=
  [.tlu always true (x 7) 3, .tchol always (x 9) 63, .tqr always (x 7) 0, .ttrs always true false true (x 9) (x 7) 3 1,
   .tperm always true (x 7) 1 1, .tqapp always true (x 9) (x 7) 3 1, .tnorm always .one (dx 20) (x 7) 3 1]

/-- Lanes' tile operands: s7 and s9 name two tiles, and `perm` exchanges two rows. -/
def tiled (f : Group → Group := fun g => g) : State :=
  withGroup fun g => f { g with s := tblPut g.s 7 32768, perm := [1, 0] }

theorem witness_factorResults :
    factorSamples.all (fun i => meets i (tiled) fun u g p act => (factorOf i g u).any fun (_, ts, own, _, _) =>
      own.isNone && !factorFlying ⟨3, g, p, act, i⟩ u && (quadOf u 0).facts.length < 16 && decide (arrayErr ⟨3, g, p, act, i⟩ u = none) &&
        decide (tileErr ⟨3, g, p, act, i⟩ u ts = none)) = true ∧
    [Instr.ttrs always true false true (x 7) (x 7) 3 1, .tqapp always true (x 9) (x 9) 3 1, .tperm always true (x 7) 2 1].all (fun i =>
      meets i (tiled) fun u g p act => (factorOf i g u).any fun (_, ts, own, _, _) => own.isSome &&
        !factorFlying ⟨3, g, p, act, i⟩ u && decide (arrayErr ⟨3, g, p, act, i⟩ u = none) &&
          decide (tileErr ⟨3, g, p, act, i⟩ u ts = none)) = true := by decide +kernel

theorem witness_tileState :
    (let s := tiled fun g => { g with tstate := 0x98204180 }
     meets (.tres always true) s fun u g p act => !factorFlying ⟨3, g, p, act, .nop always⟩ u &&
       decide (arrayErr ⟨3, g, p, act, .nop always⟩ u = none) && bits g.tstate.toNat 31 30 == 2 &&
         decide (tstateNext g.tstate < bits g.tstate.toNat 12 7 + 1) &&
           decide (tileErr ⟨3, g, p, act, .nop always⟩ u [(BitVec.ofNat 64 (bits g.tstate.toNat 25 20 * 16384), 0)] = none)) = true ∧
    (let s := tiled fun g => { g with tstate := 0xF0206180 }
     meets (.tres always false) s fun u g p act => bits g.tstate.toNat 31 30 == 3 && bits g.tstate.toNat 29 28 == 3 && decide (tstateNext g.tstate = 3) &&
       decide (tileErr ⟨3, g, p, act, .nop always⟩ u [(BitVec.ofNat 64 (bits g.tstate.toNat 25 20 * 16384), 256)] = none)) = true ∧
    meets (.tstat always none (dx 20)) (tiled) = true ∧
    (meets (.tstat always (some .die) (dx 20)) (tiled) fun u g _ _ => (quadOf u 0).facts.isEmpty && g.reports.isEmpty) = true := by
  decide +kernel

theorem witness_permutedRows :
    (List.replicate 4160 (0 : Word)).toArray.size = 4160 ∧ permOk? [63, 0, 1] 0 = true ∧ permOk? [1, 0] 2 = true := by
  decide +kernel

/-! ### Witnesses: collectives and relay -/

/-- Words stored in memory: (address, bytes, value). -/
def stored (l : List (Nat × Nat × Nat)) (s : State) : State :=
  l.foldl (fun s e => { s with mem := memWrite s.mem e.1 (bytesOfNat e.2.1 e.2.2) }) s

/-- A barrier object of target 1 at 0x300080 (s6); an alias window at 0x40000000 (s4), its descriptor at 0x310000 (s5)
and its member table at 0x311000; an endpoint's entry at 0x312000 (s7), its number in s8. -/
def collective : State :=
  stored [(0x300080, 8, 1), (0x300088, 8, 1), (0x12008, 8, 0x13001), (0x13000, 8, 0x1200000000AF),
      (0x310000, 4, 77), (0x310004, 4, 0x05050001), (0x310008, 2, 1), (0x31000C, 4, 0x00010001), (0x310010, 4, 4096),
      (0x310014, 4, 0xFFFFFFFF), (0x310028, 8, 0x311000), (0x311000, 8, 3), (0x312000, 8, 0x8000000000010005)]
    { withS [(4, 0x40000000), (5, 0x310000), (6, 0x300080), (7, 0x312000), (8, 3), (9, 4)] with
        programs := [⟨1, 0, false, [0xF]⟩] }

/-- A binding of a window. -/
def collectiveBinding : Binding :=
  ⟨1, 77, 1, 0, 5, 5, 1, 0, ⟨1, 0, false, [0xF]⟩, 0, true, 8, none, 0x300000, 0, [0], 9, false, 0, 1, 2, 0, [], [], false, [], []⟩

/-- The same of a deterministic grid. -/
def collectiveDet : State :=
  { collective with
    grids := tblMap collective.grids fun _ g => { g with hdr := { g.hdr with det := true } }
    mem := memWrite collective.mem 0x310004 (bytesOfNat 4 3) }

theorem witness_barrierObjects :
    (meets (.boarm always false ⟨0, .sys, .rel, .b64⟩ (dx 8) (at0 (x 6))) collective fun u g p act =>
      let c : Ins := ⟨3, g, p, act, .nop always⟩
      let u := release u g .sys
      !releaseHeld u g .sys && !heldRequest u (dieOf c) 1 0x300080 true && match boRead c u 0x300080 with
      | .ok (v, bs) => okVm (l2Write v (whoOf v g) 0x300080 (barObjBytes bs { barObj bs with target := 3 }) .load true)
      | .error _ => false) = true ∧
    [Instr.bowait always ⟨0, .sys, .plain, .b64⟩ (dx 20) (at0 (x 6)), .botest always ⟨0, .sys, .plain, .b64⟩ (dx 20) (at0 (x 6))].all
      (fun i => meets i collective fun u g p act => !heldRequest u 0 1 0x300080 false &&
        match boRead ⟨3, g, p, act, i⟩ u 0x300080 with
        | .ok (_, bs) => boComplete (barObj bs)
        | .error _ => false) = true ∧
    (meets (.botest always ⟨0, .sys, .plain, .b64⟩ (dx 20) (at0 (x 6))) (stored [(0x300088, 8, 0)] collective) fun u g p act =>
      match boRead ⟨3, g, p, act, .nop always⟩ u 0x300080 with
      | .ok (_, bs) => !boComplete (barObj bs) && !(barObj bs).failed
      | .error _ => false) = true := by decide +kernel

/-- What a bind finds: its status, the bindings there are then, and none of a trap of class 0x10. -/
def boundAt (u : State) (g : Group) (p : Path) (act : Lanes) : Option (Nat × Nat) :=
  let t : State := { drainGroup u g with arrived := [] }
  match bindRead t (whoOf t g) 0x310000 with
  | .ok (v, bs, tb) =>
    match bindWindow ⟨3, g, p, act, .nop always⟩ { v with ios := tblDel v.ios t.fresh } 0x40000000 bs tb with
    | .status n w => some (n, w.bindings.length)
    | .det => none
  | .error _ => some (99, 0)

theorem witness_collectiveWindows :
    (meets (.cwinBind always (dx 20) (x 4) (x 5)) collective fun u g p act => !drainHeld u (ownStore u g) &&
      (freeWindow (drainGroup u g) (whoOf u g) 0x40000000).isSome && boundAt u g p act == some (0, 1)) = true ∧
    (meets (.cwinBind always (dx 20) (x 4) (x 5)) collectiveDet fun u g p act => boundAt u g p act == none) = true ∧
    (meets (.cwinBind always (dx 20) (x 9) (x 5)) collective fun u g _ _ =>
      (freeWindow (drainGroup u g) (whoOf u g) 4).isNone && (windowAt (drainGroup u g) (whoOf u g) 4).isNone) = true ∧
    (meets (.cwinUnbind always (dx 20) (x 4)) collective fun u g _ _ =>
      (windowAt (drainGroup u g) (whoOf u g) 0x40000000).any fun e => (tblFind e.1.bindings e.2).isNone &&
        (tblFind { e.1 with bindings := [(e.2, collectiveBinding)] }.bindings e.2).isSome) = true ∧
    meets (.cwinUnbind always (dx 20) (x 9)) collective = true := by decide +kernel

/-- The endpoint entry at 0x312000 as CWIN.ep reads it, with its first word changed. -/
def entryRead (w : Nat) (u : State) (g : Group) : Option (Option Endpoint) :=
  let t := { drainGroup (stored [(0x312000, 8, w)] u) g with arrived := [] }
  match vmRead t (whoOf t g) 0x312000 16 .load with
  | .ok (_, bs) => endpointEntry bs
  | .error _ => none

theorem witness_endpointsTraces :
    (meets (.cwinEp always (dx 20) (x 8) (x 7)) collective fun u g _ _ => !drainHeld u (ownStore u g) &&
      entryRead 0x8000000000010005 u g == some (some ⟨5, 1, 0⟩) && entryRead 0 u g == some none &&
        entryRead 0x8000000100010005 u g == none) = true ∧
    meets (.cwinEp always (dx 20) (x 7) (x 7)) collective = true ∧
    [Instr.cwinTrace always (dx 20) (x 6) (x 9), .cwinTrace always (dx 20) (x 20) (x 9), .cwinTrace always (dx 20) (x 8) (x 9)].all
      (meets · collective) = true ∧ canonical 0x300080 = true ∧ sGet (turnGroup collective) 20 = 0 ∧ (3 : Nat) % 64 ≠ 0 := by
  decide +kernel

/-- A binding of a sum over two members, and a packet of it. -/
def sumBinding : Binding :=
  ⟨1, 77, 1, 0, 5, 5, 2, 0, ⟨1, 0, false, [0xF]⟩, 0, true, 8, none, 0x300000, 0, [1, 1], 9, false, 0, 1, 2, 0, [], [], false, [], []⟩

def sumPacket (r : Nat) (checked : Bool) : Slot := ⟨1, 0, 77, r, r, 0, 0, 8, 96, 0, 1, r, bytesOfNat 8 r, checked, false⟩

/-- An instance that holds packets 0 and 1, checked, in slots 1024 and 1025, packet 1 unchecked in 1026, a result of
both in 1027, and whose match set has packet 0. -/
def relaying : State :=
  { work with
    ctxs := tblMap work.ctxs fun _ c => { c with endpoints := [(3, ⟨5, 1, 0⟩)], trace := some ⟨0x320000, 4, 1, 0⟩ }
    routes := [(5, 2)], inst := 1, bindings := [(0x900000, sumBinding)]
    slots := [(1024, sumPacket 0 true), (1025, sumPacket 1 true), (1026, sumPacket 1 false), (1027, { sumPacket 0 true with rhi := 1 }),
      (1028, sumPacket 0 false)]
    instances := [(1, ⟨0, 77, 0, 0, ⟨1, 0, false, [0xF]⟩, 1,
      [(1, 0x80000400), (2, 0x80000401), (3, 0x80000402), (4, 0x80000403), (5, 3)], 0, [1024, 1025, 1026, 1027], [1028], 7, false, false⟩)] }

/-- That instance. -/
def relayRun : Instance := ((tblFind relaying.instances 1)).getD ⟨0, 0, 0, 0, ⟨0, 0, false, []⟩, 0, [], 0, [], [], 0, false, false⟩

theorem witness_runs : Runs relaying relayRun := ⟨by decide +kernel, by decide +kernel, by decide +kernel⟩

/-- The slot a register's handle names. -/
def slotAt (k : BitVec 4) : Option (Nat × Slot) := slotOf relaying relayRun (kGet relayRun k)

theorem witness_relayPackets :
    oldestPacket relaying relayRun (fun y => y.rlo = 0) = some 1028 ∧
    oldestPacket relaying relayRun (fun y => 127 = 127 || y.port = 0) = some 1028 ∧
    oldestPacket relaying relayRun (fun y => (96 : Nat) = 127 || y.port = 96) = some 1028 ∧
    (slotAt 1).map (·.1) = some 1024 ∧ (slotAt 1).any (fun y => y.2.checked && !y.2.ecc && slotFree relaying y.2.ctx) = true ∧
    ((tblFind relaying.ctxs relayRun.ctx).any fun c => c.state = .running) = true ∧
    endpointOf relaying relayRun.ctx 3 = some ⟨5, 1, 0⟩ ∧ (fabricPort relaying relayRun.ctx 5).isSome = true ∧
    ((List.range (Nat.min 1 64)).map fun j => (endpointOf relaying relayRun.ctx ((kGet relayRun 5).toNat + j)).filter fun e =>
      (fabricPort relaying relayRun.ctx e.pkg.toNat).isSome) = [some ⟨5, 1, 0⟩] := by decide +kernel

theorem witness_relayResults :
    (slotAt 1).any (fun y => !(ackSlot relaying y.1).keys.contains (keyOf y.2)) = true ∧
    (slotAt 1).any (fun y => (ackSlot { relaying with keys := [keyOf y.2] } y.1).keys.contains (keyOf y.2)) = true ∧
    sourcesOpen relaying relayRun.ctx = true ∧
    (members relaying 77).all (fun e => (bumpPlace relaying e.2).isNone) = true ∧
    (members { relaying with bindings := [(0x900000, { sumBinding with cntoff := some 8 })] } 77).any (fun e =>
      e.2.recv && (bumpPlace relaying e.2).any fun k => monitorRoom relaying k.1 true k.2) = true ∧
    ((tblFind relaying.ctxs relayRun.ctx).bind (·.trace)).isSome = true ∧
    ((tblFind work.ctxs relayRun.ctx).bind (·.trace)).isNone = true ∧ (slotAt 2).any (fun y => y.2.checked && !y.2.ecc && y.1 == 1025) = true ∧
    bindingFor relaying relayRun = some sumBinding ∧ sumBinding.kind = 1 ∧ pairOk 9 2 0 0 1 1 = true ∧
    (slotAt 4).any (fun y => y.2.checked && !y.2.ecc && y.2.rlo == 0 && decide (y.2.rhi + 1 = sumBinding.nmem) &&
      (members relaying 77).all (fun e => !emitHeld relaying y.2 e.2) &&
      (let r := emitAll y.2 (members relaying 77) relaying
       r.2 && (completeAll (members r.1 77) (consume r.1 1 y.1)).2.isNone)) = true := by decide +kernel

theorem witness_relayFaults :
    slotOf relaying relayRun (kGet relayRun 5) = none ∧ (slotAt 3).any (fun y => !y.2.checked) = true ∧
    tblFind (updInstance relaying 1 fun y => { y with count := 65536 }).instances 1 = some { relayRun with count := 65536 } ∧
    (match exec (.seqchk 6 1) relaying with | .next t => t.keys == [keyOf (sumPacket 0 true)] | _ => false) = true := by
  decide +kernel

theorem witness_combinedElements : (bytesOfNat 8 5).length = 4 * 2 ∧ (bytesOfNat 8 0).length = 4 * 2 := by decide

/-! ### Witnesses: traps, contexts -/

/-- The trap of the software class at lane 0. -/
def softTrap : Trap := ⟨allLanes, 0x11, 0, 5, allLanes, [], 0x10C, 0x10C, []⟩

/-- The grid has a handler at offset 0x140 of its image. -/
def handled (f : Group → Group := fun g => g) : State :=
  let s := withGroup f
  { s with grids := tblMap s.grids fun _ g => { g with hdr := { g.hdr with entries := [0x100, 0x140, 0, 0] } } }

theorem witness_trapResults :
    [Instr.trap always 5, .brk always 0xFFFF, .rte always .plain, .ckpt always true 0 4 0 2, .ckpt always false 62 2 60 4,
      .getflt always .fault (dv 8), .getflt always .pc (dx 6), .getflt always .gser (dx 6), .purse always .rem (dx 6) (x 9)].all
      (meets · work) = true ∧
    meets (.rte always (.to (x 4))) (withGroup fun g => { g with handler := true }) (fun _ g _ _ => g.handler) = true ∧
    (meets (.ckpt always true 0 4 0 2) work fun _ g _ _ => g.empty == []) = true ∧
    meets (.evwait always (dx 6) (x 4) (x 9)) (withS [(4, 1)]) (fun u g _ _ => queuedRecord u (ctxOf u g) 1 != some 1) = true ∧
    meets (.evwait always (dx 6) (x 4) (x 9)) (withS [(4, 1), (9, 5)]) (fun u g _ _ => queuedRecord u (ctxOf u g) 1 != some 1) = true ∧
    (let s := withGroup fun g => { g with paths := g.paths.map fun p => { p with await := some (.answer 1) } }
     (turnPath s).await = some (.answer 1) ∧ turnAct (.evwait always (dx 6) (x 4) (x 9)) s ≠ 0) := by decide +kernel

/-- The root's fault queue has had one record. -/
def oneRecord : State :=
  let s := withS [(4, 1)]
  let t := { s with ctxs := tblMap s.ctxs fun _ c => { c with fq := { c.fq with base := 0x330000, log2 := 4 } } }
  sendRecord t 1 (recordRec 9 0 1 0 0 0)

theorem witness_evwaitRecord :
    meets (.evwait always (dx 6) (x 4) (x 9)) oneRecord (fun u g _ _ => queuedRecord u (ctxOf u g) 1 == some 1) = true := by
  decide +kernel

theorem witness_handlerEntry :
    (tblFind (handled).groups 3).any (fun g => !g.handler && (gridOf (handled) g).any fun gr => gr.hdr.entries.getD 1 0 != 0) = true ∧
    (tblFind work.groups 3).any (fun g => (gridOf work g).any fun gr => gr.hdr.entries.getD 1 0 == 0) = true ∧
    (tblFind (handled fun g => { g with handler := true }).groups 3).any (·.handler) = true ∧
    softTrap.cls ≠ 0x13 ∧ softTrap.cls ≠ 0x0A ∧ softTrap.cls ≠ 0x12 := by decide +kernel

theorem witness_handlerReturn :
    let f : Frame := ⟨[workPath], [⟨0, 0, false, false, 0⟩], [], [], allLanes, 0x100, 0x0A, [5]⟩
    workPath ∈ f.paths ∧ workPath.lanes &&& workGroup.live ≠ 0 ∧ workPath.lanes = f.lanes ∧
    { workPath with lanes := 0xFF } ∈ { f with paths := [{ workPath with lanes := 0xFF }] }.paths ∧
    (0xFF : Lanes) ≠ f.lanes := by decide +kernel

/-- Two new children of the root, 2 with quadrant 5, both with purse, and scalar registers for requests. -/
def parented : State :=
  let s := withS [(4, 2), (5, 3), (6, 64), (7, 1), (8, 0x310000)]
  let k : Context := { newContext [] 1 1 [] with purse := 1000, granted := 1000, save := List.range 660, rights := 6, ceil := 4, gblog2 := 4 }
  { s with ctxs := tblPut (tblPut s.ctxs 2 k) 3 { k with save := (List.range 660).map (1000 + ·) }, quadHolder := [(5, 2)] }

def requestSamples : List Instr :=
  [.ctxgrantQuad always (dx 20) (x 4) (x 6) (x 7), .ctxgrantQueue always (dx 20) (x 4) (x 6) (x 7),
   .ctxgrantPort always (dx 20) (x 4) (x 6) (x 7), .ctxgrantRelay always (dx 20) (x 4) (x 6) (x 7), .ctxgrantPurse always (dx 20) (x 4) (x 6),
   .ctxgrantSave always (dx 20) (x 4) (x 6) (x 7), .ctxgrantRights always (dx 20) (x 4) (x 6) (x 7),
   .ctxmap always true (dx 20) (x 4) (x 6) (x 7) 0 true true, .ctxrevokeQuad always (dx 20) (x 4) (x 6) (x 7),
   .ctxrevokeQueue always (dx 20) (x 4) (x 6) (x 7), .ctxrevokePort always (dx 20) (x 4) (x 6) (x 7),
   .ctxrevokeRelay always (dx 20) (x 4) (x 6) (x 7), .ctxrevokePurse always (dx 20) (x 4) (x 6),
   .ctxrevokeFrame always (dx 20) (x 4) (x 6) (x 7), .ctxrevokeSave always (dx 20) (x 4) (x 6) (x 7),
   .ctxrevokeAll always (dx 20) (x 4), .ctxrun always (dx 20) (x 4) (x 6) 5, .ctxrefl always .kill (dx 20) (x 4) (x 6)]

theorem witness_requests :
    requestSamples.all (fun i => meets i parented (fun u g _ _ => !drainHeld u (ownStore u g)) && (contextRequest i).isSome) = true ∧
    (meets (.ctxnew always (dx 20) (x 8)) parented fun u g _ _ =>
      let t : State := { drainGroup u g with arrived := [] }
      okVm (vmRead t (whoOf t g) 0x310000 64 .load) && (tblFind t.ctxs (ctxOf t g)).isSome) = true ∧
    meets (.ctxqry always (dx 20) (x 4) (x 9) 0 2) parented = true ∧
    meets (.invlva always .asid true (dx 20) none none) parented = true := by decide +kernel

/-- Context 2 runs. -/
def childRuns : State := { parented with ctxs := tblUpd parented.ctxs 2 fun k => { k with state := .running } }

/-- Context 2 is stopped. -/
def childStopped : State := { parented with ctxs := tblUpd parented.ctxs 2 fun k => { k with state := .stopped } }

theorem witness_stops :
    (meets (.ctxstop always true false (dx 20) (x 4) 9) parented fun u g _ _ =>
      (childOf (drainGroup u g) (ctxOf u g) 2).any fun k => decide (k.state = .new)) = true ∧
    (meets (.ctxstop always false true (dx 20) (x 4) 9) childRuns fun u g _ _ =>
      (childOf (drainGroup u g) (ctxOf u g) 2).any fun k => decide (k.state = .running)) = true ∧
    (let s := { childStopped with groups := tblMap childStopped.groups fun _ g =>
        { g with paths := g.paths.map fun p => { p with await := some (.answer 2) } } }
     (issuing s).any (fun e => decide (e.2.await = some (.answer 2)) && actLanes e.1 e.2 (.ctxstop always false false (dx 20) (x 4) 9) != 0 &&
       !treeStopping (issuedAt (.ctxstop always false false (dx 20) (x 4) 9) s) 2)) = true ∧
    (meets (.ctxsw always (dx 20) (x 4) (x 5) (x 9) 7) childStopped fun u g _ _ =>
      let u := drainGroup u g
      (tblFind u.ctxs 1).any (bookFree u 1) && (childOf u 1 2).any (fun o => decide (o.state = .stopped)) &&
        (childOf u 1 3).any (fun n => decide (runRefusal u 3 n (quadsOf u 2) = none)) && !u.busy &&
        (subtree u 2).all fun e => e.1 == 2 || quadsOf u e.1 == []) = true := by decide +kernel

theorem witness_refusals :
    ((grantQuad parented 1 2 0 0xFF).word.toNat % 256 != 0) = true ∧ childOf parented 1 77 = none ∧
    (tblFind parented.ctxs 1).isSome = true ∧ requestSamples.all (fun i => (childNamed i).isSome) = true ∧
    (let s := withS [(4, 77), (5, 3)]
     [Instr.ctxstop always true false (dx 20) (x 4) 9, .ctxsw always (dx 20) (x 4) (x 5) (x 9) 7, .ctxsw always (dx 20) (x 5) (x 4) (x 9) 7].all
       (meets · s fun u g _ _ => !drainHeld u (ownStore u g) && (childOf (drainGroup u g) (ctxOf u g) 77).isNone)) = true := by
  decide +kernel

theorem witness_purseMoves :
    tblSortedFrom none parented.ctxs = true ∧ (childOf parented 1 2).isSome = true ∧
    (tblFind parented.ctxs 1).any (fun me => decide (((2 ^ 32 - 1 : Nat) : Int) < me.purse)) = true := by decide +kernel

theorem witness_resourceGrants :
    childOf parented 1 2 ≠ none ∧ maskItems 64 1 640 = some [64] ∧ (grantQuad parented 1 2 64 1).word = 0 ∧
    maskItems 639 1 640 = some [639] ∧ (grantQuad parented 1 2 639 1).word = 0 ∧
    (tblFind parented.ctxs 1).any (fun me => (childOf parented 1 2).any fun k =>
      k.rights &&& 7 &&& ~~~me.rights == 0 && decide (k.ceil ≤ me.ceil)) = true := by decide +kernel

/-! ### Witnesses: events -/

/-- The package with an input. -/
def given (x : Input) (f : State → State := fun s => s) : State := { f work with input := x }

theorem witness_memoryEvents :
    (let s : State := given (.storePerform 0) fun s => { s with sq := [⟨0, 1, 1, 0x300000, [⟨0x300004, 0x300004, 2, 9, [1, 2], 0x100, 0, false, false, []⟩]⟩] }
     (s.late.find? (fun (e : StoreEntry) => e.core = 0)).isNone && (s.sq.find? (fun (e : StoreEntry) => e.core = 0)).any (fun e => !heldRequest s (dieOfCore 0) e.asid e.va true) &&
       (s.sq.find? (fun (e : StoreEntry) => e.core = 0)).isSome) = true ∧
    heldRequest work 3 (asidOf 1 0x300000) (lineOf 0x300000) false = false ∧
    heldRequest work 0 (asidOf 1 0x300000) (lineOf 0x300000) true = false ∧
    okVm (l2Read (given (.directoryRead 3 1 0x300000)) ⟨1, 3, none, true⟩ 0x300000 .load) = true ∧
    okVm (l2Own (given (.directoryWrite 0 1 0x300000)) ⟨1, 0, none, true⟩ 0x300000 .store) = true ∧ work.mode ≠ 4 ∧ (1 : Nat) ≤ 1 ∧
    (tblFind work.ctxs 1).isSome = true ∧
    (let s := given (.directoryWriteBack 0 1 0x300000) fun s => { s with wb := [⟨0, 1, 0x300000, 0x300000, 7, heldLine.perm, 0, 0⟩] }
     (s.wb.find? (fun e => e.die = 0 && e.asid = 1 && e.va = lineOf 0x300000)).isSome) = true ∧
    (let s := { work with
       owners := [(5, ⟨.scrubbing, 2, 9⟩)]
       ctxs := tblMap work.ctxs fun _ c => { c with mapFrames := [8], map := [(7, ⟨.lent, true, true, 5⟩)] } }
     scrubbing s 5 = true ∧ revoker s 5 = some (1, 7) ∧
       ((tblFind s.ctxs 1).bind fun c => mapWordAt c 7) = some (8 * 2097152 + 56)) := by decide +kernel

/-- The package in which die 0 has read a line of the root's, and in which it owns it. -/
def lineRead : State := match l2Read work ⟨1, 0, none, true⟩ 0x300000 .load with | .ok (t, _) => t | .error _ => work
def lineOwned : State := match l2Own work ⟨1, 0, none, true⟩ 0x300000 .store with | .ok (t, l) => l2Set! t { l with st := .m } | .error _ => work

theorem witness_checkedReads :
    regionOf work 0x00BFFFFFFFFF = .stack ∧ regionOf { work with secondTier := 4 } 0x0800007FFFFF = .tier ∧
    l1Find { work with l1 := [heldLine] } 0 1 (asidOf 1 0x300080) (lineOf 0x300080) = some heldLine ∧
    (l2Find lineRead 0 1 0x300000).any (fun l => l.st != .m && l.st != .o && okVm (l2Read (l2Evict lineRead l) ⟨1, 0, none, true⟩ 0x300000 .load)) = true ∧
    (l2Find lineOwned 0 1 0x300000).any (fun l => l.st == .m) = true ∧
    (dirFind (match l2Read lineRead ⟨1, 3, none, true⟩ 0x300000 .load with | .ok (t, _) => t | .error _ => work) 1 0x300000).isSome = true ∧
    (tblFind work.blocks 2).isSome = true := by decide +kernel

theorem witness_groupEvents :
    (let r := startProducer work 3 [regKey .lane 5]
     let s := { r.1 with producers := tblUpd r.1.producers r.2 fun p => { p with ready := true } }
     (tblFind s.producers r.2).any (·.ready)) = true ∧
    (let s := given (.chunkGrant 0) fun s => { s with chunkQ := [(0, [(3, 1)])] }
     tblGet [] s.chunkQ 0 = [(3, 1)] ∧ chunkCount 1 ≤ poolFree s 0) ∧
    (match readCode work ⟨1, 0, some 0, true⟩ 0x300000 with
      | .ok (t, l, _) => lineParityOk (l ^^^ 0) && !lineParityOk (l ^^^ 1) &&
        match readCodeAgain t ⟨1, 0, some 0, true⟩ 0x300000 with
        | .ok (_, l2, _) => lineParityOk l2
        | .error _ => false
      | .error _ => false) = true ∧
    (⟨0, 0, false, false, 64⟩ : Split) ∈ { workGroup with splits := [⟨0, 0, false, false, 64⟩] }.splits ∧
    (let s := withGroup fun g => { g with live := 0 }
     (tblFind s.groups 3).any fun g => g.live == 0 && !groupBusy s 3) = true := by decide +kernel

/-- A pending command of the root's launch queue 9, and a grid that waits for a complete barrier object. -/
def commanded : State :=
  let s := stored [(0x300080, 8, 1), (0x300088, 8, 1)] work
  { s with
    queues := tblPut s.queues 9 { queueOf s 9 with base := 0x200000, log2 := 4, en := true, tail := 16 }
    grids := tblPut s.grids 5 { placedGrid with
      seq := 7, state := .accepted, ready := false, admitted := false, desc := { placedGrid.desc with depbo := 0x300080 } }
    inns := [(8, ⟨1, 0, 0x100, [], 50, some 100⟩)] }

theorem witness_distributor :
    (queueHolder commanded 9 == 1 && (tblFind commanded.ctxs 1).any (bookFree commanded 1) && queueLive commanded 1 9 &&
      decide (pendingIn commanded 9 ≤ 2 ^ (queueOf commanded 9).log2) && canonical (queueOf commanded 9).base &&
      queueTurn commanded 1 9 && okVm (engineReadLong commanded (whoEngine commanded 1) (headEntry commanded 9) .load 8)) = true ∧
    (pendingGrid commanded 5).any (fun e => !e.1.ready && !bit e.1.desc.dflags 0 &&
      match vmRead commanded (whoEngine commanded 1) e.1.desc.depbo 24 .load with
      | .ok (t, bs) => (tblFind t.opReads 5).isNone && !(barObj bs).failed && boComplete (barObj bs) &&
        okVm (vmRead { acquireDep t 5 e.1 with arrived := [] } (whoEngine t 1) 0x300090 8 .load)
      | .error _ => false) = true ∧
    (let s := updGrid (stored [(0x300094, 1, 1)] commanded) 5 fun g => { g with desc := { g.desc with dflags := 1, dimva := 0x300090 } }
     (pendingGrid s 5).any fun e => bit e.1.desc.dflags 0 && match vmRead s (whoEngine s 1) e.1.desc.depbo 24 .load with
      | .ok (_, bs) => (barObj bs).failed
      | .error _ => false) = true ∧
    (let s := updGrid commanded 5 fun g => { g with ready := true }
     (pendingGrid s 5).any fun e => decide (0 < e.2.purse) && decide ((e.1.desc.pmin : Int) ≤ e.2.purse) && e.1.ready &&
       !e.1.admitted && !unplaced s 1) = true ∧
    (let s := { commanded with blocks := [], groups := [], inns := [], grids := tblDel commanded.grids 5 }
     (tblFind s.grids 1).any (mayRetire s 1)) = true ∧
    sourcesOpen commanded 1 = true ∧ (tblFind commanded.inns 8).any (fun x => decide (x.timer = some 100) && decide (100 ≤ commanded.clock)) = true := by
  decide +kernel

/-- The root stops, with a block that drains; and with no block. -/
def stopping : State := { updCtx work 1 (fun c => { c with state := .stopping, stop := some ⟨5, 90, false⟩ }) with
  blocks := tblUpd work.blocks 2 fun b => { b with method := some .drain } }

theorem witness_cutEvents :
    (tblFind stopping.ctxs 1).any (fun c => decide (c.state = .stopping) && decide (c.stop = some ⟨5, 90, false⟩)) = true ∧
    drained (chooseAll stopping 1 ⟨5, 90, false⟩) 1 = false ∧
    (let s : State := { stopping with blocks := [], groups := [] }
     drained (chooseAll s 1 ⟨5, 90, false⟩) 1 = true) := by decide +kernel

theorem witness_stopEvents :
    (let s := updCtx work 1 fun c => { c with sliceEnd := some 100 }
     (tblFind s.ctxs 1).any fun c => decide (c.state = .running) && decide (c.sliceEnd = some 100) && decide (100 ≤ s.clock)) = true ∧
    (let s := { updCtx work 1 (fun c => { c with state := .stopping, stop := some ⟨5, 90, false⟩ }) with
       blocks := tblUpd work.blocks 2 fun b => { b with method := some .drain } }
     (tblFind s.ctxs 1).any (fun c => decide (c.state = .stopping) && c.stop.isSome) && (tblFind s.blocks 2).any fun b =>
       decide (b.method = some .drain) && decide (90 + 5 ≤ s.clock)) = true := by decide +kernel

/-- A packet from the endpoint (5, 1) to the root, and a flight of each kind. -/
def inPacket (k : PktKind) : Packet := ⟨k, 0x300000, 9, 77, 0, 0, 0, 1, 1, 5, 0, 0, 0, [1, 2, 3, 4]⟩
def flightFor (o : SentFor) (n : Nat := 0) : Flight := ⟨1, 4, inPacket .fxfer, false, none, o, n, 100⟩

/-- An operation of the group, of one transfer within its block's scratchpad. -/
def oneCopy : PorterOp := { newOp (.nop always) work work workGroup workPath 0 .bs .bs [⟨0, 64, 8⟩] none none none with
  state := .running, seq := 7, count := 1 }

/-- The package with an endpoint, an operation, a flight, and a sent stage. -/
def fabricWith (o : PorterOp) (f : Flight) : State :=
  { work with
    ctxs := tblMap work.ctxs fun _ c => { c with endpoints := [(3, ⟨5, 1, 0⟩)] }, routes := [(5, 4)]
    porterOps := [(100, o)], flights := [f]
    bindings := [(0x900000, { sumBinding with stages := [⟨0, 0, bytesOfNat 8 0, [0, 1], true, false, 3⟩] })] }

def fabricWork : State := { fabricWith oneCopy (flightFor (.fatom 3 1 4)) with porters := [(0, 100)] }

/-- The next transfer of an operation can be read and written, and its group is there; the operations: a plain one,
with a counter, to another package, and into a register. -/
def transferable (o : PorterOp) : Bool :=
  let s := fabricWith o (flightFor (.fatom 3 1 4))
  let l := if o.reg.isSome then o.segs else (transfersOf o.segs).getD o.next []
  decide (o.next < o.count) && engineOpen s o.ctx o.block && !transferWaits s o && (hostReads s 100 o l).isEmpty &&
    match readRuns 100 o l s with
    | .error _ => false
    | .ok (v, bs) =>
      let r := writePieces 100 o (piecesOf (BitVec.ofNat 64 (transferLo l)) (transferBytes l)) (transferImage l bs) v
      r.2.isNone && (tblFind r.1.groups o.gid).isSome

theorem witness_transfersWritten :
    [oneCopy, { oneCopy with counter := some (false, 8) }, { oneCopy with remote := some ⟨5, 1, 0, some 8, 4⟩ },
      { oneCopy with dsp := .rg, reg := some (9, 1, allLanes) }].all transferable = true := by decide +kernel

theorem witness_porterEvents :
    (let s (o : PorterOp) : State := fabricWith { o with state := .queued } (flightFor (.fatom 3 1 4))
     nextOp (s oneCopy) 0 = some (100, { oneCopy with state := .queued }) ∧ tblFind (s oneCopy).porters 11 = none ∧
       (nextOp (s { oneCopy with counter := some (true, 8), unacked := [0] }) 0).any (fun e => e.2.unacked != []) ∧
       (nextOp (s { oneCopy with remote := some ⟨5, 1, 0, none, 4⟩ }) 0).any fun e => e.2.remote.isSome) ∧
    (7 - oneCopy.seq : BitVec 32).toNat ∈ { oneCopy with unacked := [0] }.unacked ∧ oneCopy.slot ≠ 64 ∧
    (let s := fabricWith { oneCopy with unacked := [2], remote := some ⟨5, 1, 0, none, 4⟩ } (flightFor (.xfer 100 2))
     (flightOf s 1 9).any (fun f => decide (f.owner = .xfer 100 2) && (tblFind (dropFlight (progress s f) 1 9).porterOps 100).any fun o =>
       o.unacked.contains (9 - o.seq : BitVec 32).toNat)) = true ∧
    (flightOf (fabricWith oneCopy (flightFor (.slot 1 5))) 1 9).any (fun f => decide (f.owner = .slot 1 5)) = true ∧
    (let o := { oneCopy with next := 1 }
     opActive o = true ∧ o.count ≤ o.next ∧ o.unacked = [] ∧ o.cancel = false ∧ { o with cancel := true }.cancel = true) := by
  decide +kernel

theorem witness_admits : Admits fabricWork 4 (inPacket .fxfer) ((tblFind fabricWork.ctxs 1).getD (rootContext work.firmware.boot)) ∧
    Admits fabricWork 4 (inPacket .result) ((tblFind fabricWork.ctxs 1).getD (rootContext work.firmware.boot)) :=
  ⟨⟨by decide +kernel, by decide +kernel, by decide +kernel, by decide +kernel, by decide +kernel, by decide +kernel, by decide +kernel⟩,
    by decide +kernel, by decide +kernel, by decide +kernel, by decide +kernel, by decide +kernel, by decide +kernel, by decide +kernel⟩

theorem witness_packets :
    (let s := fabricWork
     let p := inPacket .fxfer
     let w := packetWho s 4 p
     packetHeld s w p.addr 4 = false ∧
     (match vmWrite s w p.addr p.payload .porterWrite with | .ok _ => true | .error _ => false) = true ∧
     remoteBlock s 1 0 8 = some 2 ∧ (arrival s 2 true 8).seen.contains (5 * 2 ^ 16 + 1, 9) = false ∧ monitorRoom s 2 true 8 = true ∧
     (let t := setArrival s 2 true 8 { arrival s 2 true 8 with seen := [(5 * 2 ^ 16 + 1, 9)] }
      remoteBlock t 1 0 8 = some 2 ∧ (arrival t 2 true 8).seen.contains (5 * 2 ^ 16 + 1, 9) = true)) ∧
    (localSender fabricWork (5 * 2 ^ 16 + 1) = false ∧ creditFree fabricWork 2 true 8 = true ∧ (5 : BitVec 12) ≠ fabricWork.ownPkg) ∧
    (let s := fabricWork
     let p := inPacket .fatomReq
     let w := packetWho s 4 p
     s.answered = [] ∧ p.addr.toNat % fatomSize .u32 = 0 ∧ s.remoteAtoms = [] ∧
     (match l2ReadBytes s w p.addr (fatomSize .u32) .atomic with
      | .ok (t, bs, poison) => !poison &&
        match l2Write (atomHears t w p.addr 4) w p.addr (bytesOfNat 4 (atomNew .add .u32 32 (natOfBytes bs) 3)) .atomic true with
        | .ok _ => true
        | .error _ => false
      | .error _ => false) = true) := by decide +kernel

theorem witness_packetBytes : (inPacket .fxfer).payload.length < 4096 ∧ 7 ≤ (9 : BitVec 4).toNat := by decide

/-- The header's fields by the table of 14 R345: KIND in byte 12, LEN from bit 124, SPKG from bit 148, DCTX and SCTX
in bytes 20 and 22, CID, SEQ and ADDR in bytes 32, 36 and 40. -/
theorem test_packetHeader : packetBytes (inPacket .fxfer) =
    [0, 0, 0, 0, 0, 0, 0, 0, 0, 0, 0, 0, 3, 0, 0, 0x40, 0, 0, 0x50, 0, 1, 0, 1, 0] ++
      [0, 0, 0, 0, 0, 0, 0, 0, 0x4D, 0, 0, 0, 9, 0, 0, 0, 0, 0, 0x30, 0, 0, 0, 0, 0] ++ [1, 2, 3, 4] := by decide +kernel

theorem witness_answers :
    (let s := (startProducer fabricWork 3 [regKey .scalar 4]).1
     s.busy = false ∧ ctxStopped s 1 = false ∧ (flightOf s 1 9).any (fun f => match f.owner with | .fatom _ k _ => k == 1 | _ => false) = true) ∧
    (let s := { fabricWith oneCopy (flightFor (.fatom 3 1 4)) with producers := [(1, ⟨3, [], [], [], false⟩)] }
     (flightOf s 1 9).any (fun f => (tblFind (dropFlight s f.ctx f.p.seq).producers 1).isSome) = true) ∧
    (let s := fabricWith oneCopy (flightFor (.xfer 100 0))
     (flightOf s 1 9).any (fun f => (tblFind (dropFlight s f.ctx f.p.seq).porterOps 100).any opActive) = true) ∧
    (let s := { relaying with flights := [flightFor (.slot 1 1024)] }
     (flightOf s 1 9).any (fun f => (tblFind (dropFlight s f.ctx f.p.seq).instances 1).isSome) = true) ∧
    (flightOf fabricWork 1 9).any (fun f => !pathDead fabricWork f) = true ∧ sourcesOpen fabricWork 1 = true ∧
    pathDead fabricWork (flightFor (.fatom 3 1 4) 64) = true := by decide +kernel

/-- What becomes of a stage's chunk, and of a packet, at engine 0. -/
def chunkArrives (s : State) : Option Arrived :=
  (nextContribution s 0 96).map fun e => (engineArrive s (stageSlot s e.2.1 e.2.2 false) true).2
def packetArrives (s : State) (room : Bool) : Arrived := (engineArrive s (packetSlot s 0 4 (inPacket .result) false) room).2

theorem witness_chunks :
    chunkArrives fabricWork = some .taken ∧
    chunkArrives { fabricWork with bindings := tblMap fabricWork.bindings fun _ b =>
      { b with stages := b.stages.map fun g => { g with epoch := 7 } } } = some .refused ∧
    engineServes fabricWork 0 = true ∧ ((members fabricWork 77).any fun e => e.2.engine = 0) = true ∧
    slotFree fabricWork 1 = true ∧ packetArrives fabricWork true = .taken ∧ packetArrives fabricWork false = .refused ∧
    packetArrives { fabricWork with keys := [keyOf (packetSlot fabricWork 0 4 (inPacket .result) false)] } true = .duplicate := by
  decide +kernel

/-- A quarter-op, and a factorisation, of the group. -/
def oneQuarter : QOp := ⟨3, 0, 0, 0xFF, 64, 0, .f, 0, 8, none, none, 0, allLanes, 90⟩
def oneFactor (k : FactKind) : FactOp := ⟨3, none, k, 0, 0, 1, 1, false, 80, 0, 1, []⟩
def quadWork (f : Quad → Quad) : State := updQuad work 0 f

theorem witness_passes :
    (readyPass (quadWork fun x => { x with queue := [oneQuarter] }) 0).any (fun e => e.1 == oneQuarter && e.2 == [oneQuarter]) = true ∧
    headFact (quadWork fun x => { x with queue := [oneQuarter] }) 0 = none ∧
    (quadOf (quadWork fun x => { x with pass := [oneQuarter], fenced := 2 }) 0).pass ≠ [] ∧
    (let x := quadOf (quadWork fun x => { x with pass := [oneQuarter], fenced := 2 }) 0
     x.fenced.getLsbD 0 = false ∧ x.fenced.getLsbD 1 = true) ∧
    (let s := quadWork fun x => { x with passes := 256 }
     testDue s 0 = true ∧ (quadOf s 0).fenced.getLsbD 3 = false) := by decide +kernel

theorem witness_quadEvents :
    (let f : Fill := ⟨3, 0, false, 1, .copy 0 0 4, 0, 1⟩
     let s := quadWork fun x => { x with fills := [f] }
     (quadOf s 0).fills = [f] ∧ scratchPoison s (blockIdOf s 3) false 0 4 = false ∧ (windowOf s (blockIdOf s 3) 0).isSome = true) ∧
    (let s := quadWork fun x => { x with facts := [oneFactor .lu], fenced := 2 }
     (quadOf s 0).facts = [oneFactor .lu] ∧ isFactor .lu = true ∧ groupOpen s 3 = true ∧ arrayFree s 0 (oneFactor .lu) = true ∧
     failedRow s 0 none = none ∧ failedRow s 0 (some 1) = none ∧ failedRow s 0 (some 3) = some 3 ∧
       headFact (loftEcc s 0 0 .corrected) 0 = some (oneFactor .lu) ∧ arrayFree (loftEcc s 0 0 .corrected) 0 (oneFactor .lu) = true) ∧
    (let s := { stopping with blocks := tblMap stopping.blocks fun _ b => { b with method := some .full } }
     groupOpen (updQuad s 0 fun x => { x with facts := [{ oneFactor .qr with started := true }] }) 3 = false) ∧
    (let s := quadWork fun x => { x with facts := [oneFactor (.qapp true)] }
     (headFact s 0).any fun o => !isFactor o.kind && arrayFree s 0 o) = true ∧
    (let s := updGroup (quadWork fun x => { x with facts := [oneFactor .lu] }) 3 fun g => { g with tstate := tstateCommit 0 1 0 }
     (headFact s 0).any fun o => (tblFind s.groups 3).any fun g => o.n ≤ tstateNext g.tstate) = true := by decide +kernel

/-- The copy, uncounted and with a counter of each scratchpad, and one whose destination ends where the space does. -/
theorem witness_transferBytes :
    [none, some (true, 0), some (false, 8)].all (fun k =>
      let s := fabricWith { oneCopy with counter := k } (flightFor (.fatom 3 1 4))
      (tblFind s.porterOps 100).any fun o => decide (o.ssp = .bs) && decide (o.dsp = .bs) && o.counter == k &&
        decide ((transfersOf o.segs)[0]? = some [⟨0, 64, 8⟩]) && (tblFind s.blocks o.block).any (fun b =>
          (sliceOf s b.grid b.die).isSome) && (tblFind s.groups o.gid).isSome && !scratchPoison s o.block false 64 8 &&
          !scratchPoison s o.block false 8 8 && (arrival s o.block true 0).target.isNone && (arrival s o.block false 8).target.isNone) = true ∧
    transfersOf [⟨1048568, 64, 8⟩] = [[⟨1048568, 64, 8⟩]] ∧ 1048568 + 8 ≤ 2 ^ 20 ∧ apart 8 8 0 8 := by
  refine ⟨by decide +kernel, by decide +kernel, by decide, .inr (by decide)⟩

/-- Firmware with an update that is verified. -/
def updating : State :=
  { work with firmware := { work.firmware with update := some 4, verifiedUpdate := some 4, banks := tblPut work.firmware.banks 9 (flashImage 4) } }

theorem witness_management :
    (State.reset.firmware.verified.length + 1 = 1 ∧ (tblFind State.reset.firmware.banks (2 * 1 + tblGet 0 State.reset.firmware.active 1)).filter
      (imageOk State.reset.firmware 1) = some (flashImage 1)) ∧
    (let s := { State.reset with firmware := { State.reset.firmware with revoked := 0xF } }
     [0, 1].all fun b => (tblFind s.firmware.banks (2 * 1 + b)).all fun x => !imageOk s.firmware 1 x) = true ∧
    (work.firmware.restart = false ∧ work.stage ≠ .rom ∧ work.stage ≠ .recovery) ∧ work.busy = false ∧
    work.firmware.update = none ∧ (tblFind { work with vfs := [(1, 1)] }.vfs 1) = some 1 ∧
    (sensor work 1).isSome = true ∧ (activeImage work.firmware 4).isSome = true ∧
    (tblFind updating.firmware.banks (2 * 4 + (1 - activeBank updating.firmware 4))).any (imageOk updating.firmware 4) = true ∧
    (work.firmware.update = none ∧ imageField (flashImage 4) 4 2 = 4 ∧ imageSvn (flashImage 4) = 0) ∧
    updating.firmware.verifiedUpdate = some 4 ∧ 32 ≤ (32 : Nat) ∧ 0 < counterHolders 32 ∧ State.reset.stage = .rom := by
  decide +kernel

theorem witness_bootMoves :
    (let s := { State.reset with stage := .engines }
     s.stage = .engines ∧ tblFind s.ctxs 1 = none ∧ (tblFind { work with stage := .engines }.ctxs 1).isSome = true) ∧
    (let s := { State.reset with newMode := some 4, busy := true }
     s.newMode = some 4 ∧ s.busy = true ∧ (s.ctxs.any fun e => ctxLive e.2) = false) := by decide +kernel

theorem witness_hostEvents :
    (tblFind { work with vfs := [(1, 7)] }.vfs 1 = some 7) ∧
    (requestOf { work with requests := [⟨3, 0, 0, 0, 4, some 9, 0⟩] } 3).isSome = true ∧ work.stage = .ready := by decide +kernel

/-- Each reset that management asks for, at the last instance of its kind and at the one after it. -/
theorem witness_resetsAsked :
    [Input.packageReset, .paoridReset, .zcDieReset 3 true, .coreReset 159, .quadrantReset 639, .porterReset 47, .relayEngineReset 99].all
      (fun x => (resetAsked (given x)).any (·.2.1)) = true ∧
    [Input.zcDieReset 4 true, .coreReset 160, .quadrantReset 640, .porterReset 48, .relayEngineReset 100, .contextReset 1, .contextReset 9].all
      (fun x => (resetAsked (given x)).any fun e => !e.2.1) = true ∧
    (resetAsked { parented with input := .contextReset 2 }).any (·.2.1) = true ∧ given (.zcDieReset 3 false) ≠ work := by
  decide +kernel

theorem witness_resets : tblFind fabricWork.porters 0 = some 100 ∧
    (tblFind fabricWork.porterOps 100).map (·.state) = some .running := by decide +kernel

/-! ### Witnesses: words and steps -/

/-- A placed word's turn: the state, its path's turn, and its line. -/
def placedTurn (w : Nat) : State := State.reset.withFetchWord 96 w

theorem witness_stepRuns :
    (let s := placedTurn 0x000000405000016080288330
     let u := turnOf s [] 3 0
     s.agenda == [.split 3 0] && (issuing u).any fun e => mayIssue u e.1 e.2 && e.2.await.isNone && !badPc e.2.pc && e.2.pc.toNat % 8 == 0 &&
       match fetchOf s [] 3 0 e.1 e.2 with
       | .ok (_, some l) => lineLegal l && slotMarked l 0 && !(e.2.enter && slotMarked l 0 && joinedHere e.1 e.2) &&
           (match decode (slotWord l 0) with | .ok _ => true | .error _ => false)
       | _ => false) = true ∧
    (let s := { withGroup (fun g => { g with paths := g.paths.map fun p => { p with await := some (.answer 1), word := 0xFF } }) with
       agenda := [.split 3 0] }
     (issuing (turnOf s [] 3 0)).any fun e => mayIssue (turnOf s [] 3 0) e.1 e.2 && e.2.await.isSome) = true ∧
    (let s := State.reset.withFetchWord 64 0x0000000064400004
     s.agenda == [.relay 1] && (tblFind s.instances 1).any fun k => instanceRuns s k && (k.prog.code[k.pc]?).any fun w => (decodeRelay w).isSome) = true ∧
    isEvent .stageReady = true := by decide +kernel

/-- A path at a malformed PC; a line that is not legal; a target that is not marked; a word of each check that fails. -/
def trapWord (w : Nat) (k : SlotErr) : Bool :=
  let s := placedTurn w
  (issuing (turnOf s [] 3 0)).any fun e => match fetchOf s [] 3 0 e.1 e.2 with
    | .ok (_, some l) => lineLegal l && match decode (slotWord l 0) with | .error e => decide (e = k) | .ok _ => false
    | _ => false

/-- A BRA to SLOT 5, at a slot that the path reaches. -/
theorem witness_branchTargets : trapWord 0x000000050000000000000701 .instruction = true ∧
    slotMarked (lineOfWord 0x000000050000000000000701) 0 = true ∧
    4 < ((0x000000050000000000000701#96).extractLsb' 64 3).toNat := by decide +kernel

theorem witness_slotTraps :
    badPc 0x107 = true ∧ lineLegal 0x400 = false ∧ slotMarked (lineOfWord 0) 1 = false ∧
    trapWord 0x800000000000000000000000 .instruction = true ∧ trapWord 0x000000090000040000080734 .type = true ∧
    trapWord 0x000000070000000000003794 .scope = true ∧ trapWord 0x000000080000040000090734 .operand = true ∧
    (issuing work).isSome = true ∧ unassignedOpc 0xFE = true := by decide +kernel

theorem witness_invariants : Memory.wf State.reset.mem ∧ Memory.wf work.mem := by decide +kernel

theorem witness_modes : legalMode 4 ∧ ModeInv State.reset ∧ ModeInv work :=
  ⟨.inr (.inr rfl), ⟨.inl rfl, .inl rfl, nofun⟩, ⟨.inl (by decide +kernel), .inl (by decide +kernel),
    fun _ h => nomatch (show (none : Option Nat) = some _ from h)⟩⟩

/-! ### Words and ill-formed terms -/

/-- The check that refuses a word. -/
def refusedAs (w : InsWord) (k : SlotErr) : Bool :=
  match decode w with
  | .error e => decide (e = k)
  | .ok _ => false

/-- An IMUL whose reserved bits, TYPE and destination fail their checks, and a FENCE of no scope. -/
theorem test_wordsRefused :
    refusedAs 0x800000080000040000080734 .instruction ∧ refusedAs 0x000000090000040000080734 .type ∧
    refusedAs 0x000000070000000000003794 .scope ∧ refusedAs 0x000000080000040000090734 .operand := by decide +kernel

/-- Ill-formed terms: an index with a scalar register, a TYPE of the wrong class, an odd pair, a scope that the spill
stack does not take, and a relay mode with a stray field. -/
theorem test_illFormed :
    (Instr.ld always .bits (plain .b32) (dv 1) ⟨x 4, .reg (x 5) 0 true 0⟩).fieldOk = false ∧
    (Instr.imul always .f32 (dv 2) (v 0) (.imm 1)).wf = false ∧ (Instr.imul always .u64 (dv 1) (v 0) (.imm 1)).wf = false ∧
    (Instr.ldk always .bits ⟨0, .blk, .plain, .b32⟩ (dv 1) (at0 (x 4))).wf = false ∧
    (Instr.relayLdk 0 0 1 5).fieldOk = false := by decide +kernel

/-- A word of each format, written out from 02 R36-R40 and its family's table, decodes to its instruction. -/
theorem test_decode_branch : decode 0x000000010000000000000701#96 = .ok (.bra always ⟨1, 0⟩) := by rfl
theorem test_decode_trap : decode 0x0000002A00000000000007CC#96 = .ok (.trap always 42) := by rfl
theorem test_decode_zero : decode 0#96 = .ok (.nop ⟨⟨false, 0⟩, ⟨0, 0⟩⟩) := by rfl

/-! ### Results that the spec's text gives -/

/-- Register r of lane l after an instruction in a package with lane values in registers, and `fmt`. -/
def run (i : Instr) (regs : List (Nat × Nat × Word)) (f : Word := 0) (g : Group → Group := id) : Group :=
  let s := withGroup fun h => { regs.foldl (fun h e => vSet h e.1 e.2.1 e.2.2) (g h) with
    paths := h.paths.map fun p => { p with fmt := f } }
  match exec i s with
  | .next t => (tblFind t.groups 3).getD workGroup
  | _ => workGroup

/-- Lane 0 of v1, after a conversion of v2 with a value in it. -/
def cvtTo (m : CvtMode) (sat : Bool) (dt : Fmt) (y : Word) : Word :=
  vGet (run (.cvt always m sat 0 dt .f32 (dv 1) (v 2)) [(2, 0, y), (1, 0, 0)]) 1 0

/-- 03, worked conversions after R72: 300.0 to E4M3 by rne and rup, 500.0 to E4M3, and saturating. -/
theorem test_cvt_e4m3 : [cvtTo (.fixed .rne) false .e4m3 0x43960000, cvtTo (.fixed .rup) false .e4m3 0x43960000,
    cvtTo (.fixed .rne) false .e4m3 0x43FA0000, cvtTo (.fixed .rne) true .e4m3 0x43FA0000].map (· % 256) =
    [0x79, 0x7A, 0x7F, 0x7E] := by decide +kernel

/-- The same table: 2^-17 to E5M2, and halfway values to BF16. -/
theorem test_cvt_halves : [cvtTo (.fixed .rne) false .e5m2 0x37000000, cvtTo (.fixed .rup) false .e5m2 0x37000000].map (· % 256) = [0, 1] ∧
    [cvtTo (.fixed .rne) false .bf16 0x3F808000, cvtTo (.fixed .rne) false .bf16 0x3F818000].map (· % 65536) = [0x3F80, 0x3F82] := by
  decide +kernel

/-- 11, the worked case of CVT.n: 1.0, 300.0, 1000.0 and NaN, scaled by 0.5, to E4M3X4. -/
theorem test_cvtn : vGet (run (.cvtn always 1 .e4m3x4 (dv 12) (v 8) (v 20))
    [(8, 0, 0x3F800000), (9, 0, 0x43960000), (10, 0, 0x447A0000), (11, 0, 0x7FC00000)] 0x10000 fun g =>
      { g with scl := tblPut g.scl 1 0x3F000000 }) 12 0 = 0x7F7E7130 := by decide +kernel

/-- 11 R265: the INT3G words of 03 R67 with scale 0.5, group 1. -/
theorem test_dqnt : (List.range 8).map (fun r => vGet (run (.dqnt always 1 .int3g (dv 16) (v 4) (v 2) none)
    [(4, 0, 0xAC688FAC), (5, 0, 0x8FAC688F), (6, 0, 0x688FAC68), (2, 0, 0x3F00)]) (16 + r) 0) =
    [0xC0000000, 0xBFC00000, 0xBF800000, 0xBF000000, 0, 0x3F000000, 0x3F800000, 0x3FC00000] := by decide +kernel

/-- 10 R249: the bins 3, 1, 3, 0, 9, 3, 1, 2 in lanes 0-7, nb = 4. -/
def bins : List (Nat × Nat × Word) := [(2, 0, 3), (2, 1, 1), (2, 2, 3), (2, 3, 0), (2, 4, 9), (2, 5, 3), (2, 6, 1), (2, 7, 2)]

/-- A predicate of lanes 0-7 in p1. -/
def firstEight : Guard := ⟨⟨false, 1⟩, ⟨0, 0⟩⟩
def withP (m : Lanes) (g : Group) : Group := { g with preds := tblPut g.preds 1 m }

theorem test_lhist :
    (List.range 8).map (fun l => vGet (run (.lhist firstEight false (dv 4) (v 2) (.imm 4)) bins 0 (withP 0xFF)) 4 l) =
      [1, 2, 1, 3, 0, 0, 0, 0] ∧
    (List.range 8).map (fun l => vGet (run (.lhist firstEight true (dv 4) (v 2) (.imm 4)) bins 0 (withP 0xFF)) 4 l) =
      [0, 0, 1, 0, 0xFFFFFFFF, 2, 1, 0] := by decide +kernel

/-- 10, the worked selection: keys 1.5, NaN, 3.0, -inf, 3.0, 0.25, 2.0, -1.0 in lanes 0-7, of which two are chosen. -/
def selected : List (RegFile × Nat × Nat × Long) :=
  let s := withGroup fun h => withP 0xFF ([(0, 0x3FC00000), (1, 0x7FC00001), (2, 0x40400000), (3, 0xFF800000), (4, 0x40400000),
    (5, 0x3E800000), (6, 0x40000000), (7, 0xBF800000)].foldl (fun h e => vSet h 1 e.1 e.2)
      ((List.range 8).foldl (fun h l => vSet h 2 l (BitVec.ofNat 32 l)) h))
  match exec (.topk firstEight true .f32 (dv 8) (v 1) (v 2) 2 3 (some 4)) s with
  | .next t => t.producers.flatMap fun e => e.2.writes.flatMap fun w => (laneList w.lanes).map fun l =>
      (w.file, w.reg, l, w.vals.getD l 0)
  | _ => []

theorem test_topk : (List.range 8).map (fun l => (selected.find? fun e => e.2.1 = 9 && e.2.2.1 = l).map (·.2.2.2)) =
      [some 2, some 4, some 6, some 0, some 5, some 7, some 3, some 1] ∧
    (List.range 3).map (fun l => (selected.find? fun e => e.2.1 = 10 && e.2.2.1 = l).map (·.2.2.2)) =
      [some 0x3F000000, some 0x3F000000, some 0] := by decide +kernel

/-- 10 R233: division by zero, and the minimum by -1. -/
theorem test_idiv : vGet (run (.idiv always false .i32 (dv 1) (v 2) (.imm 0)) [(2, 0, 7)]) 1 0 = 0xFFFFFFFF ∧
    vGet (run (.idiv always false .i32 (dv 1) (v 2) (.imm 0xFFFFFFFF)) [(2, 0, 0x80000000)]) 1 0 = 0x80000000 := by decide +kernel

/-- 09 R223: SETFMT.mask with 0x6000 and 0x2000. -/
theorem test_setfmt : (run (.setfmt always (some (x 4)) (.reg (x 5))) [] 0 fun g => sSet (sSet g 4 0x6000) 5 0x2000).paths.map (·.fmt) =
    [0x2000] := by decide +kernel

/-- 07 R166: lane 5's b32 at offset 0x24, and its b64 at 0x20. -/
theorem test_spill : spillPieces workGroup 5 0x24 4 = [(0x400494, 4)] ∧
    (spillPieces workGroup 5 0x20 8).map (·.1 - 0x400000) = [0x414, 0x494] := by decide +kernel

/-- 03 R83: 2^24 and 3.0 against ones, in versions 9 and 8. -/
def dotExample (nbv : Nat) : Nat :=
  dotOf ⟨3, 0, 0, 0xFF, 64, 0, .f, 0, nbv, none, none, 0, allLanes, 0⟩
    (natOfBytes ((List.replicate 32 [(0x80 : Byte), 0x3F]).flatten)) (0x40404B80) 0

theorem test_dot : dotExample 9 = 0x4B800002 ∧ dotExample 8 = 0x4B800001 := by decide +kernel

/-- 12 R278: the MMAQW of 0x29 with codes 0x3210FEDC and scales 0.5 and 2.0 gives -40. -/
theorem test_mmaqw : [9, 8].map (fun n => dotOf ⟨3, 0, 0, 0xFF, 64, 0, .w, 0x29, n, none, none, 0, allLanes, 0⟩
    (natOfBytes (List.replicate 64 0x38))
    (natOfBytes ((List.replicate 8 (bytesOfNat 4 0x3210FEDC)).flatten ++ bytesOfNat 4 0x3F00 ++ bytesOfNat 4 0x4000)) 0) =
    [0xC2200000, 0xC2200000] := by decide +kernel

/-- 09 R219: the permutation entries of a group at its start. -/
theorem test_permReset : workGroup.perm.head? = some 0x0706050403020100 ∧ workGroup.perm.getLast? = some 0x3F3E3D3C3B3A3938 := by
  decide +kernel

/-- 17 R394: TRAP records its code and the PC of the next instruction. -/
theorem test_trap : (match exec (.trap always 42) (handled) with
    | .next t => (tblFind t.groups 3).map fun g => (bits g.fltrec.toNat 31 24, bits g.fltrec.toNat 15 0, g.handler, g.paths.map (·.pc))
    | _ => none) = some (0x11, 42, true, [0x140]) := by decide +kernel

/-- 02 R30: a line's parity. -/
theorem test_lineParity : lineParityOk (lineOfWord 0x0000002A00000000000007CC) = true ∧
    lineParityOk (lineOfWord 0x0000002A00000000000007CC ^^^ 0x100000000) = false := by decide +kernel

end Sys2Proof.Tests
end

/-! PROOFS. Memory and lines: the bytes of a number, and what a line reads after a write (O16). -/

namespace Sys2Proof.Machine

/-! ### Bytes and the bits of their number (00 R4) -/

theorem bytesOfNat_succ (n x : Nat) : bytesOfNat (n + 1) x = BitVec.ofNat 8 x :: bytesOfNat n (x / 256) := by
  have shift (i : Nat) : x >>> (8 * (i + 1)) = (x / 256) >>> (8 * i) := by
    rw [Nat.mul_add, Nat.add_comm, Nat.shiftRight_add, Nat.shiftRight_eq_div_pow x (8 * 1)]
  simp only [bytesOfNat, List.range_succ_eq_map, List.map_cons, List.map_map, Function.comp_def, Nat.succ_eq_add_one, shift]
  rfl

/-- The bytes of a number are what its low bits say. -/
theorem bytesOfNat_congr {n x y : Nat} (h : ∀ i < 8 * n, x.testBit i = y.testBit i) : bytesOfNat n x = bytesOfNat n y := by
  refine List.map_congr_left fun i hi => BitVec.eq_of_getLsbD_eq fun k hk => ?_
  have hi := List.mem_range.1 hi
  simp [BitVec.getLsbD_ofNat, h (8 * i + k) (by omega)]

theorem bytesOfNat_natOfBytes (bs : List Byte) : bytesOfNat bs.length (natOfBytes bs) = bs := by
  induction bs with
  | nil => rfl
  | cons b r ih =>
    have low : BitVec.ofNat 8 (b.toNat + 256 * natOfBytes r) = b := BitVec.eq_of_toNat_eq (by simp; omega)
    have high : (b.toNat + 256 * natOfBytes r) / 256 = natOfBytes r := by have := b.isLt; omega
    rw [List.length_cons, bytesOfNat_succ, natOfBytes, low, high, ih]

theorem natOfBytes_bytesOfNat (n x : Nat) : natOfBytes (bytesOfNat n x) = x % 2 ^ (8 * n) := by
  induction n generalizing x with
  | zero => simp [bytesOfNat, natOfBytes, Nat.mod_one]
  | succ n ih =>
    rw [bytesOfNat_succ, natOfBytes, ih, BitVec.toNat_ofNat, Nat.mul_succ, Nat.add_comm (8 * n),
      Nat.pow_add 2 8 (8 * n), Nat.mod_mul]

/-! ### Lines -/

/-- A whole line that is written is read. -/
theorem memLine_setLine (m : Tbl Byte) (a : Nat) (d : Line) : memLine (memSetLine m a d) a = d := by
  have whole : memBytes (memSetLine m a d) a 128 = bytesOfNat 128 d.toNat := by
    simpa only [memSetLine, bytesOfNat_length] using memBytes_write_same m a (bytesOfNat 128 d.toNat)
  rw [memLine, whole, natOfBytes_bytesOfNat, show 8 * 128 = 1024 from rfl, Nat.mod_eq_of_lt d.isLt,
    BitVec.ofNat_toNat, BitVec.setWidth_eq]

/-- Where a write into a line lies, its bits are those of the bytes written; elsewhere the line's own. -/
theorem lineSet_getLsbD {d : Line} {off : Nat} {bs : List Byte} (h : off + bs.length ≤ 128) (i : Nat) :
    (lineSet d off bs).getLsbD i =
      if 8 * off ≤ i ∧ i < 8 * (off + bs.length) then (natOfBytes bs).testBit (i - 8 * off) else d.getLsbD i := by
  simp only [lineSet, BitVec.getLsbD_or, BitVec.getLsbD_and, BitVec.getLsbD_not, BitVec.getLsbD_ofNat,
    Nat.testBit_shiftLeft, Nat.testBit_two_pow_sub_one]
  split
  · next inside =>
    simp [show i < 1024 by omega, show 8 * off ≤ i by omega, show i - 8 * off < 8 * bs.length by omega]
  · next outside =>
    by_cases top : i < 1024
    · by_cases above : 8 * off ≤ i
      · have fits : natOfBytes bs < 2 ^ (8 * bs.length) := by rw [Nat.pow_mul]; exact natOfBytes_lt bs
        have clear : (natOfBytes bs).testBit (i - 8 * off) = false :=
          Nat.testBit_lt_two_pow (Nat.lt_of_lt_of_le fits (Nat.pow_le_pow_right (by omega) (by omega)))
        simp [clear, top, show ¬ i - 8 * off < 8 * bs.length by omega]
      · simp [above, top]
    · simp [top, BitVec.getLsbD_of_ge d i (by omega)]

theorem lineBytes_set_same (d : Line) {off : Nat} {bs : List Byte} (h : off + bs.length ≤ 128) :
    lineBytes (lineSet d off bs) off bs.length = bs := by
  refine Eq.trans (bytesOfNat_congr fun i hi => ?_) (bytesOfNat_natOfBytes bs)
  rw [Nat.testBit_shiftRight, BitVec.testBit_toNat, lineSet_getLsbD h, if_pos (by omega), Nat.add_sub_cancel_left]

theorem lineBytes_set_outside (d : Line) {off o n : Nat} {bs : List Byte} (h : off + bs.length ≤ 128)
    (apart : o + n ≤ off ∨ off + bs.length ≤ o) : lineBytes (lineSet d off bs) o n = lineBytes d o n :=
  bytesOfNat_congr fun i hi => by
    simp only [Nat.testBit_shiftRight, BitVec.testBit_toNat]
    rw [lineSet_getLsbD h, if_neg (by omega)]

/-- Settles O16: a byte after a write is the one written there or the one that was there (`memByte_write`), and a line's
bytes after a write follow bit by bit from `lineSet_getLsbD`. -/
theorem memoryBytes : Obligations.MemoryBytes := by
  unfold Obligations.MemoryBytes
  refine ⟨fun m a bs => ⟨?_, ?_, ?_, ?_⟩, fun d off bs fits => ⟨?_, fun o n apart => ?_⟩⟩
  · exact memBytes_write_same m a bs
  · exact fun x outside => memByte_write_outside outside
  · exact fun wf => memory_wf_write wf a bs
  · exact memLine_setLine m a
  · exact lineBytes_set_same d fits
  · exact lineBytes_set_outside d fits (apart.imp_right And.left)

end Sys2Proof.Machine

/-! PROOFS. A turn of the agenda: how a split, a relay program and an event come to the instruction that the step runs,
and the turn of a word placed after reset (O55). -/

namespace Sys2Proof.Machine

/-! ### A turn of the agenda -/

/-- A step takes the first turn of the agenda, and time goes on by one. -/
theorem step_of_agenda {s : State} {t : Turn} {rest : List Turn} (h : s.agenda = t :: rest) :
    step s = afterTurn (runTurn { s with agenda := rest } t) := by
  simp only [step, runStep, nextTurn, h]
  cases runTurn { s with agenda := rest } t <;> rfl

theorem runTurn_event {i : Instr} (h : isEvent i = true) (s : State) (x : Input) :
    runTurn s (.event i x) = exec i { s with input := x } := by
  simp only [runTurn, h, if_true]

theorem runTurn_relay {s : State} {k : Nat} {x : Instance} {w : RelayWord} {i : Instr} (hx : tblFind s.instances k = some x)
    (runs : instanceRuns s x = true) (hw : x.prog.code[x.pc]? = some w) (hi : decodeRelay w = some i) :
    runTurn s (.relay k) = exec i { s with inst := k } := by
  simp [runTurn, runRelay, hx, runs, hw, hi]

theorem runTurn_split {s : State} {rest : List Turn} {gid sp : Nat} {g : Group} {p : Path} {i : Instr} {u : State}
    (turn : issuing (turnOf s rest gid sp) = some (g, p)) (may : mayIssue (turnOf s rest gid sp) g p = true)
    (enters : enterSlot (turnOf s rest gid sp) gid g p = .issue i u) :
    runTurn { s with agenda := rest } (.split gid sp) = exec i (issueCycle u gid sp g.quad) := by
  unfold turnOf at turn may enters
  simp only [runTurn, runSplit, turn, may, enters, Bool.not_true, Bool.false_eq_true, if_false]

/-! ### How a path comes to its instruction (02 R34, R45) -/

theorem enterSlot_begun {s : State} {gid : Nat} {g : Group} {p : Path} {i : Instr} (begun : p.await.isSome = true)
    (hi : decode p.word = .ok i) : enterSlot s gid g p = .issue i s := by
  simp only [enterSlot, begun, hi, if_true]

theorem enterSlot_fetched {s u : State} {gid : Nat} {g : Group} {p : Path} {l : FetchLine} (new : p.await = none)
    (pc : badPc p.pc = false)
    (fetched : fetchLine s (whoOf s g) g.quad (BitVec.ofNat 64 (p.pc.toNat / 64 * 64)) = .ok (u, some l)) :
    enterSlot s gid g p = enterLine u gid g p l := by
  simp [enterSlot, new, pc, fetched]

/-- The path as it issues the instruction of its slot. -/
def entered (l : FetchLine) (pc : Long) (q : Path) : Path :=
  { q with enter := false, checked := false, tail := lineTail l, word := slotWord l (pc.toNat % 8) }

theorem enterLine_issues {s : State} {gid : Nat} {g : Group} {p : Path} {l : FetchLine} {i : Instr}
    (legal : lineLegal l = true) (marked : p.checked = true → slotMarked l (p.pc.toNat % 8) = true)
    (inLine : p.pc.toNat % 8 ≤ lineTail l) (alone : (p.enter && slotMarked l (p.pc.toNat % 8) && joinedHere g p) = false)
    (hi : decode (slotWord l (p.pc.toNat % 8)) = .ok i) :
    enterLine s gid g p l = .issue i (updGroup s gid fun h => updPath h p.lanes (entered l p.pc)) := by
  have target : (p.checked && !slotMarked l (p.pc.toNat % 8)) = false := by
    cases hc : p.checked with
    | false => rfl
    | true => simp [marked hc]
  simp only [enterLine, legal, target, alone, hi, Nat.not_lt.2 inLine, Bool.not_true, Bool.false_eq_true, if_false]
  rfl

/-- The step of a path that begins the instruction in the slot of its PC. -/
theorem step_fetched {s u : State} {rest : List Turn} {gid sp : Nat} {g : Group} {p : Path} {l : FetchLine} {i : Instr}
    (takes : TakesTurn s rest gid sp g p) (pc : badPc p.pc = false) (fetched : fetchOf s rest gid sp g p = .ok (u, some l))
    (legal : lineLegal l = true) (marked : p.checked = true → slotMarked l (p.pc.toNat % 8) = true)
    (inLine : p.pc.toNat % 8 ≤ lineTail l) (alone : (p.enter && slotMarked l (p.pc.toNat % 8) && joinedHere g p) = false)
    (hi : decode (slotWord l (p.pc.toNat % 8)) = .ok i) :
    step s = afterTurn (exec i
      (issueCycle (updGroup u gid fun h => updPath h p.lanes (entered l p.pc)) gid sp g.quad)) := by
  obtain ⟨agenda, turn, may, new⟩ := takes
  have enters := (enterSlot_fetched (gid := gid) new pc fetched).trans (enterLine_issues legal marked inLine alone hi)
  rw [step_of_agenda agenda, runTurn_split turn may enters]

/-! ### The issuing path after a change of its group -/

theorem curPath_updPath {g : Group} {sp : Nat} {p : Path} {f : Path → Path} (h : curPath g sp = some p)
    (keeps : ∀ q, (f q).split = q.split ∧ (f q).status = q.status) : curPath (updPath g p.lanes f) sp = some (f p) := by
  unfold curPath at h ⊢
  have same : (fun q : Path => decide (q.split = sp) && decide (q.status = .current)) ∘
      (fun q => if q.lanes = p.lanes then f q else q) = fun q => decide (q.split = sp) && decide (q.status = .current) := by
    funext q
    by_cases hq : q.lanes = p.lanes <;> simp [hq, keeps q]
  rw [updPath, List.find?_map, same, h]
  simp

theorem issuing_eq_some {s : State} {g : Group} {p : Path} :
    issuing s = some (g, p) ↔ tblFind s.groups s.gid = some g ∧ curPath g s.sp = some p := by
  unfold issuing
  cases tblFind s.groups s.gid with
  | none => simp
  | some h =>
    simp only [Option.map_eq_some_iff, Prod.mk.injEq, Option.some.injEq]
    exact ⟨fun ⟨_, hq, hg, hp⟩ => ⟨hg, hg ▸ hp ▸ hq⟩, fun ⟨hg, hp⟩ => ⟨p, hg ▸ hp, hg, rfl⟩⟩

theorem issuing_updPath {s : State} {g : Group} {p : Path} {f : Path → Path} (h : issuing s = some (g, p))
    (keeps : ∀ q, (f q).split = q.split ∧ (f q).status = q.status) :
    issuing (updGroup s s.gid fun g => updPath g p.lanes f) = some (updPath g p.lanes f, f p) := by
  obtain ⟨hg, hp⟩ := issuing_eq_some.1 h
  exact issuing_eq_some.2 ⟨by simp [updGroup, tblFind_upd, hg], curPath_updPath hp keeps⟩

/-- A cycle of a quadrant changes splits only: a group keeps its paths. -/
theorem issueCycle_paths {s : State} {k : Nat} {g : Group} (hg : tblFind s.groups k = some g) (gid sp q : Nat) :
    ∃ g', tblFind (issueCycle s gid sp q).groups k = some g' ∧ g'.paths = g.paths := by
  simp only [issueCycle, tblFind_map, hg, Option.map_some, Option.some.injEq, exists_eq_left']
  split
  · rfl
  · rfl

theorem issuing_issueCycle {s : State} {g : Group} {p : Path} (h : issuing s = some (g, p)) (gid sp q : Nat) :
    ∃ g', issuing (issueCycle s gid sp q) = some (g', p) := by
  obtain ⟨hg, hp⟩ := issuing_eq_some.1 h
  obtain ⟨g', hg', paths⟩ := issueCycle_paths hg gid sp q
  exact ⟨g', issuing_eq_some.2 ⟨hg', by rwa [curPath, paths]⟩⟩

/-! ### A placed word (log entry 6) -/

/-- The parts of a placed line: the flags below bit 32, and the word in slot 0. -/
theorem lineOfWord_toNat (w : InsWord) :
    ∃ c, (c = 0 ∨ c = 2 ^ 26) ∧ (lineOfWord w).toNat = 1 + 2 ^ 31 + c + w.toNat * 2 ^ 32 := by
  refine ⟨if oddOnes w.toNat 96 then 2 ^ 26 else 0, by split <;> simp, ?_⟩
  have := w.isLt
  rw [lineOfWord, BitVec.toNat_ofNat]
  exact Nat.mod_eq_of_lt (by split <;> omega)

theorem slotWord_lineOfWord (w : InsWord) : slotWord (lineOfWord w) 0 = w := by
  obtain ⟨c, hc, hl⟩ := lineOfWord_toNat w
  apply BitVec.eq_of_toNat_eq
  rw [slotWord, BitVec.extractLsb'_toNat, hl, Nat.shiftRight_eq_div_pow]
  have := w.isLt
  omega

theorem slotMarked_lineOfWord (w : InsWord) : slotMarked (lineOfWord w) 0 = true := by
  obtain ⟨c, hc, hl⟩ := lineOfWord_toNat w
  have odd : (lineOfWord w).toNat % 2 = 1 := by omega
  simp [slotMarked, bit, Nat.testBit_zero, odd]

theorem lineLegal_lineOfWord (w : InsWord) : lineLegal (lineOfWord w) = true := by
  obtain ⟨c, hc, hl⟩ := lineOfWord_toNat w
  have reserved : bits (lineOfWord w).toNat 25 11 = 0 := by
    rw [bits, hl, Nat.shiftRight_eq_div_pow]; omega
  have kind : bits (lineOfWord w).toNat 10 9 = 0 := by
    rw [bits, hl, Nat.shiftRight_eq_div_pow]; omega
  have pair : bits (lineOfWord w).toNat 8 5 = 0 := by
    rw [bits, hl, Nat.shiftRight_eq_div_pow]; omega
  simp [lineLegal, reserved, kind, pair]

/-- The machine with a word placed after reset. -/
def wordPlaced (w : InsWord) : State := State.reset.withFetchWord 96 w.toNat

/-- The group and the path that a placed word starts. -/
def placedGroup : Group := startGroup placedGrid 1 2 0 0 0 allLanes (threadRegs 0) 0 0x100
def placedPath : Path := entryPath allLanes 0x100

theorem wordPlaced_eq (w : InsWord) : wordPlaced w = placeSplit State.reset w := by
  rw [wordPlaced, State.withFetchWord, if_neg (by decide), BitVec.ofNat_toNat, BitVec.setWidth_eq]

theorem wordPlaced_issuing (w : InsWord) : issuing (turnOf (wordPlaced w) [] 3 0) = some (placedGroup, placedPath) := by
  rw [wordPlaced_eq]; rfl

theorem wordPlaced_takesTurn (w : InsWord) : TakesTurn (wordPlaced w) [] 3 0 placedGroup placedPath where
  agenda := by rw [wordPlaced_eq]; rfl
  turn := wordPlaced_issuing w
  may := by rw [wordPlaced_eq]; rfl
  new := rfl

theorem wordPlaced_fetched (w : InsWord) :
    fetchOf (wordPlaced w) [] 3 0 placedGroup placedPath = .ok (turnOf (wordPlaced w) [] 3 0, some (lineOfWord w)) := by
  rw [wordPlaced_eq]; rfl

/-- A word placed after reset is what the next step runs. -/
theorem step_wordPlaced {w : InsWord} {i : Instr} (hi : decode w = .ok i) : ∃ (u : State) (g : Group) (p : Path),
    step (wordPlaced w) = afterTurn (exec i u) ∧ issuing u = some (g, p) ∧ p.pc = 0x100 ∧ p.lanes = allLanes ∧ p.word = w := by
  have slot : decode (slotWord (lineOfWord w) (placedPath.pc.toNat % 8)) = .ok i := (slotWord_lineOfWord w).symm ▸ hi
  have ran := step_fetched (wordPlaced_takesTurn w) rfl (wordPlaced_fetched w) (lineLegal_lineOfWord w)
    (fun _ => slotMarked_lineOfWord w) (Nat.zero_le _) (Bool.and_false _) slot
  have issues := issuing_updPath (f := entered (lineOfWord w) placedPath.pc) (wordPlaced_issuing w) fun q => ⟨rfl, rfl⟩
  obtain ⟨g, after⟩ := issuing_issueCycle issues 3 0 placedGroup.quad
  exact ⟨_, g, _, ran, after, rfl, rfl, slotWord_lineOfWord w⟩

/-- Settles O55: the step is the agenda's first turn (`step_of_agenda`), and each kind of turn runs the instruction it
finds. -/
theorem stepRunsDecoded : Obligations.StepRunsDecoded := by
  unfold Obligations.StepRunsDecoded
  refine ⟨?_, ?_, ?_, ?_, ?_⟩
  · intro s rest gid sp g p u l i takes pc fetched legal marked inLine alone hi
    exact step_fetched takes pc fetched legal marked inLine alone hi
  · intro s rest gid sp g p i agenda turn may begun hi
    rw [step_of_agenda agenda, runTurn_split turn may (enterSlot_begun begun hi)]
  · intro s rest k x w i agenda hx runs hw hi
    rw [step_of_agenda agenda]
    exact congrArg afterTurn (runTurn_relay hx runs hw hi)
  · intro s rest i x agenda event
    rw [step_of_agenda agenda, runTurn_event event]
  · exact fun w i hi => step_wordPlaced hi

end Sys2Proof.Machine

/-! PROOFS. A core's store queue and its L1: what its loads see of a line (O17). -/

namespace Sys2Proof.Machine

/-! ### Lines that agree outside some of their bytes -/

/-- Two lines agree but for their bytes off to off + n. -/
def AgreeOutside (off n : Nat) (d e : Line) : Prop :=
  ∀ i, i < 8 * off ∨ 8 * (off + n) ≤ i → d.getLsbD i = e.getLsbD i

theorem agreeOutside_lineSet_both {off n : Nat} {d e : Line} (h : AgreeOutside off n d e) (o : Nat) (bs : List Byte) :
    AgreeOutside off n (lineSet d o bs) (lineSet e o bs) := fun i outside => by
  simp only [lineSet, BitVec.getLsbD_or, BitVec.getLsbD_and, h i outside]

theorem agreeOutside_lineSet {off : Nat} {bs : List Byte} {d e : Line} (fits : off + bs.length ≤ 128)
    (h : AgreeOutside off bs.length d e) : AgreeOutside off bs.length (lineSet d off bs) e := fun i outside => by
  rw [lineSet_getLsbD fits, if_neg (by omega), h i outside]

/-- What a write covers does not matter after it. -/
theorem lineSet_eq_of_agree {off : Nat} {bs : List Byte} {d e : Line} (fits : off + bs.length ≤ 128)
    (h : AgreeOutside off bs.length d e) : lineSet d off bs = lineSet e off bs := by
  refine BitVec.eq_of_getLsbD_eq fun i _ => ?_
  rw [lineSet_getLsbD fits, lineSet_getLsbD fits]
  split
  · rfl
  · next outside => exact h i (by omega)

/-! ### Queued stores laid over a line (05 R118) -/

/-- The stores of one entry, laid over a line in their order. -/
def layParts (d : Line) (ps : List StorePart) : Line := ps.foldl (fun d p => lineSet d (p.va.toNat % 128) p.bytes) d

/-- An entry is of a core's queue, and of a line of a context. -/
def ofLine (core ctx asid lva : Nat) (e : StoreEntry) : Bool :=
  e.core = core && e.ctx = ctx && e.asid = asid && e.va = lva

/-- The entries that hold, laid over a line in their order. -/
def layEntries (same : StoreEntry → Bool) (q : List StoreEntry) (d : Line) : Line :=
  q.foldl (fun d e => if same e then layParts d e.parts else d) d

theorem overlay_eq_layEntries (s : State) (core ctx asid lva : Nat) (d : Line) :
    overlay s core ctx asid lva d = layEntries (ofLine core ctx asid lva) s.sq d := rfl

/-- A part joins the entries that hold. -/
def addPart (same : StoreEntry → Bool) (p : StorePart) (e : StoreEntry) : StoreEntry :=
  if same e then { e with parts := e.parts ++ [p] } else e

theorem layParts_snoc (d : Line) (ps : List StorePart) (p : StorePart) :
    layParts d (ps ++ [p]) = lineSet (layParts d ps) (p.va.toNat % 128) p.bytes := by
  simp [layParts]

theorem agreeOutside_layParts {off n : Nat} {d e : Line} (h : AgreeOutside off n d e) (ps : List StorePart) :
    AgreeOutside off n (layParts d ps) (layParts e ps) := by
  induction ps generalizing d e with
  | nil => exact h
  | cons p r ih => exact ih (agreeOutside_lineSet_both h _ _)

@[simp] theorem layEntries_cons (same : StoreEntry → Bool) (e : StoreEntry) (r : List StoreEntry) (d : Line) :
    layEntries same (e :: r) d = layEntries same r (if same e then layParts d e.parts else d) := rfl

theorem layEntries_none {same : StoreEntry → Bool} {q : List StoreEntry} (h : q.any same = false) (d : Line) :
    layEntries same q d = d := by
  induction q with
  | nil => rfl
  | cons e r ih =>
    obtain ⟨he, hr⟩ := Bool.or_eq_false_iff.1 h
    simp [he, ih hr]

/-- A store that joins the entries of its line is laid last, and covers what it has been laid before. -/
theorem layEntries_addPart {same : StoreEntry → Bool} {p : StorePart} (keeps : ∀ e, same (addPart same p e) = same e)
    (fits : p.va.toNat % 128 + p.bytes.length ≤ 128) {q : List StoreEntry} (listed : q.any same = true) {d e : Line}
    (agree : AgreeOutside (p.va.toNat % 128) p.bytes.length d e) :
    layEntries same (q.map (addPart same p)) d = lineSet (layEntries same q e) (p.va.toNat % 128) p.bytes := by
  induction q generalizing d e with
  | nil => cases listed
  | cons x r ih =>
    simp only [List.map_cons, layEntries_cons, keeps]
    by_cases hx : same x = true
    · have laid := agreeOutside_layParts agree x.parts
      simp only [hx, if_true, addPart, layParts_snoc]
      by_cases more : r.any same = true
      · exact ih more (agreeOutside_lineSet fits laid)
      · have last : r.any same = false := by simpa using more
        have lastAdded : (r.map (addPart same p)).any same = false := by
          simpa [List.any_map, Function.comp_def, keeps] using last
        rw [layEntries_none lastAdded, layEntries_none last]
        exact lineSet_eq_of_agree fits laid
    · have more : r.any same = true := by simpa [hx] using listed
      simp only [hx]
      exact ih more agree

/-! ### A store that enters the queue (05 R118) -/

/-- What the queue keeps of a store. -/
def queuedPart (x : Access) (id : Nat) (lane va : Long) (bs : List Byte) (carry : List Rel) : StorePart :=
  { storePart x id (if x.sp = .k then va else lane) va bs with carry := carry }

theorem ofLine_addPart (core ctx asid lva : Nat) (p : StorePart) (e : StoreEntry) :
    ofLine core ctx asid lva (addPart (ofLine core ctx asid lva) p e) = ofLine core ctx asid lva e := by
  unfold addPart
  split <;> rfl

section
variable {s : State} {x : Access} {id : Nat} {lane va : Long} {bs : List Byte} {carry : List Rel}
  (room : (s.sq.filter fun e => e.core = coreOfQuad x.c.g.quad).length < 32)
include room

/-- A store into a queue with room joins the entries of its line, or is an entry of its own behind the others. -/
theorem pushStore_sq :
    let same := ofLine (coreOfQuad x.c.g.quad) x.w.ctx (asidOf x.w.ctx va) (lineOf va.toNat)
    let p := queuedPart x id lane va bs carry
    (pushStore s x id lane va bs carry).sq = if s.sq.any same then s.sq.map (addPart same p)
      else s.sq ++ [⟨coreOfQuad x.c.g.quad, x.w.ctx, asidOf x.w.ctx va, lineOf va.toNat, [p]⟩] := by
  simp only [pushStore, l1Patch, room, if_true]
  split
  · next listed => exact (if_pos listed).symm
  · next new => exact (if_neg new).symm

theorem pushStore_mem : (pushStore s x id lane va bs carry).mem = s.mem := by
  simp only [pushStore, l1Patch, room, if_true]
  split <;> rfl

/-- The core sees the store over what it saw of the line before. -/
theorem overlay_pushStore (fits : va.toNat % 128 + bs.length ≤ 128) (d : Line) :
    overlay (pushStore s x id lane va bs carry) (coreOfQuad x.c.g.quad) x.w.ctx (asidOf x.w.ctx va) (lineOf va.toNat) d =
      lineSet (overlay s (coreOfQuad x.c.g.quad) x.w.ctx (asidOf x.w.ctx va) (lineOf va.toNat) d) (va.toNat % 128) bs := by
  rw [overlay_eq_layEntries, overlay_eq_layEntries, pushStore_sq room]
  split
  · next listed =>
    exact layEntries_addPart (p := queuedPart x id lane va bs carry) (ofLine_addPart _ _ _ _ _) fits listed fun _ _ => rfl
  · simp [layEntries, layParts, ofLine, queuedPart, storePart]

end

/-! ### A load that the core's L1 serves (05 R122) -/

theorem noteRead_frame (s : State) (gid : Nat) (sc : Scope) (prom wide : Bool) (rs : List Rel) :
    noteRead s gid false sc prom wide rs = { s with groups := (noteRead s gid false sc prom wide rs).groups } := by
  simp only [noteRead, notePend, Bool.false_eq_true, if_false]
  split <;> rfl

theorem noteRead_noteSeen_frame (s : State) (gid asid lva die wts : Nat) (sc : Scope) (prom wide : Bool) (rs : List Rel) :
    ∃ gs, noteRead (noteSeen s gid asid lva die wts) gid false sc prom wide rs = { s with groups := gs } :=
  ⟨_, noteRead_frame ..⟩

/-- A read that finds a valid copy, with a permission for it, sees that copy; memory and the queues stay. -/
theorem coreRead_hit {s : State} {w : Who} {core : Nat} {va : Long} {acc : Acc} {c : L1Line} (acq load : Bool)
    (reachable : addressFault s w va acc = none)
    (found : l1Find s core w.ctx (asidOf w.ctx va) (lineOf va.toNat) = some c) (valid : l1Valid s c = true)
    (permitted : permOk c.perm acc w.handler = true) :
    ∃ u, coreRead s w core va acc false acq load = .ok (u, ⟨c.data, c.perm, c.poison, w.die, c.wts⟩) ∧
      u.mem = s.mem ∧ u.sq = s.sq := by
  simp only [coreRead, reachable, found, Option.filter_some, valid, permitted, Bool.not_false, Bool.true_and, if_true]
  refine ⟨_, rfl, ?_⟩
  cases load <;> exact ⟨rfl, rfl⟩

/-- A lane whose load lies in one line, which a valid copy of its core holds, reads the copy's bytes. -/
theorem loadPieces_hit {x : Access} {m : Prog} {a : Long} {c : L1Line} (l off : Nat) (plain : x.ord = .plain)
    (unfenced : x.c.p.full = false) (reachable : addressFault m.s x.w a x.acc = none)
    (found : l1Find m.s (coreOfQuad x.c.g.quad) x.w.ctx (asidOf x.w.ctx a) (lineOf a.toNat) = some c)
    (valid : l1Valid m.s c = true) (permitted : permOk c.perm x.acc x.w.handler = true)
    (clean : touchesPoison c.poison (a.toNat % 128) x.size = false) :
    ∃ u, loadPieces x l a [(a, x.size)] off m = ({ m with s := u }, .ok (lineBytes c.data (a.toNat % 128) x.size)) ∧
      u.mem = m.s.mem ∧ u.sq = m.s.sq := by
  obtain ⟨u, read, mem, sq⟩ := coreRead_hit false true reachable found valid permitted
  obtain ⟨gs, noted⟩ := noteRead_noteSeen_frame u x.c.gid (asidOf x.w.ctx a) (lineOf a.toNat) x.w.die c.wts x.sc false x.wide
    (relsSeen u (coreOfQuad x.c.g.quad) x.w.ctx (asidOf x.w.ctx a) a.toNat x.size)
  refine ⟨{ u with groups := gs }, ?_, mem, sq⟩
  simp [loadPieces, plain, acquires, unfenced, read, noted, clean]

/-- A canonical address of virtual memory passes the checks of a plain access. -/
theorem addrErr_vm_plain {s : State} {x : Access} {a : Long} (sp : x.sp = .vm) (canon : canonical a = true) :
    addrErr s x a false = none := by
  simp [addrErr, sp, canon]

theorem loadLane_hit {x : Access} {addr : Nat → Long} {m : Prog} {l : Nat} {c : L1Line} (sp : x.sp = .vm)
    (plain : x.ord = .plain) (unfenced : x.c.p.full = false) (reachable : addressFault m.s x.w (addr l) x.acc = none)
    (canon : canonical (addr l) = true) (whole : piecesOf (addr l) x.size = [(addr l, x.size)])
    (found : l1Find m.s (coreOfQuad x.c.g.quad) x.w.ctx (asidOf x.w.ctx (addr l)) (lineOf (addr l).toNat) = some c)
    (valid : l1Valid m.s c = true) (permitted : permOk c.perm x.acc x.w.handler = true)
    (clean : touchesPoison c.poison ((addr l).toNat % 128) x.size = false) :
    ∃ u, loadLane x addr m l = { m with s := u }.read l (lineBytes c.data ((addr l).toNat % 128) x.size) ∧
      u.mem = m.s.mem ∧ u.sq = m.s.sq := by
  obtain ⟨u, pieces, frame⟩ := loadPieces_hit l 0 plain unfenced reachable found valid permitted clean
  refine ⟨u, ?_, frame⟩
  have passes : addrErr m.s x (addr l) (x.ord != .plain) = none := by rw [plain]; exact addrErr_vm_plain sp canon
  have single : piecesAt x l (addr l) = [(addr l, x.size)] := by simp [piecesAt, sp, whole]
  simp only [loadLane, passes, single, sp]
  simp [pieces]

/-- Settles O17: a store in the queue is laid last over its line (`overlay_pushStore`), and a load that its core's L1
serves reads the copy (`loadLane_hit`). -/
theorem ownStoresRead : Obligations.OwnStoresRead := by
  unfold Obligations.OwnStoresRead
  refine ⟨?_, ?_⟩
  · intro s x id lane va bs carry d core asid line fits room
    have laid : line (pushStore s x id lane va bs carry) = lineSet (line s) (va.toNat % 128) bs :=
      overlay_pushStore room fits d
    refine ⟨?_, fun o n apart => ?_, pushStore_mem room⟩
    · rw [laid, lineBytes_set_same _ fits]
    · rw [laid, lineBytes_set_outside _ fits (apart.imp_right And.left)]
  · intro x addr m l c a core sp plain unfenced reachable canon whole found valid permitted clean
    obtain ⟨u, loaded, mem, sq⟩ :=
      loadLane_hit sp plain unfenced reachable canon whole found valid permitted clean
    rw [loaded]
    exact ⟨rfl, rfl, tblFind_put_same .., fun k other => tblFind_put_other other.symm, mem, sq⟩

end Sys2Proof.Machine

/-! PROOFS. Write-backs that reach their home, and frames that are scrubbed (O43). -/

namespace Sys2Proof.Machine

/-! ### Write-backs (05 R130) -/

/-- A pending write-back is its line's, as no other die's request has taken the line from its holder. -/
def goesHome (s : State) (e : WbEntry) : Prop :=
  tracked s e.asid e.va = false ∨ ((dirFind s e.asid e.va).bind fun d => d.owner.map (·.1)) = some e.die

theorem wbComplete_home {s : State} {e : WbEntry} (h : goesHome s e) : ∃ dir, wbComplete s e =
    { toDram (wbDel s e) e.ma e.data e.poison e.rewritten with dir := dir } := by
  unfold wbComplete
  obtain free | owned := h
  · simp only [free, Bool.not_false, if_true]
    exact ⟨_, rfl⟩
  · obtain ⟨d, listed, owner⟩ := Option.bind_eq_some_iff.1 owned
    have listed : dirFind (wbDel s e) e.asid e.va = some d := listed
    split
    · exact ⟨_, rfl⟩
    · simp only [listed, owner, bne_self_eq_false, Bool.false_eq_true, if_false]
      split <;> exact ⟨_, rfl⟩

theorem wbComplete_taken {s : State} {e : WbEntry} (h : ¬ goesHome s e) : wbComplete s e = wbDel s e := by
  obtain ⟨held, lost⟩ := not_or.1 h
  have held : tracked s e.asid e.va = true := by simpa using held
  simp only [wbComplete, held, Bool.not_true, Bool.false_eq_true, if_false]
  split
  · next d listed =>
    have listed : dirFind s e.asid e.va = some d := listed
    rw [listed] at lost
    exact if_pos (bne_iff_ne.2 lost)
  · rfl

theorem wbComplete_mem_home {s : State} {e : WbEntry} (h : goesHome s e) :
    (wbComplete s e).mem = memSetLine s.mem e.ma e.data := by
  obtain ⟨_, done⟩ := wbComplete_home h
  rw [done]; rfl

theorem wbComplete_wb (s : State) (e : WbEntry) : (wbComplete s e).wb = (wbDel s e).wb := by
  by_cases h : goesHome s e
  · obtain ⟨_, done⟩ := wbComplete_home h
    rw [done]; rfl
  · rw [wbComplete_taken h]

theorem wbDel_gone {s : State} {e x : WbEntry} (h : x ∈ (wbDel s e).wb) : ¬ (x.die = e.die ∧ x.asid = e.asid ∧ x.va = e.va) := by
  rintro ⟨hdie, hasid, hva⟩
  obtain ⟨_, other⟩ := List.mem_filter.1 h
  rw [decide_eq_true hdie, decide_eq_true hasid, decide_eq_true hva] at other
  exact absurd other (by decide)

theorem memByte_setLine_outside {m : Tbl Byte} {a x : Nat} (d : Line) (h : x < a ∨ a + 128 ≤ x) :
    memByte (memSetLine m a d) x = memByte m x :=
  memByte_write_outside (by rwa [bytesOfNat_length])

/-! ### Scrubs (04 R105) -/

/-- Entries kept by their keys are found under those keys. -/
theorem tblFind_filter_keys {α : Type} (t : Tbl α) (p : Nat → Bool) (i : Nat) :
    tblFind (t.filter fun e => p e.1) i = if p i then tblFind t i else none := by
  induction t with
  | nil => simp
  | cons e r ih =>
    obtain ⟨k, v⟩ := e
    by_cases hk : k = i
    · subst hk
      cases hp : p k <;> simp [tblFind, hp, ih]
    · cases hp : p k <;> simp [tblFind, hp, hk, ih]

/-- A byte lies in a frame. -/
def inFrame (mfn x : Nat) : Bool := mfn * frameBytes ≤ x && x < (mfn + 1) * frameBytes

theorem inFrame_iff {mfn x : Nat} : inFrame mfn x = true ↔ mfn * frameBytes ≤ x ∧ x < (mfn + 1) * frameBytes := by
  simp [inFrame]

@[simp] theorem zeroFrame_ctxs (s : State) (mfn : Nat) : (zeroFrame s mfn).ctxs = s.ctxs := rfl

theorem memByte_zeroFrame (s : State) (mfn x : Nat) :
    memByte (zeroFrame s mfn).mem x = if inFrame mfn x then 0 else memByte s.mem x := by
  have kept : (zeroFrame s mfn).mem = s.mem.filter fun e => !inFrame mfn e.1 := rfl
  rw [kept, memByte, tblGet, tblFind_filter_keys s.mem fun k => !inFrame mfn k]
  cases inFrame mfn x <;> rfl

@[simp] theorem ownerOf_setOwner (s : State) (mfn : Nat) (o : Owner) : ownerOf (setOwner s mfn o) mfn = o :=
  tblGet_set_same ..

theorem setMapEntry_mem (s : State) (k cfn : Nat) (e : Option MapEntry) : (setMapEntry s k cfn e).mem =
    match (tblFind s.ctxs k).bind fun c => mapWordAt c cfn with
    | some a => memWrite s.mem a (bytesOfNat 8 (mapWord e))
    | none => s.mem := by
  unfold setMapEntry
  cases (tblFind s.ctxs k).bind fun c => mapWordAt c cfn <;> rfl

/-- The entry that the revoking context gets back, valid. -/
def revokedEntry (s : State) (mfn k cfn : Nat) : MapEntry :=
  { ((tblFind s.ctxs k).bind fun c => tblFind c.map cfn).getD ⟨.valid, true, true, mfn⟩ with state := .valid }

/-- The machine address of the word of the frame map that the end of a scrub writes. -/
def revokedWord (s : State) (mfn : Nat) : Option Nat :=
  (revoker s mfn).bind fun r => (tblFind s.ctxs r.1).bind fun c => mapWordAt c r.2

/-- The end of a scrub: the frame is zero, the revoking context has its entry back, and the frame goes to a holder. -/
theorem finishScrub_eq {s : State} {mfn : Nat} (h : scrubbing s mfn = true) : ∃ holder, finishScrub s mfn =
    wake (setOwner
      (match revoker s mfn with
        | none => zeroFrame s mfn
        | some (k, cfn) => setMapEntry (zeroFrame s mfn) k cfn (some (revokedEntry s mfn k cfn)))
      mfn { ownerOf s mfn with state := .held, holder := holder, scrubs := (ownerOf s mfn).scrubs + 1 }) := by
  simp only [finishScrub, h, Bool.not_true, Bool.false_eq_true, if_false]
  cases revoker s mfn <;> exact ⟨_, rfl⟩

theorem ownerOf_finishScrub {s : State} {mfn : Nat} (h : scrubbing s mfn = true) : ∃ holder,
    ownerOf (finishScrub s mfn) mfn =
      { ownerOf s mfn with state := .held, holder := holder, scrubs := (ownerOf s mfn).scrubs + 1 } := by
  obtain ⟨holder, done⟩ := finishScrub_eq h
  exact ⟨holder, by rw [done]; exact ownerOf_setOwner ..⟩

theorem finishScrub_mem_of_revoker {s : State} {mfn k cfn a : Nat} (h : scrubbing s mfn = true)
    (back : revoker s mfn = some (k, cfn)) (word : revokedWord s mfn = some a) : (finishScrub s mfn).mem =
      memWrite (zeroFrame s mfn).mem a (bytesOfNat 8 (mapWord (some (revokedEntry s mfn k cfn)))) := by
  obtain ⟨holder, done⟩ := finishScrub_eq h
  have at_ : ((tblFind (zeroFrame s mfn).ctxs k).bind fun c => mapWordAt c cfn) = some a := by
    simpa only [revokedWord, back, Option.bind_some, zeroFrame_ctxs] using word
  rw [done, back]
  exact (setMapEntry_mem ..).trans (by rw [at_])

theorem finishScrub_mem_of_no_word {s : State} {mfn : Nat} (h : scrubbing s mfn = true) (word : revokedWord s mfn = none) :
    (finishScrub s mfn).mem = (zeroFrame s mfn).mem := by
  obtain ⟨holder, done⟩ := finishScrub_eq h
  rw [done]
  cases back : revoker s mfn with
  | none => rfl
  | some r =>
    have at_ : ((tblFind (zeroFrame s mfn).ctxs r.1).bind fun c => mapWordAt c r.2) = none := by
      simpa only [revokedWord, back, Option.bind_some, zeroFrame_ctxs] using word
    exact (setMapEntry_mem ..).trans (by rw [at_])

/-- Besides the word of the frame map, the end of a scrub changes the frame alone. -/
theorem byteAt_finishScrub {s : State} {mfn x : Nat} (h : scrubbing s mfn = true)
    (apart : ¬ ∃ a, revokedWord s mfn = some a ∧ a ≤ x ∧ x < a + 8) :
    byteAt (finishScrub s mfn) x = memByte (zeroFrame s mfn).mem x := by
  cases word : revokedWord s mfn with
  | none => rw [byteAt, finishScrub_mem_of_no_word h word]
  | some a =>
    obtain ⟨⟨k, cfn⟩, back, _⟩ := Option.bind_eq_some_iff.1 word
    rw [byteAt, finishScrub_mem_of_revoker h back word]
    have outside : ¬ (a ≤ x ∧ x < a + 8) := fun inside => apart ⟨a, word, inside⟩
    exact memByte_write_outside (by rw [bytesOfNat_length]; omega)

/-- Settles O43: a write-back either sets its line in memory or leaves memory (`wbComplete_home`, `wbComplete_taken`),
and the end of a scrub zeroes the frame and writes one word of a frame map (`finishScrub_eq`). -/
theorem writeBacks : Obligations.WriteBacks := by
  unfold Obligations.WriteBacks
  refine ⟨fun s e => ⟨?_, ?_, ?_⟩, fun s mfn scrubs => ⟨?_, ?_, ?_, ?_, ?_⟩⟩
  · intro home
    have mem := wbComplete_mem_home home
    exact ⟨mem ▸ memLine_setLine .., fun x outside => (congrArg (memByte · x) mem).trans (memByte_setLine_outside _ outside)⟩
  · exact fun taken => (congrArg State.mem (wbComplete_taken taken)).trans rfl
  · exact fun x left => wbDel_gone (wbComplete_wb s e ▸ left)
  · intro x low high apart
    rw [byteAt_finishScrub scrubs apart, memByte_zeroFrame, if_pos (inFrame_iff.2 ⟨low, high⟩)]
  · intro x outside apart
    rw [byteAt_finishScrub scrubs apart, memByte_zeroFrame, if_neg (by rw [inFrame_iff]; omega)]
    rfl
  · intro k cfn c e a back ctx entry word
    have at_ : revokedWord s mfn = some a := by simp [revokedWord, back, ctx, word]
    have returned : revokedEntry s mfn k cfn = { e with state := .valid } := by simp [revokedEntry, ctx, entry]
    rw [finishScrub_mem_of_revoker scrubs back at_, returned]
    simpa only [bytesOfNat_length] using
      memBytes_write_same (zeroFrame s mfn).mem a (bytesOfNat 8 (mapWord (some { e with state := .valid })))
  · obtain ⟨holder, owner⟩ := ownerOf_finishScrub scrubs
    simp [scrubbing, owner]
  · obtain ⟨holder, owner⟩ := ownerOf_finishScrub scrubs
    rw [owner]

end Sys2Proof.Machine

/-! PROOFS. The event rows of the memory system (O42). -/

namespace Sys2Proof.Machine

/-! ### Store queues and leases (05 R118, R121, R123) -/

section
variable {s : State} {core : Nat} {e : StoreEntry}

theorem exec_storePerform_late (input : s.input = .storePerform core)
    (late : s.late.find? (fun e => e.core = core) = some e) : exec .storePerform s = .next (wake (performLate s e)) := by
  change execStorePerform s = _
  simp only [execStorePerform, input, late]

theorem exec_storePerform_queued (input : s.input = .storePerform core)
    (noLate : s.late.find? (fun e => e.core = core) = none) (oldest : s.sq.find? (fun e => e.core = core) = some e)
    (free : heldRequest s (dieOfCore core) e.asid e.va true = false) :
    exec .storePerform s = .next (wake (performEntry s e)) := by
  change execStorePerform s = _
  simp [execStorePerform, input, noLate, oldest, free]

end

theorem exec_acquireLeaseExpiry {s : State} {die asid : Nat} {va : Long} (input : s.input = .acquireLeaseExpiry die asid va) :
    exec .acquireLeaseExpiry s = .next { s with l2 := s.l2.map fun l =>
      if l.die = die && l.asid = asid && l.va = lineOf va.toNat && l.aq ≤ s.clock then { l with aq := 0 } else l } := by
  change execAcquireLeaseExpiry s = _
  simp only [execAcquireLeaseExpiry, input]

/-! ### The directory (05 R129, R130) -/

/-- A die may ask for a line on behalf of a context: both exist, and in mode 4 the context lies in the die's partition
or is the root. -/
def mayAsk (s : State) (die ctx : Nat) : Prop :=
  die < 4 ∧ (tblFind s.ctxs ctx).isSome ∧ (s.mode = 4 → ctx ≤ 1 ∨ die = engineDie 16 s ctx)

theorem not_refused_of_mayAsk {s : State} {die ctx : Nat} (may : mayAsk s die ctx) :
    (4 ≤ die || (tblFind s.ctxs ctx).isNone || (s.mode = 4 && 1 < ctx && die != engineDie 16 s ctx)) = false := by
  obtain ⟨hdie, hctx, hmode⟩ := may
  obtain ⟨c, hc⟩ := Option.isSome_iff_exists.1 hctx
  simp only [hc, Option.isNone_some, Bool.or_false, Bool.or_eq_false_iff, decide_eq_false_iff_not, Nat.not_le]
  refine ⟨hdie, ?_⟩
  by_cases m : s.mode = 4
  · obtain root | home := hmode m
    · simp [Nat.not_lt.2 root]
    · simp [home]
  · simp [m]

section
variable {s t : State} {die ctx : Nat} {va : Long} {ln : L2Line}

theorem exec_directoryRead (input : s.input = .directoryRead die ctx va) (may : mayAsk s die ctx)
    (free : heldRequest s die (asidOf ctx va) (lineOf va.toNat) false = false)
    (read : l2Read s ⟨ctx, die, none, true⟩ va .load = .ok (t, ln)) : exec .directoryRead s = .next (wake t) := by
  change execDirectoryRead s = _
  simp [execDirectoryRead, input, not_refused_of_mayAsk may, free, read]

theorem exec_directoryWrite (input : s.input = .directoryWrite die ctx va) (may : mayAsk s die ctx)
    (free : heldRequest s die (asidOf ctx va) (lineOf va.toNat) true = false)
    (own : l2Own s ⟨ctx, die, none, true⟩ va .store = .ok (t, ln)) : exec .directoryWrite s = .next (wake t) := by
  change execDirectoryWrite s = _
  simp [execDirectoryWrite, input, not_refused_of_mayAsk may, free, own]

end

theorem exec_directoryWriteBack {s : State} {die asid : Nat} {va : Long} {e : WbEntry}
    (input : s.input = .directoryWriteBack die asid va)
    (pending : s.wb.find? (fun e => e.die = die && e.asid = asid && e.va = lineOf va.toNat) = some e) :
    exec .directoryWriteBack s = .next (wbComplete s e) := by
  change execDirectoryWriteBack s = _
  simp only [execDirectoryWriteBack, input, pending]

/-! ### What a check finds (04 R87, 05 R116, R125, 08 R187) -/

/-- What a check of a site does. -/
def eccAt (s : State) (site : EccSite) (found : EccResult) : State :=
  match site with
  | .dram ma => dramEcc s ma.toNat found
  | .l1 core ctx va => if found = .clean then s else l1Parity s core ctx va
  | .l2 die asid va => l2Ecc s die asid va found
  | .dir asid va =>
    if found = .corrected && (dirFind s asid (lineOf va.toNat)).isSome then count s 15 (dirSlice asid va.toNat) 1 else s
  | .scratch block off => wake (scratchEcc s block off found)

theorem exec_patrolScrub {s : State} {site : EccSite} {found : EccResult} (input : s.input = .patrolScrub site found) :
    exec .patrolScrub s = .next (eccAt s site found) := by
  change execPatrolScrub s = _
  simp only [execPatrolScrub, input]
  cases site <;> rfl

theorem dramEcc_clean (s : State) (a : Nat) : dramEcc s a .clean = s := by
  unfold dramEcc
  cases regionOf s a <;> rfl

theorem dramEcc_corrected {s : State} {a : Nat} (h : regionOf s a = .stack) :
    dramEcc s a .corrected = count s 33 (stackPlace s a).1 1 := by
  simp only [dramEcc, h]

theorem dramEcc_uncorrectable {s : State} {a : Nat} (h : regionOf s a = .stack ∨ regionOf s a = .tier) :
    dramEcc s a .uncorrectable =
      { s with poison := tblSet false s.poison (a / 64) true, rewritten := tblSet 0 s.rewritten (a / 128) 0 } := by
  obtain h | h := h <;> simp only [dramEcc, h]

theorem l1Find_names {s : State} {core ctx asid va : Nat} {l : L1Line} (h : l1Find s core ctx asid va = some l) :
    l.core = core ∧ l.ctx = ctx ∧ l.asid = asid ∧ l.va = va := by
  have named := List.find?_some h
  simpa [and_assoc] using named

theorem l1Parity_of_find {s : State} {core ctx : Nat} {va : Long}
    (h : (l1Find s core ctx (asidOf ctx va) (lineOf va.toNat)).isSome) :
    l1Parity s core ctx va = count { s with l1 := s.l1.filter fun x =>
      !(x.core = core && x.ctx = ctx && x.asid = asidOf ctx va && x.va = lineOf va.toNat) } 2 core 1 := by
  obtain ⟨l, found⟩ := Option.isSome_iff_exists.1 h
  obtain ⟨hcore, hctx, hasid, hva⟩ := l1Find_names found
  simp only [l1Parity, found, hcore, hctx, hasid, hva]

theorem l2Ecc_clean (s : State) (die asid : Nat) (va : Long) : l2Ecc s die asid va .clean = s := by
  unfold l2Ecc
  cases l2Find s die asid (lineOf va.toNat) <;> rfl

section
variable {s : State} {die asid : Nat} {va : Long} {ln : L2Line}
  (held : l2Find s die asid (lineOf va.toNat) = some ln)
include held

theorem l2Ecc_corrected : l2Ecc s die asid va .corrected = count s 9 (die * 16 + l2Slice ln.va) 1 := by
  simp only [l2Ecc, held]

theorem l2Ecc_dirty (dirty : ln.st = .m ∨ ln.st = .o) : l2Ecc s die asid va .uncorrectable =
    count (l2Set! s { ln with poison := 3, rewritten := 0 }) 10 (die * 16 + l2Slice ln.va) 1 := by
  simp [l2Ecc, held, dirty]

/-- A clean line that is lost is fetched again. -/
theorem l2Ecc_refetched {t : State} {l : L2Line} (notM : ln.st ≠ .m) (notO : ln.st ≠ .o)
    (read : l2Read (l2Evict s ln) ⟨Nat.max 1 asid, die, none, true⟩ va .load = .ok (t, l)) :
    l2Ecc s die asid va .uncorrectable = t := by
  simp [l2Ecc, held, notM, notO, read]

end

theorem scratchEcc_clean (s : State) (block off : Nat) : scratchEcc s block off .clean = s := by
  unfold scratchEcc
  cases tblFind s.blocks block <;> rfl

theorem scratchEcc_corrected {s : State} {block off : Nat} {b : Block} (h : tblFind s.blocks block = some b) :
    scratchEcc s block off .corrected = count s 39 b.core 1 := by
  simp only [scratchEcc, h]

theorem scratchEcc_uncorrectable {s : State} {block off : Nat} {b : Block} (h : tblFind s.blocks block = some b) :
    scratchEcc s block off .uncorrectable = updBlock s block fun b => { b with
      poison := off / 4 :: b.poison.filter fun w => w != off / 4 } := by
  simp only [scratchEcc, h]

/-- A check that finds nothing leaves the machine, but for the paths that a scratchpad's check wakes. -/
theorem eccAt_clean {s : State} {site : EccSite} (h : ∀ b off, site ≠ .scratch b off) : eccAt s site .clean = s := by
  cases site with
  | dram ma => exact dramEcc_clean ..
  | l1 core ctx va => rfl
  | l2 die asid va => exact l2Ecc_clean ..
  | dir asid va => rfl
  | scratch block off => exact absurd rfl (h block off)

theorem exec_frameScrubComplete {s : State} {mfn : Nat} (input : s.input = .frameScrubComplete mfn) :
    exec .frameScrubComplete s = .next (finishScrub s mfn) := by
  change execFrameScrubComplete s = _
  simp only [execFrameScrubComplete, input]

/-- Settles O42: each event does what its row's meaning does where what the row names is there; a check does what it
does at its site (`exec_patrolScrub`). -/
theorem memoryEvents : Obligations.MemoryEvents := by
  unfold Obligations.MemoryEvents
  refine ⟨?_, ?_, ?_, ?_, ?_, ?_, ?_, ?_, ?_, ?_, ?_, ?_, ?_, ?_, ?_, ?_, ?_, ?_⟩
  · exact fun s core e input noLate oldest free => exec_storePerform_queued input noLate oldest free
  · exact fun s core e input late => exec_storePerform_late input late
  · exact fun s die asid va input => exec_acquireLeaseExpiry input
  · exact fun s die ctx va t ln input hdie hctx hmode free read => exec_directoryRead input ⟨hdie, hctx, hmode⟩ free read
  · exact fun s die ctx va t ln input hdie hctx hmode free own => exec_directoryWrite input ⟨hdie, hctx, hmode⟩ free own
  · exact fun s die asid va e input pending => exec_directoryWriteBack input pending
  · exact fun s site input other => by rw [exec_patrolScrub input, eccAt_clean other]
  · exact fun s b off input => by rw [exec_patrolScrub input, eccAt, scratchEcc_clean]
  · exact fun s ma input stack => by rw [exec_patrolScrub input, eccAt, dramEcc_corrected stack]
  · exact fun s ma input dram => by rw [exec_patrolScrub input, eccAt, dramEcc_uncorrectable dram]
  · exact fun s core ctx va found input error copy => by
      rw [exec_patrolScrub input, eccAt, if_neg error, l1Parity_of_find copy]
  · exact fun s die asid va ln input held => by rw [exec_patrolScrub input, eccAt, l2Ecc_corrected held]
  · exact fun s die asid va ln input held dirty => by rw [exec_patrolScrub input, eccAt, l2Ecc_dirty held dirty]
  · exact fun s die asid va ln t l input held notM notO read => by
      rw [exec_patrolScrub input, eccAt, l2Ecc_refetched held notM notO read]
  · exact fun s asid va input entry => by rw [exec_patrolScrub input, eccAt, if_pos (by rw [entry]; rfl)]
  · exact fun s block off b input here => by rw [exec_patrolScrub input, eccAt, scratchEcc_corrected here]
  · exact fun s block off b input here => by rw [exec_patrolScrub input, eccAt, scratchEcc_uncorrectable here]
  · exact fun s mfn input => exec_frameScrubComplete input

end Sys2Proof.Machine

/-! PROOFS. Writes of registers and predicates: the lanes and the registers that a write reaches (O6). -/

namespace Sys2Proof.Machine

/-! ### The lanes that act write one after another (09 R210) -/

/-- If a lane's write gives each of its registers what `put` says, then so do the writes of the lanes of a mask. -/
theorem vGet_foldl_laneList {w : Group → Nat → Group} {put : Nat → Nat → Option Word}
    (writes : ∀ g r k l, k < 32 → l < 32 →
      vGet (w g k) r l = if k = l then (put r l).getD (vGet g r l) else vGet g r l)
    (m : Lanes) (g : Group) (r : Nat) {l : Nat} (hl : l < 32) :
    vGet ((laneList m).foldl w g) r l = if m.getLsbD l then (put r l).getD (vGet g r l) else vGet g r l := by
  have listed : ∀ ls : List Nat, (∀ k ∈ ls, k < 32) → ∀ g,
      vGet (ls.foldl w g) r l = if l ∈ ls then (put r l).getD (vGet g r l) else vGet g r l := by
    intro ls
    induction ls with
    | nil => intro _ g; simp
    | cons k ls ih =>
      intro lanes g
      obtain ⟨hk, rest⟩ := List.forall_mem_cons.1 lanes
      rw [List.foldl_cons, ih rest, writes g r k l hk hl]
      by_cases here : k = l
      · cases put r l <;> simp [here]
      · simp [here, Ne.symm here]
  rw [listed _ fun k hk => (mem_laneList.1 hk).1]
  simp [mem_laneList, hl]

/-- Writes that change lane registers alone do so one after another too. -/
theorem foldl_eq_of_v_only {α : Type} {w : Group → α → Group} (writes : ∀ g x, w g x = { g with v := (w g x).v })
    (xs : List α) (g : Group) : xs.foldl w g = { g with v := (xs.foldl w g).v } := by
  induction xs generalizing g with
  | nil => rfl
  | cons x xs ih => rw [List.foldl_cons, ih, writes]

/-! ### A destination -/

/-- One lane's write of a destination of `n` registers. -/
def writeLane (d : Dst) (n : Nat) (f : Nat → Long) (g : Group) (l : Nat) : Group :=
  if n = 2 then vSet64 g d.reg.toNat l (f l) else vSet g d.reg.toNat l ((f l).setWidth 32)

/-- What it gives a register of the lane. -/
def lanePut (d : Dst) (n : Nat) (f : Nat → Long) (r l : Nat) : Option Word :=
  if r = d.reg.toNat then some ((f l).setWidth 32)
  else if n = 2 ∧ r = d.reg.toNat + 1 then some ((f l).extractLsb' 32 32)
  else none

theorem writeDst_eq_foldl {d : Dst} (h : d.file = .lane) (g : Group) (n : Nat) (m : Lanes) (f : Nat → Long) :
    writeDst g d n m f = (laneList m).foldl (writeLane d n f) g := by
  simp only [writeDst, h]; rfl

theorem writeDst_special {d : Dst} (lane : d.file ≠ .lane) (scalar : d.file ≠ .scalar) (g : Group) (n : Nat) (m : Lanes)
    (f : Nat → Long) : writeDst g d n m f = g := by
  cases h : d.file <;> simp_all [writeDst]

theorem writeLane_v_only (d : Dst) (n : Nat) (f : Nat → Long) (g : Group) (l : Nat) :
    writeLane d n f g l = { g with v := (writeLane d n f g l).v } := by
  unfold writeLane
  split <;> rfl

theorem vGet_writeLane (d : Dst) (n : Nat) (f : Nat → Long) (g : Group) (r k l : Nat) (hk : k < 32) (hl : l < 32) :
    vGet (writeLane d n f g k) r l = if k = l then (lanePut d n f r l).getD (vGet g r l) else vGet g r l := by
  have low : (f k).extractLsb' 0 32 = (f k).setWidth 32 := by ext; simp
  by_cases here : k = l
  · subst here
    by_cases pair : n = 2
    · by_cases first : r = d.reg.toNat
      · simp [writeLane, lanePut, vSet64, vGet_vSet_lane, hk, pair, first, low]
      · by_cases second : r = d.reg.toNat + 1
        · simp [writeLane, lanePut, vSet64, vGet_vSet_lane, hk, pair, second]
        · simp [writeLane, lanePut, vSet64, vGet_vSet_lane, hk, pair, first, second, Ne.symm first, Ne.symm second]
    · by_cases first : r = d.reg.toNat
      · simp [writeLane, lanePut, vGet_vSet_lane, hk, pair, first]
      · simp [writeLane, lanePut, vGet_vSet_lane, hk, pair, first, Ne.symm first]
  · unfold writeLane vSet64
    split <;> simp [vGet_vSet_lane, hk, hl, here]

/-- A lane destination is written in the lanes of the mask and nowhere else. -/
theorem vGet_writeDst (g : Group) (d : Dst) (n : Nat) (m : Lanes) (f : Nat → Long) (r : Nat) {l : Nat} (hl : l < 32) :
    vGet (writeDst g d n m f) r l =
      if d.file = .lane ∧ m.getLsbD l then (lanePut d n f r l).getD (vGet g r l) else vGet g r l := by
  by_cases lane : d.file = .lane
  · rw [writeDst_eq_foldl lane, vGet_foldl_laneList (vGet_writeLane d n f) m g r hl]
    simp [lane]
  · by_cases scalar : d.file = .scalar
    · simp [writeDst, scalar]
    · simp [writeDst_special lane scalar, lane]

theorem writeDst_v_only {d : Dst} (h : d.file = .lane) (g : Group) (n : Nat) (m : Lanes) (f : Nat → Long) :
    writeDst g d n m f = { g with v := (writeDst g d n m f).v } := by
  rw [writeDst_eq_foldl h]
  exact foldl_eq_of_v_only (writeLane_v_only d n f) _ g

/-- A scalar destination is written once, with the value of the lowest lane that acts. -/
theorem sGet_writeDst (g : Group) (d : Dst) (n : Nat) (m : Lanes) (f : Nat → Long) (r : Nat) :
    sGet (writeDst g d n m f) r = if d.file = .scalar ∧ r = d.reg.toNat then f (firstLane m) else sGet g r := by
  by_cases lane : d.file = .lane
  · rw [writeDst_v_only lane]
    simp [lane, sGet]
  · by_cases scalar : d.file = .scalar
    · simp [writeDst, scalar, sGet_sSet, eq_comm]
    · simp [writeDst_special lane scalar, scalar]

/-- A write of a destination changes registers and nothing else. -/
theorem writeDst_frame (g : Group) (d : Dst) (n : Nat) (m : Lanes) (f : Nat → Long) :
    writeDst g d n m f = { g with v := (writeDst g d n m f).v, s := (writeDst g d n m f).s } := by
  by_cases lane : d.file = .lane
  · rw [writeDst_v_only lane]
  · by_cases scalar : d.file = .scalar
    · simp [writeDst, scalar, sSet]
    · simp [writeDst_special lane scalar]

/-! ### A predicate (09 R209, R210) -/

/-- A predicate write reaches the lanes of its mask only, and none of p7. -/
theorem pGet_pSet_eq (g : Group) (k : Nat) (m x : Lanes) (j : Nat) :
    pGet (pSet g k m x) j = if j = k ∧ k ≠ 7 then (pGet g k &&& ~~~m) ||| (x &&& m) else pGet g j := by
  by_cases seven : k = 7
  · simp [seven]
  · simp [pGet_pSet g k j m x seven, seven, eq_comm]

theorem pSet_frame (g : Group) (k : Nat) (m x : Lanes) : pSet g k m x = { g with preds := (pSet g k m x).preds } := by
  unfold pSet
  split <;> rfl

/-- Settles O6: the lanes of the mask write in turn, each its own registers (`vGet_writeDst`), and a predicate write
keeps the lanes outside its mask (`pGet_pSet_eq`). -/
theorem registerWrites : Obligations.RegisterWrites := by
  unfold Obligations.RegisterWrites
  refine ⟨fun g d n m f _ => ⟨fun r l hl => ?_, sGet_writeDst g d n m f, writeDst_frame g d n m f⟩,
    fun g k m x => ⟨pGet_pSet_eq g k m x, pGet_seven _, pSet_seven g m x, pSet_frame g k m x⟩⟩
  rw [vGet_writeDst g d n m f r hl]
  unfold lanePut
  by_cases reached : d.file = .lane ∧ m.getLsbD l
  · by_cases first : r = d.reg.toNat
    · simp [reached, first]
    · by_cases second : n = 2 ∧ r = d.reg.toNat + 1
      · simp [reached, second]
      · simp [reached, first, second]
  · have written : ¬ (d.file = .lane ∧ m.getLsbD l ∧ r = d.reg.toNat) := fun ⟨file, lane, _⟩ => reached ⟨file, lane⟩
    have paired : ¬ (d.file = .lane ∧ m.getLsbD l ∧ n = 2 ∧ r = d.reg.toNat + 1) :=
      fun ⟨file, lane, _⟩ => reached ⟨file, lane⟩
    rw [if_neg reached, if_neg written, if_neg paired]

end Sys2Proof.Machine

/-! PROOFS. The tables of results written at issue are what their instructions do: moves, predicates, integers, floats,
conversions and cross-lane results (O1). -/

namespace Sys2Proof.Machine

/-- Where a table gives an instruction a change of its group, that change is what the instruction does when it issues,
and its path goes on. -/
def TellsChange (rule : Instr → Group → Path → Lanes → Option (Group → Group)) : Prop :=
  ∀ (i : Instr) (s : State) (g : Group) (p : Path) (f : Group → Group),
    rule i g p (actLanes g p i) = some f → Issues i s g p → exec i s = .next (changes i s g p f)

/-- Two tables that tell changes do so together, the first one before the second. -/
theorem TellsChange.or {rule rest : Instr → Group → Path → Lanes → Option (Group → Group)} (h : TellsChange rule)
    (hr : TellsChange rest) : TellsChange fun i g p act => (rule i g p act).or (rest i g p act) := by
  intro i s g p f told issues
  obtain first | ⟨_, later⟩ := Option.or_eq_some_iff.1 told
  · exact h i s g p f first issues
  · exact hr i s g p f later issues

/-! Each entry of a table spells out the body that its instruction issues with, so that the two are equal as they
stand (`issue_group`). -/

theorem moveRule_tells : TellsChange moveRule := by
  intro i s g p f told issues
  unfold moveRule at told
  split at told <;> cases told <;> exact issue_group issues rfl

theorem predicateRule_tells : TellsChange predicateRule := by
  intro i s g p f told issues
  unfold predicateRule at told
  split at told <;> cases told <;> exact issue_group issues rfl

theorem integerRule_tells : TellsChange integerRule := by
  intro i s g p f told issues
  unfold integerRule at told
  split at told <;> cases told <;> exact issue_group issues rfl

theorem floatRule_tells : TellsChange floatRule := by
  intro i s g p f told issues
  unfold floatRule at told
  split at told <;> cases told <;> exact issue_group issues rfl

theorem convertRule_tells : TellsChange convertRule := by
  intro i s g p f told issues
  unfold convertRule at told
  split at told <;> cases told <;> exact issue_group issues rfl

theorem crossRule_tells : TellsChange crossRule := by
  intro i s g p f told issues
  unfold crossRule at told
  split at told <;> cases told <;> exact issue_group issues rfl

theorem registerRule_tells : TellsChange registerRule :=
  moveRule_tells.or <| predicateRule_tells.or <| integerRule_tells.or <| floatRule_tells.or <|
    convertRule_tells.or crossRule_tells

/-- Settles O1: both tables tell what their instructions change (`moveRule_tells`, `predicateRule_tells`). -/
theorem registerResults : Obligations.RegisterResults := by
  unfold Obligations.RegisterResults
  exact ⟨moveRule_tells, predicateRule_tells⟩

end Sys2Proof.Machine

/-! PROOFS. The frame of the instructions that write registers and predicates of their group (O52). -/

namespace Sys2Proof.Machine

/-! ### Blocks of lane registers -/

/-- What a block of `n` registers from `base` on gives a register of a lane. -/
def blockPut (base n : Nat) (f : Nat → Nat → Nat) (r l : Nat) : Option Word :=
  if base ≤ r ∧ r < base + n then some (BitVec.ofNat 32 (f l (r - base))) else none

/-- One lane's write of such a block. -/
def writeLaneBlock (base n : Nat) (f : Nat → Nat → Nat) (g : Group) (l : Nat) : Group :=
  (List.range n).foldl (fun g k => vSet g (base + k) l (BitVec.ofNat 32 (f l k))) g

theorem writeLaneBlock_v_only (base n : Nat) (f : Nat → Nat → Nat) (g : Group) (l : Nat) :
    writeLaneBlock base n f g l = { g with v := (writeLaneBlock base n f g l).v } :=
  foldl_eq_of_v_only (fun _ _ => rfl) _ g

theorem vGet_writeLaneBlock (base n : Nat) (f : Nat → Nat → Nat) (g : Group) (r k l : Nat) (hk : k < 32) (hl : l < 32) :
    vGet (writeLaneBlock base n f g k) r l = if k = l then (blockPut base n f r l).getD (vGet g r l) else vGet g r l := by
  unfold blockPut
  induction n with
  | zero => simp [writeLaneBlock, show ¬ (base ≤ r ∧ r < base) by omega]
  | succ n ih =>
    have last : writeLaneBlock base (n + 1) f g k =
        vSet (writeLaneBlock base n f g k) (base + n) k (BitVec.ofNat 32 (f k n)) := by
      simp [writeLaneBlock, List.range_succ]
    rw [last, vGet_vSet_lane hk hl, ih]
    by_cases here : k = l
    · subst here
      by_cases final : base + n = r
      · subst final; simp
      · have same : base ≤ r ∧ r < base + (n + 1) ↔ base ≤ r ∧ r < base + n := by omega
        simp [final, same]
    · simp [here]

/-- A block is written in its registers, in the lanes of the mask, and nowhere else. -/
theorem vGet_writeBlock (g : Group) (base n : Nat) (m : Lanes) (f : Nat → Nat → Nat) (r : Nat) {l : Nat} (hl : l < 32) :
    vGet (writeBlock g base n m f) r l =
      if m.getLsbD l then (blockPut base n f r l).getD (vGet g r l) else vGet g r l :=
  vGet_foldl_laneList (vGet_writeLaneBlock base n f) m g r hl

theorem writeBlock_v_only (g : Group) (base n : Nat) (m : Lanes) (f : Nat → Nat → Nat) :
    writeBlock g base n m f = { g with v := (writeBlock g base n m f).v } :=
  foldl_eq_of_v_only (writeLaneBlock_v_only base n f) _ g

/-! ### What a register instruction may change of its group -/

/-- From group g to group h an instruction that acts in the lanes of a mask changes only the registers and predicates
that it names, in those lanes, the scales if it is SETSCL, and IDEM. -/
structure ChangesNamed (i : Instr) (act : Lanes) (g h : Group) : Prop where
  rest : h = { g with v := h.v, s := h.s, preds := h.preds, scl := h.scl, idem := h.idem }
  lanes : ∀ r l, l < 32 → act.getLsbD l = false ∨ ¬ namesDst i .lane r → vGet h r l = vGet g r l
  scalars : ∀ r, ¬ namesDst i .scalar r → sGet h r = sGet g r
  preds : ∀ k l, l < 32 → act.getLsbD l = false ∨ k ∉ predsNamed i → (pGet h k).getLsbD l = (pGet g k).getLsbD l
  scales : (∀ gd k b, i ≠ .setscl gd k b) → h.scl = g.scl

section
variable {i : Instr} {act : Lanes}

theorem ChangesNamed.refl (g : Group) : ChangesNamed i act g g :=
  ⟨rfl, fun _ _ _ _ => rfl, fun _ _ => rfl, fun _ _ _ _ => rfl, fun _ => rfl⟩

theorem ChangesNamed.trans {g h k : Group} (a : ChangesNamed i act g h) (b : ChangesNamed i act h k) :
    ChangesNamed i act g k where
  rest := by rw [b.rest, a.rest]
  lanes r l hl out := (b.lanes r l hl out).trans (a.lanes r l hl out)
  scalars r out := (b.scalars r out).trans (a.scalars r out)
  preds k l hl out := (b.preds k l hl out).trans (a.preds k l hl out)
  scales other := (b.scales other).trans (a.scales other)

theorem ChangesNamed.foldl {α : Type} {w : Group → α → Group} {xs : List α}
    (each : ∀ x ∈ xs, ∀ g, ChangesNamed i act g (w g x)) (g : Group) : ChangesNamed i act g (xs.foldl w g) := by
  induction xs generalizing g with
  | nil => exact .refl g
  | cons x xs ih =>
    obtain ⟨first, rest⟩ := List.forall_mem_cons.1 each
    exact (first g).trans (ih rest (w g x))

theorem changesNamed_pSet {k : Nat} (named : k ∈ predsNamed i) (x : Lanes) (g : Group) :
    ChangesNamed i act g (pSet g k act x) where
  rest := by rw [pSet_frame]
  lanes r l _ _ := vGet_pSet ..
  scalars r _ := sGet_pSet ..
  preds j l hl out := by
    rw [pGet_pSet_eq]
    split
    · next written =>
      obtain ⟨rfl, -⟩ := written
      obtain idle | unnamed := out
      · simp only [BitVec.getLsbD_or, BitVec.getLsbD_and, BitVec.getLsbD_not, idle]
        simp [hl]
      · exact absurd named unnamed
    · rfl
  scales _ := by rw [pSet_frame]

/-! ### Destinations that an instruction names -/

@[simp] theorem one_le_regs (t : Fmt) : 1 ≤ t.regs := by
  unfold Fmt.regs
  split <;> decide

@[simp] theorem regs_i32 : Fmt.regs .i32 = 1 := rfl

/-- The instruction writes `n` registers from a destination on if it is of the lane file, and one of the scalar file. -/
def NamesDsts (i : Instr) (d : Dst) (n : Nat) : Prop :=
  ∃ u ∈ i.uses, u.writes = true ∧ u.file = d.file ∧ u.reg = d.reg.toNat ∧ (d.file = .lane → n ≤ u.count) ∧
    (d.file = .scalar → 1 ≤ u.scount)

theorem namesDsts_of_field {d : Dst} {n : Nat} {u : Use} {us : List Use} (h : i.uses = u :: us) (writes : u.writes = true)
    (file : u.file = d.file) (reg : u.reg = d.reg.toNat) (count : n ≤ u.count) (one : 1 ≤ u.scount) : NamesDsts i d n :=
  ⟨u, h ▸ List.mem_cons_self, writes, file, reg, fun _ => count, fun _ => one⟩

theorem namesDsts_of_uses {d : Dst} {files : List RegFile} {n c : Nat} {us : List Use}
    (h : i.uses = d.use files c :: us) (fits : n ≤ c := by simp) : NamesDsts i d n :=
  namesDsts_of_field h rfl rfl rfl fits Nat.le.refl

theorem NamesDsts.lane {d : Dst} {n : Nat} (h : NamesDsts i d n) (file : d.file = .lane) {r : Nat}
    (low : d.reg.toNat ≤ r) (high : r < d.reg.toNat + n) : namesDst i .lane r := by
  obtain ⟨u, listed, writes, hfile, hreg, count, -⟩ := h
  have span : u.span = u.count := by simp [Use.span, hfile, file]
  have := count file
  exact ⟨u, listed, writes, hfile.trans file, by omega, by omega⟩

theorem NamesDsts.scalar {d : Dst} {n : Nat} (h : NamesDsts i d n) (file : d.file = .scalar) :
    namesDst i .scalar d.reg.toNat := by
  obtain ⟨u, listed, writes, hfile, hreg, -, count⟩ := h
  have span : u.span = u.scount := by simp [Use.span, hfile, file]
  have := count file
  exact ⟨u, listed, writes, hfile.trans file, by omega, by omega⟩

theorem changesNamed_writeDst {d : Dst} {n : Nat} (named : NamesDsts i d n) (f : Nat → Long) (g : Group)
    (one : 1 ≤ n := by simp) :
    ChangesNamed i act g (writeDst g d n act f) where
  rest := by rw [writeDst_frame]
  lanes r l hl out := by
    rw [vGet_writeDst g d n act f r hl]
    split
    · next reached =>
      obtain ⟨file, acts⟩ := reached
      have unnamed : ¬ namesDst i .lane r := out.resolve_left (by simp [acts])
      have first : r ≠ d.reg.toNat := fun e => unnamed (named.lane file (by omega) (by omega))
      have second : ¬ (n = 2 ∧ r = d.reg.toNat + 1) := fun ⟨_, _⟩ => unnamed (named.lane file (by omega) (by omega))
      simp [lanePut, first, second]
    · rfl
  scalars r unnamed := by
    rw [sGet_writeDst, if_neg]
    rintro ⟨file, rfl⟩
    exact unnamed (named.scalar file)
  preds k l _ _ := by rw [writeDst_frame]; rfl
  scales _ := by rw [writeDst_frame]

theorem changesNamed_writeBlock {d : Dst} {n : Nat} (named : NamesDsts i d n) (file : d.file = .lane) (f : Nat → Nat → Nat)
    (g : Group) : ChangesNamed i act g (writeBlock g d.reg.toNat n act f) where
  rest := by rw [writeBlock_v_only]
  lanes r l hl out := by
    rw [vGet_writeBlock g _ n act f r hl]
    split
    · next acts =>
      have unnamed : ¬ namesDst i .lane r := out.resolve_left (by simp [acts])
      rw [blockPut, if_neg fun ⟨low, high⟩ => unnamed (named.lane file low high)]
      rfl
    · rfl
  scalars r _ := by rw [writeBlock_v_only]; rfl
  preds k l _ _ := by rw [writeBlock_v_only]; rfl
  scales _ := by rw [writeBlock_v_only]

/-- The fields of a well-formed instruction pass the checks of 02 R37, R38. -/
theorem use_ok_of_wf (wf : i.wf = true) {u : Use} (named : u ∈ i.uses) : u.ok = true := by
  simp only [Instr.wf, Instr.operandOk, Bool.and_eq_true] at wf
  obtain ⟨_, ⟨⟨uses, _⟩, _⟩, _⟩ := wf
  exact List.all_eq_true.1 uses u named

theorem file_eq_lane_of_wf (wf : i.wf = true) {u : Use} {us : List Use} (uses : i.uses = u :: us) (lane : u.files = fileV) :
    u.file = .lane := by
  have ok := use_ok_of_wf wf (u := u) (uses ▸ List.mem_cons_self)
  simp only [Use.ok, lane, Bool.and_eq_true] at ok
  simpa [fileV] using ok.1

end

/-! ### The tables -/

/-- What a table tells of a well-formed instruction changes only what the instruction names. -/
def TellsNamed (rule : Instr → Group → Path → Lanes → Option (Group → Group)) : Prop :=
  ∀ (i : Instr) (g : Group) (p : Path) (act : Lanes) (f : Group → Group),
    i.wf = true → rule i g p act = some f → ∀ h, ChangesNamed i act h (f h)

theorem TellsNamed.or {rule rest : Instr → Group → Path → Lanes → Option (Group → Group)} (h : TellsNamed rule)
    (hr : TellsNamed rest) : TellsNamed fun i g p act => (rule i g p act).or (rest i g p act) := by
  intro i g p act f wf told
  obtain first | ⟨_, later⟩ := Option.or_eq_some_iff.1 told
  · exact h i g p act f wf first
  · exact hr i g p act f wf later

theorem moveRule_named : TellsNamed moveRule := by
  intro i g p act f wf told h
  unfold moveRule at told
  split at told <;> cases told
  · exact changesNamed_writeDst (namesDsts_of_uses rfl) _ h
  · exact changesNamed_writeDst (namesDsts_of_uses rfl) _ h
  · next d _ =>
    exact changesNamed_writeDst (n := 1) (namesDsts_of_field (u := d.readWriteUse fileS) rfl rfl rfl rfl Nat.le.refl Nat.le.refl) _ h
  · exact changesNamed_writeDst (namesDsts_of_uses rfl) _ h
  · exact changesNamed_pSet List.mem_cons_self _ h
  · exact changesNamed_pSet List.mem_cons_self _ h
  · exact changesNamed_writeDst (namesDsts_of_uses rfl) _ h
  · exact ChangesNamed.foldl (fun k named g => changesNamed_pSet named _ g) h
  · exact changesNamed_writeDst (namesDsts_of_uses rfl) _ h
  · exact ⟨rfl, fun _ _ _ _ => rfl, fun _ _ => rfl, fun _ _ _ _ => rfl, fun other => absurd rfl (other _ _ _)⟩
  · exact changesNamed_pSet List.mem_cons_self _ h
  · exact ⟨rfl, fun _ _ _ _ => rfl, fun _ _ => rfl, fun _ _ _ _ => rfl, fun _ => rfl⟩

theorem predicateRule_named : TellsNamed predicateRule := by
  intro i g p act f wf told h
  unfold predicateRule at told
  split at told <;> cases told
  · exact changesNamed_pSet List.mem_cons_self _ h
  · exact changesNamed_pSet List.mem_cons_self _ h
  · exact changesNamed_pSet List.mem_cons_self _ h
  · exact (changesNamed_writeDst (namesDsts_of_uses rfl) _ h).trans (changesNamed_pSet List.mem_cons_self _ _)

theorem integerRule_named : TellsNamed integerRule := by
  intro i g p act f wf told h
  unfold integerRule at told
  split at told <;> cases told <;> exact changesNamed_writeDst (namesDsts_of_uses rfl) _ h

theorem floatRule_named : TellsNamed floatRule := by
  intro i g p act f wf told h
  unfold floatRule at told
  split at told <;> cases told <;> exact changesNamed_writeDst (namesDsts_of_uses rfl) _ h

theorem uses_qntg_packed (gd : Guard) (rm : RMode) (t : Fmt) (d : Dst) (a : Src) (b z : Option Src) : ∃ us,
    (Instr.qntg gd false rm t d a b z).uses = (if t = .int3g then (d.use fileV 3).aligned 4 else d.use fileV) :: us :=
  ⟨_, rfl⟩

theorem convertRule_named : TellsNamed convertRule := by
  intro i g p act f wf told h
  unfold convertRule at told
  split at told <;> cases told
  · exact changesNamed_writeDst (namesDsts_of_uses rfl) _ h
  · exact changesNamed_writeBlock (namesDsts_of_uses rfl) (file_eq_lane_of_wf wf rfl rfl) _ h
  · next gd rm t d a b z =>
    obtain ⟨us, uses⟩ := uses_qntg_packed gd rm t d a b z
    by_cases three : t = .int3g
    · rw [if_pos three] at uses ⊢
      exact changesNamed_writeBlock (namesDsts_of_field uses rfl rfl rfl Nat.le.refl Nat.le.refl) (file_eq_lane_of_wf wf uses rfl) _ h
    · rw [if_neg three] at uses ⊢
      exact changesNamed_writeBlock (namesDsts_of_uses uses) (file_eq_lane_of_wf wf uses rfl) _ h
  · next d _ _ _ =>
    exact changesNamed_writeBlock (namesDsts_of_field (u := (d.use fileV 8).aligned 8) rfl rfl rfl rfl Nat.le.refl Nat.le.refl)
      (file_eq_lane_of_wf wf rfl rfl) _ h

theorem crossRule_named : TellsNamed crossRule := by
  intro i g p act f wf told h
  unfold crossRule at told
  split at told <;> cases told
  · next d _ _ pv =>
    cases pv with
    | none => exact changesNamed_writeDst (namesDsts_of_uses rfl) _ h
    | some k => exact (changesNamed_writeDst (namesDsts_of_uses rfl) _ h).trans (changesNamed_pSet List.mem_cons_self _ _)
  · exact changesNamed_writeDst (namesDsts_of_uses rfl) _ h
  · exact changesNamed_pSet List.mem_cons_self _ h
  · exact changesNamed_writeDst (namesDsts_of_uses rfl) _ h
  · exact changesNamed_writeDst (namesDsts_of_uses rfl) _ h
  · exact changesNamed_writeDst (namesDsts_of_uses rfl) _ h
  · exact changesNamed_writeBlock (namesDsts_of_uses rfl) (file_eq_lane_of_wf wf rfl rfl) _ h
  · exact changesNamed_writeDst (namesDsts_of_uses rfl) _ h

theorem registerRule_named : TellsNamed registerRule :=
  moveRule_named.or <| predicateRule_named.or <| integerRule_named.or <| floatRule_named.or <|
    convertRule_named.or crossRule_named

/-! ### The group after an issue -/

/-- The group of the path as its instruction issues. -/
def issuedGroup (i : Instr) (g : Group) (p : Path) : Group :=
  { updPath g p.lanes agePath with idem := g.idem && (p.await.isSome || !clearsIdem i) }

/-- A group whose path goes on: `next` is its path's step, and the path's split has lost its boost. -/
def groupGoesOn (p : Path) (next : Path → Path) (g : Group) : Group :=
  { updPath g p.lanes next with splits := g.splits.map fun x => if x.num = p.split then { x with boost := false } else x }

theorem find_advance {u : State} {c : Ins} {h : Group} (found : tblFind u.groups c.gid = some h) :
    ∃ next, tblFind (advance u c).groups c.gid = some (updPath h c.p.lanes next) := by
  have kept : tblFind (heldValue u c).2.groups c.gid = some h := by
    obtain same | free := heldValue_state u c
    · rw [same, found]
    · rw [free]; exact found
  unfold advance
  generalize heldValue u c = held at kept
  exact ⟨_, (find_updGroup held.2 ..).trans (by rw [if_pos rfl, kept]; rfl)⟩

theorem find_goesOn {i : Instr} {s u : State} {g h : Group} {p : Path} (found : tblFind u.groups s.gid = some h) :
    ∃ next, tblFind (goesOn i s g p u).groups s.gid = some (groupGoesOn p next h) := by
  obtain ⟨next, moved⟩ := find_advance (c := insOf i s g p) found
  exact ⟨next, (find_updGroup ..).trans (by rw [if_pos rfl, show s.gid = (insOf i s g p).gid from rfl, moved]; rfl)⟩

theorem find_changes {i : Instr} {s : State} {g : Group} {p : Path} (turn : issuing s = some (g, p)) (f : Group → Group) :
    ∃ next, tblFind (changes i s g p f).groups s.gid = some (groupGoesOn p next (f (issuedGroup i g p))) := by
  obtain ⟨found, -⟩ := issuing_eq_some.1 turn
  refine find_goesOn ?_
  simp [atIssue, issued, insOf, find_updGroup, found, issuedGroup]

theorem mem_paths_updPath {g : Group} {m : Lanes} {f : Path → Path} {q : Path} (h : q ∈ g.paths) (other : q.lanes ≠ m) :
    q ∈ (updPath g m f).paths :=
  List.mem_map.2 ⟨q, h, if_neg other⟩

theorem changes_frame (i : Instr) (s : State) (g : Group) (p : Path) (f : Group → Group) : changes i s g p f =
    { s with groups := (changes i s g p f).groups, stalled := [], free := (changes i s g p f).free } :=
  goesOn_frame ..

theorem find_changes_other (i : Instr) (s : State) (g : Group) (p : Path) (f : Group → Group) {k : Nat} (other : k ≠ s.gid) :
    tblFind (changes i s g p f).groups k = tblFind s.groups k := by
  rw [changes, goesOn_others other.symm, find_updGroup, if_neg other.symm]
  exact (find_updGroup ..).trans (if_neg other.symm)

/-- Settles O52: the instruction does what its table tells (`registerRule_tells`), which changes only what it names
(`registerRule_named`), and the end of its issue moves its own path and split (`find_changes`). -/
theorem registerFrame : Obligations.RegisterFrame := by
  unfold Obligations.RegisterFrame
  intro i s t g p f issues wf told ran
  rw [registerRule_tells i s g p f told issues] at ran
  cases ran
  obtain ⟨next, found⟩ := find_changes issues.turn f
  obtain ⟨rest, lanes, scalars, preds, scales⟩ := registerRule_named i g p (actLanes g p i) f wf told (issuedGroup i g p)
  refine ⟨changes_frame i s g p f, fun k other => find_changes_other i s g p f other, _, found, ?_, lanes, scalars, preds,
    scales, fun q mem other => ?_⟩
  · unfold groupGoesOn
    rw [rest]
    rfl
  · have paths : (f (issuedGroup i g p)).paths = (issuedGroup i g p).paths := by rw [rest]
    exact mem_paths_updPath (paths ▸ mem_paths_updPath mem other) other

end Sys2Proof.Machine

/-! PROOFS. Special registers, format, extended chunks, full/empty and sorts (O4). -/

namespace Sys2Proof.Machine

/-- Settles O4: the hypotheses are the checks of each instruction's own body, which is then the effect stated. -/
theorem groupResults : Obligations.GroupResults := by
  unfold Obligations.GroupResults
  refine ⟨⟨?getc, ?setc, ?setfmt⟩, ⟨?racq, ?rrel, ?fewait⟩, ?topk, ?bsort⟩
  case getc =>
    intro gd hi d idx s g p issues free
    exact issue_group issues (if_neg (by simp [insOf, free]))
  case setc =>
    intro gd hi idx a s g p i l x issues free valid
    have passes : ¬ (idx.toNat = 0x10 && !fmtValid (x.setWidth 32)) = true := by simpa using valid
    exact issue_group issues ((if_neg (by simp [insOf, free])).trans (if_neg passes))
  case setfmt =>
    intro gd m b s g p i y x issues valid
    have passes : ¬ (!fmtValid x) = true := by simp [valid]
    exact issue_group issues (if_neg passes)
  case racq =>
    intro gd try_ mask pd s g p i u issues asks fits holdsNone alone first pool
    have new : ¬ p.await = some .racq := by simp [issues.new]
    have fresh : ¬ (g.chunks != 0) = true := by simp [holdsNone]
    have single : ¬ (g.splits.length != 1) = true := by simp [alone]
    have granted : (tblGet [] u.chunkQ g.quad = [] && chunkCount mask ≤ poolFree u g.quad) = true := by simp [first, pool]
    exact issue_done issues <| (if_neg new).trans <| (if_neg asks).trans <| (if_neg (Nat.not_lt.2 fits)).trans <|
      (if_neg fresh).trans <| (if_neg single).trans (if_pos granted)
  case rrel =>
    intro gd mask s g p i issues alone full
    exact issue_group issues ((if_neg (by simp [insOf, alone])).trans (if_neg (by simp [insOf, full])))
  case fewait =>
    intro gd r s g p issues full
    exact issue_done issues (if_neg (by simp [insOf, full]))
  case topk =>
    intro gd w t d a b k seg pf s g p i c S val sticky flags issues
    exact issue_done issues rfl
  case bsort =>
    intro gd desc t d a b seg s g p i c at_ issues
    exact issue_done issues rfl

end Sys2Proof.Machine

/-! PROOFS. The event rows of the groups: an EVWAIT whose timeout comes while it waits in a trap frame (O44). -/

namespace Sys2Proof.Machine

/-- A path of split 0 that waits in an EVWAIT up to clock 0. -/
def waitingPath : Path := { placedPath with await := some (.evwait 1 (some 0)) }

/-- Its group, in the handler of a trap: the path waits in the trap frame, where what it has issued goes on (17 R390). -/
def handlingGroup : Group :=
  { placedGroup with handler := true, frame := some ⟨[waitingPath], [], [], [], 0, 0x100, 0, []⟩ }

/-- The machine with that group, at the event of the timeout. -/
def waitsInFrame : State := { State.reset with groups := [(3, handlingGroup)], input := .evwaitTimeout 3 0 }

/-- What the paths of the trap frame wait for after a step. -/
def frameAwaits : Host.Outcome State Fault Refusal → List (Option Await)
  | .next t => (((tblFind t.groups 3).bind (·.frame)).map (·.paths.map (·.await))).getD []
  | .fault _ | .refused _ => []

theorem frameAwaits_evwaitTimeout : frameAwaits (exec .evwaitTimeout waitsInFrame) = [some (.answer 0)] := rfl

/-- Refutes O44: the timeout also answers an EVWAIT that waits in its group's trap frame, and the row of the timeout
leaves that frame as it was. -/
theorem not_groupEvents : ¬ Obligations.GroupEvents := by
  unfold Obligations.GroupEvents
  rintro ⟨-, -, timeout, -⟩
  have kept : frameAwaits (exec .evwaitTimeout waitsInFrame) = [some (.evwait 1 (some 0))] :=
    congrArg frameAwaits (timeout waitsInFrame 3 0 handlingGroup rfl rfl)
  rw [frameAwaits_evwaitTimeout] at kept
  cases kept

end Sys2Proof.Machine

/-! PROOFS. Integer and cross-lane results (O3), and the arithmetic of the integer unit as that of two's complement words
(O7). -/

namespace Sys2Proof.Machine

/-- Settles O3: both tables tell what their instructions change (`integerRule_tells`, `crossRule_tells`). -/
theorem integerResults : Obligations.IntegerResults := by
  unfold Obligations.IntegerResults
  exact ⟨integerRule_tells, crossRule_tells⟩

/-! ### Integers and the words that hold them (03 R61, 10 R227) -/

/-- An integer's low bits, of a word that is wide enough. -/
theorem setWidth_ofInt {n m : Nat} (fits : n ≤ m) (z : Int) : (BitVec.ofInt m z).setWidth n = BitVec.ofInt n z := by
  have divides : ((2 ^ n : Nat) : Int) ∣ (2 ^ m : Nat) := Int.natCast_dvd_natCast.2 (Nat.pow_dvd_pow 2 fits)
  have nonneg : 0 ≤ z % (2 ^ m : Nat) := Int.emod_nonneg z (Int.ofNat_ne_zero.2 (Nat.ne_of_gt (Nat.two_pow_pos m)))
  apply BitVec.eq_of_toInt_eq
  rw [BitVec.toInt_ofInt, BitVec.toInt_setWidth, BitVec.toNat_ofInt, Int.toNat_of_nonneg nonneg, ← Int.emod_bmod,
    Int.emod_emod_of_dvd z divides, Int.emod_bmod]

theorem ofInt_sub {n : Nat} (z w : Int) : BitVec.ofInt n (z - w) = BitVec.ofInt n z - BitVec.ofInt n w := by
  rw [BitVec.eq_sub_iff_add_eq, ← BitVec.ofInt_add, Int.sub_add_cancel]

/-- The n bits that are read as an integer are the word of that integer, signed or not. -/
theorem ofInt_intOf (n : Nat) (signed : Bool) (y : Nat) : BitVec.ofInt n (intOf n signed y) = BitVec.ofNat n y := by
  have low : BitVec.ofInt n (y % 2 ^ n : Nat) = BitVec.ofNat n y := by
    rw [BitVec.ofInt_natCast]
    exact BitVec.eq_of_toNat_eq (by simp)
  have wraps : BitVec.ofInt n (2 ^ n) = 0#n := BitVec.eq_of_toNat_eq (by simp [BitVec.toNat_ofInt])
  rw [intOf]
  split
  · rw [ofInt_sub, low, wraps, BitVec.sub_zero]
  · exact low

theorem ofInt_readInt (t : Fmt) (x : Long) : BitVec.ofInt (intN t) (readInt t x) = x.setWidth (intN t) := by
  rw [readInt, ofInt_intOf, BitVec.ofNat_toNat]

/-- What is written of an exact result is its word. -/
theorem setWidth_extInt {n : Nat} (fits : n ≤ 64) (signed : Bool) (z : Int) :
    (extInt n signed z).setWidth n = BitVec.ofInt n z := by
  have low : truncInt n z = (BitVec.ofInt n z).toNat := by simp [truncInt, BitVec.toNat_ofInt]
  rw [extInt, setWidth_ofInt fits, ofInt_intOf, low, BitVec.ofNat_toNat, BitVec.setWidth_eq]

theorem intN_le (t : Fmt) : intN t ≤ 64 := by
  unfold intN
  split <;> decide

theorem intOf_toNat {n : Nat} (x : BitVec n) : intOf n true x.toNat = x.toInt := by
  simp [intOf, bit, BitVec.toInt_eq_msb_cond, BitVec.msb_eq_getLsbD_last, BitVec.getLsbD]

/-! ### Sums and products (10 R231) -/

theorem setWidth_extInt_add (t : Fmt) (x y : Long) :
    (extInt (intN t) (intSigned t) (readInt t x + readInt t y)).setWidth (intN t) =
      x.setWidth (intN t) + y.setWidth (intN t) := by
  rw [setWidth_extInt (intN_le t), BitVec.ofInt_add, ofInt_readInt, ofInt_readInt]

theorem setWidth_extInt_sub (t : Fmt) (x y : Long) :
    (extInt (intN t) (intSigned t) (readInt t x - readInt t y)).setWidth (intN t) =
      x.setWidth (intN t) - y.setWidth (intN t) := by
  rw [setWidth_extInt (intN_le t), ofInt_sub, ofInt_readInt, ofInt_readInt]

theorem setWidth_extInt_mul (t : Fmt) (x y : Long) :
    (extInt (intN t) (intSigned t) (readInt t x * readInt t y)).setWidth (intN t) =
      x.setWidth (intN t) * y.setWidth (intN t) := by
  rw [setWidth_extInt (intN_le t), BitVec.ofInt_mul, ofInt_readInt, ofInt_readInt]

theorem intN_eq_32 {t : Fmt} (h : t = .i32 ∨ t = .u32) : intN t = 32 := by
  rcases h with rfl | rfl <;> rfl

/-! ### Quotient and remainder (10 R233) -/

theorem divInt_add_remInt (t : Fmt) (x : Int) {y : Int} (h : y ≠ 0) : y * divInt t x y + remInt x y = x := by
  simp only [divInt, remInt, if_neg h]
  exact Int.mul_tdiv_add_tmod x y

theorem natAbs_remInt_lt (x : Int) {y : Int} (h : y ≠ 0) : (remInt x y).natAbs < y.natAbs := by
  rw [remInt, if_neg h, Int.natAbs_tmod]
  exact Nat.mod_lt _ (Int.natAbs_pos.2 h)

/-! ### Shifts (10 R234) -/

theorem ofNat_shlNat {n : Nat} (x : BitVec n) (k : Nat) : BitVec.ofNat n (shlNat n x.toNat k) = x <<< k := by
  unfold shlNat
  split
  case isTrue h => exact (BitVec.shiftLeft_eq_zero h).symm
  case isFalse => exact BitVec.eq_of_toNat_eq (by simp [Nat.shiftLeft_eq])

theorem ofNat_shrNat {n : Nat} (x : BitVec n) (k : Nat) : BitVec.ofNat n (shrNat n x.toNat k) = x >>> k := by
  unfold shrNat
  split
  case isTrue h => exact (BitVec.ushiftRight_eq_zero h).symm
  case isFalse =>
    rw [← Nat.shiftRight_eq_div_pow, ← BitVec.toNat_ushiftRight]
    rw [BitVec.ofNat_toNat, BitVec.setWidth_eq]

theorem sshiftRight_of_le {n k : Nat} (x : BitVec n) (h : n ≤ k) : x.sshiftRight k = x.sshiftRight n := by
  apply BitVec.eq_of_getLsbD_eq
  intro i _
  rw [BitVec.getLsbD_sshiftRight, BitVec.getLsbD_sshiftRight, if_neg (by omega), if_neg (by omega)]

/-- From n on, an arithmetic shift brings in nothing but the sign, whatever the count. -/
theorem ofInt_sar {n : Nat} (x : BitVec n) (k : Nat) :
    BitVec.ofInt n (intOf n true x.toNat / 2 ^ Nat.min n k) = x.sshiftRight k := by
  have quotient (j : Nat) : BitVec.ofInt n (x.toInt / 2 ^ j) = x.sshiftRight j := by
    rw [← BitVec.ofInt_toInt (x := x.sshiftRight j), BitVec.toInt_sshiftRight, Int.shiftRight_eq_div_pow]
    norm_cast
  rw [intOf_toNat, quotient]
  obtain above | below := Nat.le_total n k
  · rw [show Nat.min n k = n from Nat.min_eq_left above, sshiftRight_of_le x above]
  · rw [show Nat.min n k = k from Nat.min_eq_right below]

theorem toNat_append_eq_add {n : Nat} (x y : BitVec n) : (x ++ y).toNat = x.toNat * 2 ^ n + y.toNat := by
  rw [BitVec.toNat_append, ← Nat.shiftLeft_add_eq_or_of_lt y.isLt, Nat.shiftLeft_eq]

theorem ofNat_fshf_left {n : Nat} (x y : BitVec n) (k : Nat) :
    BitVec.ofNat n (fshf false n x.toNat y.toNat k) = ((x ++ y) <<< k).extractLsb' n n := by
  apply BitVec.eq_of_toNat_eq
  simp only [fshf, ← toNat_append_eq_add, BitVec.toNat_ofNat, BitVec.extractLsb'_toNat, BitVec.toNat_shiftLeft,
    Nat.shiftLeft_eq, Nat.shiftRight_eq_div_pow, Nat.pow_add, Nat.mod_mul_right_div_self, Nat.mod_mod, Bool.false_eq_true,
    if_false]

theorem ofNat_fshf_right {n : Nat} (x y : BitVec n) (k : Nat) :
    BitVec.ofNat n (fshf true n x.toNat y.toNat k) = ((x ++ y) >>> k).extractLsb' 0 n := by
  apply BitVec.eq_of_toNat_eq
  simp [fshf, ← toNat_append_eq_add, Nat.shiftRight_eq_div_pow]

/-- Settles O7: what is read and what is written stand for the same words (`ofInt_readInt`, `setWidth_extInt`), quotient
and remainder truncate towards zero, and each shift is that of words of any width, at any count. -/
theorem integerArithmetic : Obligations.IntegerArithmetic := by
  unfold Obligations.IntegerArithmetic
  refine ⟨fun x y t narrow => ?_, fun t x y h => ⟨divInt_add_remInt t x h, natAbs_remInt_lt x h⟩,
    fun x => ⟨if_pos rfl, if_pos rfl, if_pos rfl⟩, fun n x y b wrap _ => ?_⟩
  · have sum := setWidth_extInt_add t x y
    have difference := setWidth_extInt_sub t x y
    have product := setWidth_extInt_mul t x y
    rw [intN_eq_32 narrow] at sum difference product ⊢
    exact ⟨sum, difference, product⟩
  · exact ⟨ofNat_shlNat x _, ofNat_shrNat x _, ofInt_sar x _, ofNat_fshf_left x y _, ofNat_fshf_right x y _⟩

end Sys2Proof.Machine

/-! PROOFS. Floating-point and conversion results (O2). -/

namespace Sys2Proof.Machine

/-- Settles O2: both tables tell what their instructions change (`floatRule_tells`, `convertRule_tells`). -/
theorem floatResults : Obligations.FloatResults := by
  unfold Obligations.FloatResults
  exact ⟨floatRule_tells, convertRule_tells⟩

end Sys2Proof.Machine

/-! PROOFS. The lanes of a quarter-op, each from its own registers (O28). -/

namespace Sys2Proof.Machine

/-! ### The registers of a lane -/

/-- The lane registers of a lane. -/
def laneRegs (g : Group) (l : Nat) : Nat → Word := fun r => vGet g r l

/-- If each lane's work changes its own registers by `f` and no other lane's, then so does the work of a mask's lanes,
one after another. -/
theorem laneRegs_foldl_laneList {w : Group → Nat → Group} {f : (Nat → Word) → Nat → Word}
    (works : ∀ g k l, k < 32 → l < 32 → laneRegs (w g k) l = if k = l then f (laneRegs g l) else laneRegs g l)
    (m : Lanes) (g : Group) {l : Nat} (hl : l < 32) :
    laneRegs ((laneList m).foldl w g) l = if m.getLsbD l then f (laneRegs g l) else laneRegs g l := by
  have listed : ∀ ls : List Nat, (∀ k ∈ ls, k < 32) → ls.Nodup → ∀ g,
      laneRegs (ls.foldl w g) l = if l ∈ ls then f (laneRegs g l) else laneRegs g l := by
    intro ls
    induction ls with
    | nil => intro _ _ g; simp
    | cons k ls ih =>
      intro lanes once g
      obtain ⟨hk, rest⟩ := List.forall_mem_cons.1 lanes
      obtain ⟨new, once⟩ := List.nodup_cons.1 once
      rw [List.foldl_cons, ih rest once, works g k l hk hl]
      by_cases here : k = l
      · subst here; simp [new]
      · simp [here, Ne.symm here]
  rw [listed _ (fun k hk => (mem_laneList.1 hk).1) (List.nodup_range.filter _)]
  simp [mem_laneList, hl]

/-- Changes of a lane's registers from `base` on, one after another, each from the register's own value. -/
theorem laneRegs_foldl_vSet (base n : Nat) (f : Nat → Word → Word) (g : Group) {k l : Nat} (hk : k < 32) (hl : l < 32) :
    laneRegs ((List.range n).foldl (fun h x => vSet h (base + x) k (f x (vGet h (base + x) k))) g) l = fun r =>
      if k = l ∧ base ≤ r ∧ r < base + n then f (r - base) (vGet g r l) else vGet g r l := by
  induction n with
  | zero => funext r; simp [laneRegs, show ¬ (base ≤ r ∧ r < base) by omega]
  | succ n ih =>
    funext r
    have before := congrFun ih
    simp only [laneRegs] at before ⊢
    rw [List.range_succ, List.foldl_append, List.foldl_cons, List.foldl_nil, vGet_vSet_lane hk hl]
    by_cases last : base + n = r ∧ k = l
    · obtain ⟨rfl, rfl⟩ := last
      rw [before]
      simp
    · have same : (k = l ∧ base ≤ r ∧ r < base + (n + 1)) ↔ (k = l ∧ base ≤ r ∧ r < base + n) := by omega
      rw [if_neg last, before]
      simp only [same]

/-! ### A quarter-op (12 R277) -/

/-- The bytes of a tile's slot as a number. -/
def slotNat (s : State) (q base n : Nat) : Nat := natOfBytes (loftRead s q (base + 64 * n) 64)

/-- One lane's work in a quarter-op whose slots are given: its fragment is read first, then register after register takes
its dot product. -/
def dotLane (o : QOp) (slot : Nat → Nat) (g : Group) (l : Nat) : Group :=
  let frag := natOfBytes (fragBytes g o.a l)
  (List.range 32).foldl (fun g n =>
    vSet g (o.d + n) l (BitVec.ofNat 32 (dotOf o frag (slot n) (vGet g (o.d + n) l).toNat))) g

/-- What it makes of the lane's registers. -/
def dotRegs (o : QOp) (slot : Nat → Nat) (v : Nat → Word) : Nat → Word := fun r =>
  if o.d ≤ r ∧ r < o.d + 32 then
    BitVec.ofNat 32 (dotOf o (natOfBytes ((List.range 16).flatMap fun i => bytesOfNat 4 (v (o.a + i)).toNat))
      (slot (r - o.d)) (v r).toNat)
  else v r

theorem dotLane_v_only (o : QOp) (slot : Nat → Nat) (g : Group) (l : Nat) :
    dotLane o slot g l = { g with v := (dotLane o slot g l).v } :=
  foldl_eq_of_v_only (fun _ _ => rfl) _ g

theorem laneRegs_dotLane (o : QOp) (slot : Nat → Nat) (g : Group) (k l : Nat) (hk : k < 32) (hl : l < 32) :
    laneRegs (dotLane o slot g k) l = if k = l then dotRegs o slot (laneRegs g l) else laneRegs g l := by
  have changed := laneRegs_foldl_vSet o.d 32
    (fun n x => BitVec.ofNat 32 (dotOf o (natOfBytes (fragBytes g o.a k)) (slot n) x.toNat)) g hk hl
  by_cases here : k = l
  · subst here
    simp only [true_and, if_true] at changed ⊢
    exact changed
  · simp only [here, false_and, if_false] at changed ⊢
    exact changed

/-- A quarter-op that reads no poisoned word does its lanes' work and nothing else. -/
theorem runQuarter_clean {q : Nat} {s : State} {o : QOp} {g : Group} {w : Window} (found : tblFind s.groups o.gid = some g)
    (window : windowOf s g.block q = some w)
    (clean : ∀ n, n < 32 → ∀ r ∈ slotReads o, loftPoisoned s q (w.off + o.tile + 64 * n + r.1) r.2 = false) :
    runQuarter q s o = updGroup s o.gid fun g =>
      (laneList (o.rows &&& g.live)).foldl (dotLane o (slotNat s q (w.off + o.tile))) g := by
  have none_poisoned : (((List.range 32).flatMap fun n =>
      (slotReads o).map fun r => (w.off + o.tile + 64 * n + r.1, r.2)).find? fun r => loftPoisoned s q r.1 r.2) = none := by
    rw [List.find?_eq_none]
    intro e read
    obtain ⟨n, slot, inSlot⟩ := List.mem_flatMap.1 read
    obtain ⟨r, inRuns, rfl⟩ := List.mem_map.1 inSlot
    simp [clean n (List.mem_range.1 slot) r inRuns]
  simp only [runQuarter, found, window, Option.map_some, Option.getD_some, none_poisoned]
  rfl

/-- Settles O28: each lane of the rows reads its own fragment and its own accumulators (`laneRegs_dotLane`), so the lanes
one after another do what each does alone (`laneRegs_foldl_laneList`). -/
theorem quarterWrites : Obligations.QuarterWrites := by
  unfold Obligations.QuarterWrites
  intro q s o g w found window clean
  let slot := slotNat s q (w.off + o.tile)
  have frame := foldl_eq_of_v_only (dotLane_v_only o slot) (laneList (o.rows &&& g.live)) g
  rw [runQuarter_clean found window clean]
  refine ⟨(laneList (o.rows &&& g.live)).foldl (dotLane o slot) g, ?_, fun r l hl => ?_, ?_, ?_, ?_, rfl⟩
  · rw [find_updGroup, if_pos rfl, found, Option.map_some]
  · refine (congrFun (laneRegs_foldl_laneList (laneRegs_dotLane o slot) (o.rows &&& g.live) g hl) r).trans ?_
    by_cases row : (o.rows &&& g.live).getLsbD l
    · rw [if_pos row]
      simp only [row, true_and]
      rfl
    · rw [if_neg row, if_neg fun h => row h.1]
      rfl
  all_goals rw [frame]

end Sys2Proof.Machine

/-! PROOFS. What the instructions of the matrix array do as they issue (O26, O27). -/

namespace Sys2Proof.Machine

/-- A path that has begun an instruction and is to act goes straight to its meaning. -/
theorem issue_resumed {i : Instr} {s : State} {g : Group} {p : Path} (turn : issuing s = some (g, p))
    (begun : p.await.isSome = true) (acts : actLanes g p i ≠ 0) (free : waitsFull i = false) (body : Ins → State → Act) :
    issue i body s = .next (concludeIssue s (insOf i s g p) (body (insOf i s g p) (atIssue i s g p))) := by
  have idle : (actLanes g p i = 0) = False := eq_false acts
  simp only [issue, issueWith, turn, begun, free, idle, insOf, atIssue]
  simp

/-! ### The end of a reservation (12 R269) -/

theorem freeArray_busy {s : State} {q b : Nat} (held : (quadOf s q).holder = some b) (busy : arrayBusy s q b = true) :
    freeArray s q = s := by
  simp [freeArray, held, busy]

/-- What a path that waits in MREL is when the array is free: it has its answer. -/
def answerMrel (p : Path) : Path := if inMrel p then { p with await := some (.answer 0) } else p

theorem freeArray_idle {s : State} {q b : Nat} (held : (quadOf s q).holder = some b)
    (releasing : (quadOf s q).releasing = true) (idle : arrayBusy s q b = false) :
    freeArray s q = wake { updQuad s q fun x => { x with holder := none, releasing := false } with
      groups := tblMap s.groups fun _ g => if g.block = b && g.quad = q then mapPaths g answerMrel else g } := by
  simp only [freeArray, held, releasing, idle]
  rfl

theorem quadOf_freeArray_idle {s : State} {q b : Nat} (held : (quadOf s q).holder = some b)
    (releasing : (quadOf s q).releasing = true) (idle : arrayBusy s q b = false) :
    quadOf (freeArray s q) q = { quadOf s q with holder := none, releasing := false } := by
  rw [freeArray_idle held releasing idle]
  exact (quadOf_updQuad s q q fun x => { x with holder := none, releasing := false }).trans (if_pos rfl)

theorem freeArray_answers {s : State} {q b gid : Nat} {g : Group} {p : Path} (held : (quadOf s q).holder = some b)
    (releasing : (quadOf s q).releasing = true) (idle : arrayBusy s q b = false) (found : tblFind s.groups gid = some g)
    (block : g.block = b) (quad : g.quad = q) (mem : p ∈ g.paths) (waiting : inMrel p = true) :
    ∃ h, tblFind (freeArray s q).groups gid = some h ∧ { p with await := some (.answer 0) } ∈ h.paths := by
  have answered : answerMrel p = { p with await := some (.answer 0) } := if_pos waiting
  rw [freeArray_idle held releasing idle, wake_groups, tblFind_map, found, ← answered]
  refine ⟨mapPaths g answerMrel, ?_, List.mem_map_of_mem mem⟩
  simp [block, quad]

/-! ### The checks of an array instruction (12 R269) -/

theorem holdsArray_of {x : Quad} {block : Nat} (holder : x.holder = some block) (kept : x.releasing = false) :
    holdsArray x block = true := by
  simp [holdsArray, holder, kept]

theorem arrayErr_none {c : Ins} {s : State} (holder : (quadHere c s).holder = some c.g.block)
    (kept : (quadHere c s).releasing = false) (well : healthy (quadHere c s) ≠ 0) : arrayErr c s = none := by
  simp [arrayErr, holdsArray_of holder kept, well]

/-! ### MRES to MSELFT and the fills (12 R275, R281-R289) -/

/-- An MWAIT takes no report where none of its lanes' is pending outside a handler (12 R285, R290). -/
theorem mwaitReport_none {g : Group} {lanes : Lanes}
    (quiet : g.handler = false → ∀ r ∈ g.reports, r.fact = false → r.lanes &&& lanes = 0) :
    (if g.handler then none else g.reports.find? fun r => !r.fact && r.lanes &&& lanes != 0) = none := by
  by_cases handler : g.handler = true
  · rw [if_pos handler]
  · rw [if_neg handler, List.find?_eq_none]
    intro r pending
    by_cases fact : r.fact = true
    · simp [fact]
    · simp [quiet (Bool.eq_false_iff.2 handler) r pending (Bool.eq_false_iff.2 fact)]

/-- Settles O26: the hypotheses are the checks of each instruction's own body, which is then the effect stated; an array
that is released and idle is free, and who waits in MREL is answered (`freeArray_idle`, `freeArray_answers`). -/
theorem arrayResults : Obligations.ArrayResults := by
  unfold Obligations.ArrayResults
  refine ⟨⟨?mres, ?release, ?releaseBusy, ?answered, ?free, ?mfence, ?mwait, ?mstat, ?mselft⟩,
    ?copy, ?tile, ?frag, ?transposed⟩
  case mres =>
    intro gd pd s g p i u x ok issues
    exact issue_done issues rfl
  case release =>
    intro gd s g p i u issues idle
    have new : (insOf i s g p).p.await = none := issues.new
    refine issue_done issues ?_
    simp only [new]
    by_cases mine : (quadOf u g.quad).holder = some g.block
    · have holds : ¬ (!decide ((quadOf u g.quad).holder = some g.block)) = true := by simp [mine]
      rw [if_pos mine]
      exact (if_neg holds).trans (if_neg (Bool.eq_false_iff.1 (idle mine)))
    · have other : (!decide ((quadOf u g.quad).holder = some g.block)) = true := by simp [mine]
      rw [if_neg mine]
      exact if_pos other
  case releaseBusy =>
    intro gd s g p i u issues mine busy
    have new : (insOf i s g p).p.await = none := issues.new
    have holds : ¬ (!decide ((quadOf u g.quad).holder = some g.block)) = true := by simp [mine]
    refine issue_park issues ?_
    simp only [new]
    exact (if_neg holds).trans (if_pos busy)
  case answered =>
    intro gd s g p x i turn answer acts
    have resumed : (insOf i s g p).p.await = some (.answer x) := answer
    refine (issue_resumed turn (by rw [answer]; rfl) acts rfl _).trans ?_
    simp only [resumed]
    rfl
  case free =>
    intro s q b held releasing
    refine ⟨freeArray_busy held, fun idle => ?_⟩
    have freed := quadOf_freeArray_idle held releasing idle
    exact ⟨by rw [freed], by rw [freed], fun gid g p found block quad mem waiting =>
      freeArray_answers held releasing idle found block quad mem waiting⟩
  case mfence =>
    intro gd s g p i u issues noFills noProducers
    have quiet : u.producers.any (fun e => e.2.gid = s.gid) = false := by
      simpa only [List.any_eq_false, decide_eq_true_eq] using noProducers
    have ends : ¬ (fillsOf (quadOf u g.quad) s.gid p.lanes || u.producers.any fun e => e.2.gid = s.gid) = true := by
      rw [noFills, quiet]; decide
    exact issue_done issues (if_neg ends)
  case mwait =>
    intro gd sc s g p i u issues noOps noReports
    refine issue_done issues ((if_neg (Bool.eq_false_iff.1 noOps)).trans ?_)
    have none_due : (if (insOf i s g p).g.handler then none else (insOf i s g p).g.reports.find? fun r =>
        !r.fact && r.lanes &&& (insOf i s g p).p.lanes != 0) = none := mwaitReport_none noReports
    simp only [none_due]
    rfl
  case mstat =>
    intro gd d s g p i x issues
    exact issue_group issues rfl
  case mselft =>
    intro gd d s g p i u r issues holder kept
    have holds : ¬ (!holdsArray (quadOf u g.quad) g.block) = true := by simp [holdsArray_of holder kept]
    exact issue_done issues (if_neg holds)
  case copy =>
    intro gd die a b c s g p i u so lo n issues alignedS alignedL alignedN inSpad inLoft
    have atS : ¬ (so % 4 != 0) = true := by simp [alignedS]
    have atL : ¬ (lo % 4 != 0 || n % 4 != 0) = true := by simp [alignedL, alignedN]
    have none_iff : sGet g c.reg.toNat = 0 ↔ n = 0 := BitVec.toNat_inj.symm
    refine issue_done issues <| (if_neg atS).trans <| (if_neg atL).trans <| (if_neg (Nat.not_lt.2 inSpad)).trans <|
      (if_neg (Nat.not_lt.2 inLoft)).trans ?_
    by_cases empty : n = 0
    · rw [if_pos empty]
      exact if_pos (none_iff.2 empty)
    · rw [if_neg empty]
      exact if_neg fun h => empty (none_iff.1 h)
  case tile =>
    intro gd a b s g p i u t issues aligned inLoft
    have at_ : ¬ (t % 2048 != 0) = true := by simp [aligned]
    exact issue_done issues ((if_neg at_).trans (if_neg (Nat.not_lt.2 inLoft)))
  case frag =>
    intro gd die d mo s g p i u r issues lanes
    refine issue_done issues (if_neg fun trapped => bne_iff_ne.1 trapped ?_)
    refine List.filterMap_eq_nil_iff.2 fun l acts => Option.map_eq_none_iff.2 ?_
    obtain ⟨aligned, fits⟩ := lanes l acts
    have at_ : ¬ ((memAddr g p mo l).toNat % 4 != 0) = true := by simp [aligned]
    exact (if_neg at_).trans (if_neg (Nat.not_lt.2 fits))
  case transposed =>
    intro gd die pitch w16 d mo s g p i u r w base issues aligned fits
    have at_ : ¬ (base % w != 0) = true := by simp [aligned]
    exact issue_done issues ((if_neg at_).trans (if_neg (Nat.not_lt.2 fits)))

/-! ### MMAQ, MMAQW and MMAQI (12 R277) -/

/-- The quarter-ops of a matrix instruction, one for each quarter. -/
def quarterOps (k : QKind) (d : Dst) (a : Src) (sx sy : Option (BitVec 3)) (c : Ins) (prod clock : Nat)
    (qs : List (Lanes × Nat)) : List QOp :=
  let scl (y : Option (BitVec 3)) : Option Word := y.map fun n => tblGet 0x3F800000 c.g.scl n.toNat
  qs.map fun e =>
    ⟨c.gid, prod, e.2, e.1, a.reg.toNat, d.reg.toNat, k, c.p.fmt, c.g.nbv, scl sx, scl sy, c.p.pc, c.p.lanes, clock⟩

/-- The quarters as the instruction itself finds them. -/
theorem filterMap_quarter (c : Ins) (b : BOpd) :
    ((List.range 4).filterMap fun j =>
      if c.act &&& quarter j = 0 then none else some (c.act &&& quarter j, tileOf c b (c.act &&& quarter j))) =
        quartersOf c.g c.act b := by
  unfold quartersOf
  congr 1
  funext j
  cases b <;> rfl

/-- A matrix instruction that passes its checks: its quarters' ops are queued behind those before them. -/
theorem mmaBody_queues {k : QKind} {d : Dst} {a : Src} {b : BOpd} {sx sy : Option (BitVec 3)} {c : Ins} {s : State}
    {qs : List (Lanes × Nat)} (quarters : quartersOf c.g c.act b = qs) (formats : snapOk k c.p.fmt = true)
    (reserved : arrayErr c s = none) (tiles : ∀ e ∈ qs, e.2 % 2048 = 0 ∧ e.2 + 2048 ≤ windowHere c s)
    (room : (quadHere c s).queue.length + qs.length ≤ 64) :
    let r := startProducer s c.gid (laneKeys d.reg.toNat 32)
    mmaBody k d a b sx sy c s = .done (updQuad r.1 c.g.quad fun x =>
      { x with queue := x.queue ++ quarterOps k d a sx sy c r.2 s.clock qs }) := by
  have allowed : qs.findSome? (fun e => if e.2 % 2048 != 0 then some (LaneErr.access 1 (BitVec.ofNat 64 e.2) 0)
      else if windowHere c s < e.2 + 2048 then some (.access 2 (BitVec.ofNat 64 e.2) 0) else none) = none := by
    refine List.findSome?_eq_none_iff.2 fun e acts => ?_
    obtain ⟨aligned, fits⟩ := tiles e acts
    exact (if_neg (by simp [aligned])).trans (if_neg (Nat.not_lt.2 fits))
  simp only [mmaBody, filterMap_quarter, quarters, formats, reserved, allowed]
  exact if_neg (Nat.not_lt.2 room)

/-- Settles O27: the three share one body, and the hypotheses are its checks (`mmaBody_queues`). -/
theorem matrixResults : Obligations.MatrixResults := by
  unfold Obligations.MatrixResults
  intro i k d a b sx sy s g p isMma issues u x qs r scl formats holder kept well tiles room
  have reserved : arrayErr (insOf i s g p) u = none := arrayErr_none holder kept well
  have queued := mmaBody_queues (k := k) (d := d) (a := a) (b := b) (sx := sx) (sy := sy) (c := insOf i s g p) (s := u)
    (qs := qs) rfl formats reserved tiles room
  unfold mmaOf at isMma
  split at isMma <;> cases isMma <;> exact issue_done issues queued

end Sys2Proof.Machine

/-! PROOFS. Rows that TPERM moves, there and back (O30). -/

namespace Sys2Proof.Machine

/-! ### Tiles -/

theorem cell_inj {i j k l : Nat} (hj : j < 64) (hl : l < 64) : cell i j = cell k l ↔ i = k ∧ j = l := by
  unfold cell; omega

theorem tile_ext {t u : Tile} (size : t.size = u.size) (same : ∀ k, tAt t k = tAt u k) : t = u :=
  Array.ext size fun k ht hu => by simpa [tAt, Array.getD, ht, hu] using same k

theorem tAt_setIfInBounds (t : Tile) {k : Nat} (h : k < t.size) (x m : Nat) :
    tAt (t.setIfInBounds k x) m = if k = m then x else tAt t m := by
  by_cases here : k = m
  · subst here
    simp [tAt, h]
  · simp [tAt, Array.getD_eq_getD_getElem?, here]

/-! ### Entries that are set one after another -/

section
variable {α : Type} (place value : α → Nat)

/-- Sets an entry for each member of a list. -/
def setAll (l : List α) (b : Tile) : Tile := l.foldl (fun b e => b.setIfInBounds (place e) (value e)) b

@[simp] theorem size_setAll (l : List α) (b : Tile) : (setAll place value l b).size = b.size := by
  induction l generalizing b with
  | nil => rfl
  | cons e l ih => exact (ih _).trans Array.size_setIfInBounds

theorem tAt_setAll_outside {l : List α} {m : Nat} (outside : ∀ e ∈ l, place e ≠ m) (b : Tile) :
    tAt (setAll place value l b) m = tAt b m := by
  induction l generalizing b with
  | nil => rfl
  | cons e l ih =>
    refine (ih (fun d hd => outside d (List.mem_cons_of_mem _ hd)) _).trans ?_
    have other := outside e List.mem_cons_self
    simp [tAt, Array.getD_eq_getD_getElem?, other]

/-- An entry set once holds what it was set to. -/
theorem tAt_setAll_mem {l : List α} {e : α} (mem : e ∈ l) (once : ∀ d ∈ l, place d = place e → d = e) {b : Tile}
    (inside : place e < b.size) : tAt (setAll place value l b) (place e) = value e := by
  induction l generalizing b with
  | nil => cases mem
  | cons d l ih =>
    have rest : ∀ c ∈ l, place c = place e → c = e := fun c hc => once c (List.mem_cons_of_mem _ hc)
    by_cases later : e ∈ l
    · exact ih later rest (by simpa using inside)
    · obtain rfl : e = d := (List.mem_cons.1 mem).resolve_right later
      have last : ∀ c ∈ l, place c ≠ place e := fun c hc h => later (rest c hc h ▸ hc)
      refine (tAt_setAll_outside place value last _).trans ?_
      rw [tAt_setIfInBounds b inside, if_pos rfl]

end

/-! ### The permutation that TPERM checks (13 R299, R301) -/

/-- A list that holds every number below n has at least n members. -/
theorem le_length_of_mem {l : List Nat} {n : Nat} (holds : ∀ x < n, x ∈ l) : n ≤ l.length := by
  induction n generalizing l with
  | zero => exact Nat.zero_le _
  | succ n ih =>
    have last : n ∈ l := holds n (Nat.lt_succ_self n)
    have rest : n ≤ (l.erase n).length :=
      ih fun x hx => (List.mem_erase_of_ne (Nat.ne_of_lt hx)).2 (holds x (Nat.lt_succ_of_lt hx))
    have := List.length_pos_of_mem last
    rw [List.length_erase_of_mem last] at rest
    omega

/-- No entry is spare: n entries reach the n rows, so they cannot do it without entry i. -/
theorem permGet_needs (p : List Long) {n i : Nat} (hi : i < n) : ∃ x < n, ∀ k < n, permGet p k = x → k = i := by
  apply Classical.byContradiction
  intro spare
  have others : ∀ x < n, x ∈ ((List.range n).erase i).map (permGet p) := by
    intro x hx
    apply Classical.byContradiction
    intro missing
    refine spare ⟨x, hx, fun k hk at_ => Classical.byContradiction fun other => missing ?_⟩
    exact List.mem_map.2 ⟨k, (List.mem_erase_of_ne other).2 (List.mem_range.2 hk), at_⟩
  have count := le_length_of_mem others
  rw [List.length_map, List.length_erase_of_mem (List.mem_range.2 hi), List.length_range] at count
  omega

section
variable {p : List Long} {n : Nat} (ok : permOk? p n = true)
include ok

theorem permGet_surj {i : Nat} (hi : i < n) : ∃ k < n, permGet p k = i := by
  simp only [permOk?, List.all_eq_true, List.any_eq_true, List.mem_range, decide_eq_true_eq] at ok
  exact ok i hi

theorem permGet_lt {i : Nat} (hi : i < n) : permGet p i < n := by
  obtain ⟨x, hx, only⟩ := permGet_needs p hi
  obtain ⟨k, hk, rfl⟩ := permGet_surj ok hx
  obtain rfl := only k hk rfl
  exact hx

theorem permGet_inj {i k : Nat} (hi : i < n) (hk : k < n) (same : permGet p i = permGet p k) : i = k := by
  obtain ⟨x, hx, only⟩ := permGet_needs p hi
  obtain ⟨l, hl, rfl⟩ := permGet_surj ok hx
  obtain rfl := only l hl rfl
  exact (only k hk same.symm).symm

end

/-! ### Rows that move (13 R307) -/

/-- The places of n rows and r columns. -/
def rowsColumns (n r : Nat) : List (Nat × Nat) := (List.range n).flatMap fun i => (List.range r).map fun j => (i, j)

theorem mem_rowsColumns {n r i j : Nat} : (i, j) ∈ rowsColumns n r ↔ i < n ∧ j < r := by
  simp only [rowsColumns, List.mem_flatMap, List.mem_map, List.mem_range, Prod.mk.injEq]
  exact ⟨fun ⟨_, hi, _, hj, here, there⟩ => ⟨here ▸ hi, there ▸ hj⟩, fun ⟨hi, hj⟩ => ⟨i, hi, j, hj, rfl, rfl⟩⟩

theorem foldl_rowsColumns {β : Type} (f : β → Nat × Nat → β) (n r : Nat) (b : β) :
    (List.range n).foldl (fun b i => (List.range r).foldl (fun b j => f b (i, j)) b) b = (rowsColumns n r).foldl f b := by
  simp only [rowsColumns, List.foldl_flatMap, List.foldl_map]

/-- Row `src i` of the tile moves to row `dst i`, over r columns, for each i below n. -/
def moveRows (t : Tile) (n r : Nat) (dst src : Nat → Nat) : Tile :=
  setAll (fun e => cell (dst e.1) e.2) (fun e => tAt t (cell (src e.1) e.2)) (rowsColumns n r) t

theorem permRows_gathers (t : Tile) (n r : Nat) (p : List Long) :
    permRows t n r false p = moveRows t n r id (permGet p) :=
  foldl_rowsColumns (fun (b : Tile) (e : Nat × Nat) => b.setIfInBounds (cell e.1 e.2) (tAt t (cell (permGet p e.1) e.2))) n r t

theorem permRows_scatters (t : Tile) (n r : Nat) (p : List Long) :
    permRows t n r true p = moveRows t n r (permGet p) id :=
  foldl_rowsColumns (fun (b : Tile) (e : Nat × Nat) => b.setIfInBounds (cell (permGet p e.1) e.2) (tAt t (cell e.1 e.2))) n r t

section
variable (t : Tile) {n r : Nat} {dst : Nat → Nat} (src : Nat → Nat)

@[simp] theorem size_moveRows (n r : Nat) (dst src : Nat → Nat) : (moveRows t n r dst src).size = t.size := size_setAll ..

theorem tAt_moveRows_outside {m : Nat} (outside : ∀ i < n, ∀ j < r, cell (dst i) j ≠ m) :
    tAt (moveRows t n r dst src) m = tAt t m := by
  refine tAt_setAll_outside _ _ (fun e mem => ?_) t
  obtain ⟨hi, hj⟩ := mem_rowsColumns.1 mem
  exact outside e.1 hi e.2 hj

/-- Rows that go to different places arrive whole. -/
theorem tAt_moveRows (size : t.size = 4160) (columns : r ≤ 64) (inj : ∀ i < n, ∀ k < n, dst i = dst k → i = k)
    (rows : ∀ i < n, dst i < 64) {i j : Nat} (hi : i < n) (hj : j < r) :
    tAt (moveRows t n r dst src) (cell (dst i) j) = tAt t (cell (src i) j) := by
  have mem : (i, j) ∈ rowsColumns n r := mem_rowsColumns.2 ⟨hi, hj⟩
  refine tAt_setAll_mem (fun e : Nat × Nat => cell (dst e.1) e.2) _ mem (fun e other same => ?_) ?_
  · obtain ⟨hk, hl⟩ := mem_rowsColumns.1 other
    obtain ⟨row, column⟩ := (cell_inj (by omega) (by omega)).1 same
    exact Prod.ext (inj _ hk _ hi row) column
  · have := rows i hi
    simp only [cell, size]
    omega

end

/-- Settles O30: both directions move rows to different places (`tAt_moveRows`), and an entry in no row that moves stays
there and back. -/
theorem permutedRows : Obligations.PermutedRows := by
  unfold Obligations.PermutedRows
  intro t n r p size rows columns ok
  have inj : ∀ i < n, ∀ k < n, permGet p i = permGet p k → i = k := fun i hi k hk => permGet_inj ok hi hk
  have below : ∀ i < n, permGet p i < 64 := fun i hi => Nat.lt_of_lt_of_le (permGet_lt ok hi) rows
  have gathered : ∀ i j, i < n → j < r →
      tAt (moveRows t n r id (permGet p)) (cell i j) = tAt t (cell (permGet p i) j) := fun i j hi hj =>
    tAt_moveRows t _ size columns (fun _ _ _ _ same => same) (fun k hk => Nat.lt_of_lt_of_le hk rows) hi hj
  have scattered (u : Tile) (size : u.size = 4160) : ∀ i j, i < n → j < r →
      tAt (moveRows u n r (permGet p) id) (cell (permGet p i) j) = tAt u (cell i j) := fun i j hi hj =>
    tAt_moveRows u _ size columns inj below hi hj
  simp only [permRows_gathers, permRows_scatters]
  refine ⟨gathered, scattered t size, tile_ext (by simp) fun m => ?_⟩
  by_cases moved : ∃ i < n, ∃ j < r, cell (permGet p i) j = m
  · obtain ⟨i, hi, j, hj, rfl⟩ := moved
    rw [scattered _ (by simpa using size) i j hi hj, gathered i j hi hj]
  · have still : ∀ i < n, ∀ j < r, cell (permGet p i) j ≠ m := fun i hi j hj at_ => moved ⟨i, hi, j, hj, at_⟩
    rw [tAt_moveRows_outside _ _ still, tAt_moveRows_outside]
    intro k hk
    obtain ⟨i, hi, rfl⟩ := permGet_surj ok hk
    exact still i hi

end Sys2Proof.Machine

/-! PROOFS. What the instructions of the factorisation chapter do as they issue (O29). -/

namespace Sys2Proof.Machine

/-! ### What they share (13 R297, R299) -/

/-- An operation that need not wait and passes the checks of the array and of its tiles: its own failure, or its effect. -/
theorem factIssue_passes {c : Ins} {s : State} {alone : Bool} {ts : List (Long × Nat)}
    (first : alone = true → factorFlying c s = false) (room : (quadHere c s).facts.length < 16)
    (reserved : arrayErr c s = none) (tiles : tileErr c s ts = none) (own : Option Nat) (k : State → Act) :
    factIssue c s alone ts own k = own.elim (k s) fun cause => .trap (c.trap 0x0D cause) s := by
  have goes : ¬ ((alone && factorFlying c s) || decide (16 ≤ (quadHere c s).facts.length)) = true := by
    simp only [Bool.or_eq_true, Bool.and_eq_true, decide_eq_true_eq]
    rintro (⟨waits, flying⟩ | full)
    · simp [first waits] at flying
    · omega
  unfold factIssue
  rw [if_neg goes, reserved, tiles]
  cases own <;> rfl

/-- An operation's effect at the issue takes no time. -/
theorem factorOf_clock {i : Instr} {g : Group} {s : State} {alone : Bool} {ts : List (Long × Nat)} {own : Option Nat}
    {f : State → State} {o : FactOp} (h : factorOf i g s = some (alone, ts, own, f, o)) (u : State) :
    (f u).clock = u.clock := by
  unfold factorOf at h
  split at h <;> cases h <;> rfl

/-- The instructions that take the array issue alike: each queues its operation, after its effect at the issue. -/
theorem exec_factorOf {i : Instr} {s : State} {g : Group} {p : Path} {alone : Bool} {ts : List (Long × Nat)}
    {own : Option Nat} {f : State → State} {o : FactOp}
    (h : factorOf i g (atIssue i s g p) = some (alone, ts, own, f, o)) : ∃ body, exec i s = issue i body s ∧
      body (insOf i s g p) (atIssue i s g p) = factIssue (insOf i s g p) (atIssue i s g p) alone ts own
        fun u => .done (pushFact (insOf i s g p) (f u) o) := by
  unfold factorOf at h
  split at h <;> cases h <;> exact ⟨_, rfl, rfl⟩

/-! ### TRES and TSTAT (13 R310, R314) -/

theorem recordedKind_eq (t : Word) : recordedKind t =
    if bits t.toNat 29 28 = 1 then .lu else if bits t.toNat 29 28 = 2 then .chol else .qr := by
  unfold recordedKind
  split
  next lu => rw [if_pos lu]
  next chol => simp [chol]
  next notLu notChol => rw [if_neg notLu, if_neg notChol]

/-- A TSTAT takes no report where no factorisation's is pending outside a handler. -/
theorem tstatReport_none {g : Group} (quiet : g.handler = false → ∀ r ∈ g.reports, r.fact = false) :
    (if g.handler then none else g.reports.find? (·.fact)) = none := by
  by_cases handler : g.handler = true
  · rw [if_pos handler]
  · rw [if_neg handler, List.find?_eq_none]
    intro r pending
    simp [quiet (Bool.eq_false_iff.2 handler) r pending]

/-- Settles O29: the seven that take the array share one issue (`exec_factorOf`), whose checks are the hypotheses
(`factIssue_passes`); TRES adds the state that it resumes, and TSTAT waits for nothing. -/
theorem factorResults : Obligations.FactorResults := by
  unfold Obligations.FactorResults
  refine ⟨?queued, ?tres, ?now, ?full⟩
  case queued =>
    intro i s g p alone ts own f o form issues u c first room reserved tiles
    obtain ⟨body, runs, hb⟩ := exec_factorOf form
    rw [factIssue_passes first room reserved tiles] at hb
    rw [runs]
    cases own with
    | none =>
      rw [issue_done issues hb, pushFact, factorOf_clock form]
      rfl
    | some cause => exact issue_trap issues hb (by simp [trapAt])
  case tres =>
    intro gd cont s g p i u c t op n ta issues first room reserved stopped recorded unfinished tile
    have resumable : ((bits t 31 30 = 2 || bits t 31 30 = 3) && op != 0 && tstateNext g.tstate < n) = true := by
      simp [stopped, recorded, unfinished]
    refine issue_done issues ((factIssue_passes (fun _ => first) room reserved rfl _ _).trans ?_)
    refine (congrArg (fun own => Option.elim own _ _) (if_pos resumable)).trans ?_
    rw [← recordedKind_eq]
    simp only [Option.elim_none]
    split
    next e outside => cases outside.symm.trans tile
    next => rfl
  case now =>
    intro gd d s g p i u issues
    exact issue_done issues rfl
  case full =>
    intro gd sc d s g p i u v issues ended quiet
    have idle : ¬ ((quadOf u g.quad).facts.any fun o => o.gid = s.gid && o.lanes &&& p.lanes != 0) = true := by
      simpa using ended
    refine issue_done issues ((if_neg idle).trans ?_)
    have none_due : (if (insOf i s g p).g.handler then none else (insOf i s g p).g.reports.find? (·.fact)) = none :=
      tstatReport_none quiet
    simp only [none_due]
    rfl

end Sys2Proof.Machine

/-! PROOFS. Control transfers: where lanes go, and what a malformed destination does (O8). -/

namespace Sys2Proof.Machine

/-! ### Masks of lanes -/

@[simp] theorem getLsbD_laneBit (k l : Nat) : (laneBit k).getLsbD l = (decide (l < 32) && decide (k = l)) := by
  rw [laneBit, BitVec.getLsbD_ofNat, Nat.testBit_two_pow]

theorem getLsbD_foldl_laneBit (f : Nat → Bool) (ls : List Nat) (m : Lanes) (l : Nat) :
    (ls.foldl (fun m l => if f l then m ||| laneBit l else m) m).getLsbD l =
      (m.getLsbD l || (decide (l < 32) && decide (l ∈ ls) && f l)) := by
  induction ls generalizing m with
  | nil => simp
  | cons k ls ih =>
    rw [List.foldl_cons, ih]
    by_cases here : k = l
    · subst here
      by_cases hf : f k <;> by_cases hk : k < 32 <;> simp [hf, hk]
    · by_cases hf : f k <;> simp [hf, here, Ne.symm here]

theorem getLsbD_laneMask (f : Nat → Bool) (l : Nat) : (laneMask f).getLsbD l = (decide (l < 32) && f l) := by
  rw [laneMask, getLsbD_foldl_laneBit]
  by_cases h : l < 32 <;> simp [h]

theorem getLsbD_lt_of_lane {m : Lanes} {l : Nat} (h : m.getLsbD l = true) : l < 32 := BitVec.lt_of_getLsbD h

theorem laneMask_eq_zero {f : Nat → Bool} : laneMask f = 0 ↔ ∀ l < 32, f l = false := by
  constructor
  · intro h l hl
    have off := getLsbD_laneMask f l
    rw [h] at off
    simpa [hl] using off.symm
  · intro h
    refine BitVec.eq_of_getLsbD_eq fun l hl => ?_
    rw [getLsbD_laneMask, h l hl]
    simp

/-! ### A transfer (15 R359) -/

/-- The acting lanes whose destination is malformed. -/
def badLanes (act : Lanes) (d : Nat → Long) : Lanes := laneMask fun l => act.getLsbD l && badPc (d l)

theorem badLanes_eq_zero {act : Lanes} {d : Nat → Long} :
    badLanes act d = 0 ↔ ∀ l, act.getLsbD l = true → badPc (d l) = false := by
  simp only [badLanes, laneMask_eq_zero, Bool.and_eq_false_imp]
  exact ⟨fun h l acts => h l (getLsbD_lt_of_lane acts) acts, fun h l _ => h l⟩

theorem go_moves {c : Ins} {d : Nat → Long} (good : badLanes c.act d = 0) (s : State) (f : Group → Group) :
    go c s d f = .moved (updGroup s c.gid fun g =>
      transfer (f g) (agePath c.p) fun l => if c.act.getLsbD l then d l else nextPc c.p.pc c.p.tail) :=
  if_neg (bne_iff_ne.not.2 (not_not.2 good))

theorem go_traps {c : Ins} {d : Nat → Long} (bad : badLanes c.act d ≠ 0) (s : State) (f : Group → Group) :
    go c s d f = .trap (trapAt c.p 2 0 (badLanes c.act d)) s :=
  if_pos (bne_iff_ne.2 bad)

/-- The transferring instructions issue alike, each with its own destinations and its other effect. -/
theorem exec_transferRule {i : Instr} {g : Group} {p : Path} {d : Nat → Long} {f : Group → Group}
    (told : transferRule i g p (actLanes g p i) = some (d, f)) (s : State) :
    ∃ body, exec i s = issue i body s ∧ ∀ u, body (insOf i s g p) u = go (insOf i s g p) u d f := by
  unfold transferRule at told
  split at told <;> simp only [Option.some.injEq, Prod.mk.injEq, reduceCtorEq] at told <;> obtain ⟨rfl, rfl⟩ := told <;>
    exact ⟨_, rfl, fun _ => rfl⟩

/-- Settles O8: the transferring instructions share one issue (`exec_transferRule`), which moves the path (`go_moves`) or
traps it before anything is written (`go_traps`). -/
theorem transfers : Obligations.Transfers := by
  unfold Obligations.Transfers
  constructor
  · intro i s g p d f told issues good
    obtain ⟨body, runs, goes⟩ := exec_transferRule told s
    rw [runs]
    exact issue_moved issues ((goes _).trans (go_moves (badLanes_eq_zero.2 good) _ _))
  · intro i s g p d f told issues ⟨l, acts, bad⟩
    obtain ⟨body, runs, goes⟩ := exec_transferRule told s
    have some_bad : badLanes (insOf i s g p).act d ≠ 0 := fun none_bad => by
      simp [badLanes_eq_zero.1 none_bad l acts] at bad
    rw [runs]
    exact issue_trap issues ((goes _).trans (go_traps some_bad _ _)) (by simp [trapAt])

end Sys2Proof.Machine

/-! PROOFS. Paths: how a divergence parts them, where a transfer and an exit leave them (O9, O11). -/

namespace Sys2Proof.Machine

/-! ### The first lane of a mask -/

theorem laneList_sorted (m : Lanes) : (laneList m).Pairwise (· < ·) := List.pairwise_lt_range.filter _

theorem firstLane_eq {m : Lanes} {l : Nat} (here : m.getLsbD l = true) (least : ∀ k, m.getLsbD k = true → l ≤ k) :
    firstLane m = l := by
  have listed : l ∈ laneList m := mem_laneList.2 ⟨getLsbD_lt_of_lane here, here⟩
  have sorted := laneList_sorted m
  unfold firstLane
  cases lanes : laneList m with
  | nil => rw [lanes] at listed; cases listed
  | cons k r =>
    rw [lanes] at listed sorted
    have first : k ∈ laneList m := lanes ▸ List.mem_cons_self
    have low := least k (mem_laneList.1 first).2
    show k = l
    obtain same | later := List.mem_cons.1 listed
    · exact same.symm
    · have := List.rel_of_pairwise_cons sorted later
      omega

theorem getLsbD_firstLane {m : Lanes} {l : Nat} (nonzero : m.getLsbD l = true) : m.getLsbD (firstLane m) = true := by
  have listed : l ∈ laneList m := mem_laneList.2 ⟨getLsbD_lt_of_lane nonzero, nonzero⟩
  unfold firstLane
  cases lanes : laneList m with
  | nil => rw [lanes] at listed; cases listed
  | cons k r =>
    have first : k ∈ laneList m := lanes ▸ List.mem_cons_self
    exact (mem_laneList.1 first).2

theorem exists_lane_of_ne_zero {m : Lanes} (h : m ≠ 0) : ∃ l, m.getLsbD l = true := by
  by_contra absent
  exact h (BitVec.eq_of_getLsbD_eq fun l _ => by simpa using not_exists.1 absent l)

/-! ### Lanes by destination (15 R352) -/

section
variable {d : Nat → Long}

/-- The first lane opens a part, with the later lanes that go where it goes; the other parts stay. -/
theorem gatherDests_cons (d : Nat → Long) (l : Nat) (r : List Nat) : ∃ m : Lanes,
    gatherDests d (l :: r) = (d l, m ||| laneBit l) :: (gatherDests d r).filter (fun e => e.1 != d l) ∧
      ((d l, m) ∈ gatherDests d r ∨ m = 0 ∧ ∀ e ∈ gatherDests d r, e.1 ≠ d l) := by
  simp only [gatherDests]
  split
  · next e found =>
    have there : e.1 = d l := by simpa using List.find?_some found
    exact ⟨e.2, rfl, .inl (there ▸ List.mem_of_find?_eq_some found)⟩
  · next absent =>
    have apart : ∀ e ∈ gatherDests d r, e.1 ≠ d l := by simpa using absent
    refine ⟨0, ?_, .inr ⟨rfl, apart⟩⟩
    rw [List.filter_eq_self.2 fun e he => by simpa using apart e he]
    simp

theorem mem_gatherDests_lane {ls : List Nat} {e : Long × Lanes} {l : Nat} (mem : e ∈ gatherDests d ls)
    (lane : e.2.getLsbD l = true) : l ∈ ls ∧ d l = e.1 := by
  induction ls generalizing e with
  | nil => cases mem
  | cons k r ih =>
    obtain ⟨m, parts, others⟩ := gatherDests_cons d k r
    rw [parts] at mem
    obtain rfl | rest := List.mem_cons.1 mem
    · simp only [BitVec.getLsbD_or, Bool.or_eq_true, getLsbD_laneBit, Bool.and_eq_true, decide_eq_true_eq] at lane
      obtain joined | ⟨_, rfl⟩ := lane
      · obtain there | ⟨rfl, _⟩ := others
        · exact (ih there joined).imp_left (List.mem_cons_of_mem _)
        · simp at joined
      · exact ⟨List.mem_cons_self, rfl⟩
    · exact (ih (List.mem_filter.1 rest).1 lane).imp_left (List.mem_cons_of_mem _)

theorem exists_lane_of_part {ls : List Nat} {e : Long × Lanes} (part : e ∈ gatherDests d ls) : ∃ l ∈ ls, d l = e.1 := by
  induction ls with
  | nil => exact absurd part List.not_mem_nil
  | cons k r ih =>
    obtain ⟨m, parts, -⟩ := gatherDests_cons d k r
    rw [parts] at part
    obtain rfl | rest := List.mem_cons.1 part
    · exact ⟨k, List.mem_cons_self, rfl⟩
    · obtain ⟨l, mem, goes⟩ := ih (List.mem_filter.1 rest).1
      exact ⟨l, List.mem_cons_of_mem _ mem, goes⟩

theorem nodup_gatherDests (ls : List Nat) : ((gatherDests d ls).map (·.1)).Nodup := by
  induction ls with
  | nil => exact List.nodup_nil
  | cons k r ih =>
    obtain ⟨m, parts, _⟩ := gatherDests_cons d k r
    rw [parts, List.map_cons, List.nodup_cons]
    exact ⟨by simp, ih.sublist (List.filter_sublist.map _)⟩

theorem exists_gatherDests_lane {ls : List Nat} (lanes : ∀ l ∈ ls, l < 32) {l : Nat} (mem : l ∈ ls) :
    ∃ e ∈ gatherDests d ls, e.2.getLsbD l = true := by
  induction ls with
  | nil => cases mem
  | cons k r ih =>
    obtain ⟨first, later⟩ := List.forall_mem_cons.1 lanes
    obtain ⟨m, parts, others⟩ := gatherDests_cons d k r
    rw [parts]
    obtain rfl | rest := List.mem_cons.1 mem
    · exact ⟨_, List.mem_cons_self, by simp [first]⟩
    · obtain ⟨e, he, lane⟩ := ih later rest
      by_cases same : e.1 = d k
      · have joined : (d k, m) ∈ gatherDests d r := others.resolve_right fun h => h.2 e he same
        obtain rfl := List.inj_on_of_nodup_map (nodup_gatherDests r) he joined same
        exact ⟨_, List.mem_cons_self, by simp [lane]⟩
      · exact ⟨e, List.mem_cons_of_mem _ (List.mem_filter.2 ⟨he, by simpa using same⟩), lane⟩

theorem gatherDests_sorted {ls : List Nat} (lanes : ∀ l ∈ ls, l < 32) (sorted : ls.Pairwise (· < ·)) :
    (∀ e ∈ gatherDests d ls, ∃ l, e.2.getLsbD l = true) ∧
      (gatherDests d ls).Pairwise fun a b => firstLane a.2 < firstLane b.2 := by
  induction ls with
  | nil => exact ⟨fun _ h => absurd h List.not_mem_nil, List.Pairwise.nil⟩
  | cons k r ih =>
    obtain ⟨first, later⟩ := List.forall_mem_cons.1 lanes
    obtain ⟨above, sorted⟩ := List.pairwise_cons.1 sorted
    obtain ⟨filled, rising⟩ := ih later sorted
    obtain ⟨m, parts, others⟩ := gatherDests_cons d k r
    have opens : firstLane (m ||| laneBit k) = k := by
      refine firstLane_eq (by simp [first]) fun l lane => ?_
      have mem : l ∈ k :: r := (mem_gatherDests_lane (parts ▸ List.mem_cons_self) lane).1
      obtain rfl | rest := List.mem_cons.1 mem
      · exact Nat.le_refl _
      · exact Nat.le_of_lt (above l rest)
    rw [parts]
    refine ⟨List.forall_mem_cons.2 ⟨⟨k, by simp [first]⟩, fun e he => filled e (List.mem_filter.1 he).1⟩,
      List.pairwise_cons.2 ⟨fun e he => ?_, rising.filter _⟩⟩
    have part := (List.mem_filter.1 he).1
    obtain ⟨l, lane⟩ := filled e part
    rw [opens]
    exact above _ (mem_gatherDests_lane part (getLsbD_firstLane lane)).1

/-- Settles O9: the lanes of a path, ascending, are gathered one after another (`gatherDests_cons`). -/
theorem divergenceParts : Obligations.DivergenceParts := by
  unfold Obligations.DivergenceParts
  intro d m parts
  have lanes : ∀ l ∈ laneList m, l < 32 := fun l h => (mem_laneList.1 h).1
  refine ⟨fun l lane => ?_, fun e part l lane => ?_, nodup_gatherDests _, (gatherDests_sorted lanes (laneList_sorted m)).2⟩
  · exact exists_gatherDests_lane lanes (mem_laneList.2 ⟨getLsbD_lt_of_lane lane, lane⟩)
  · exact (mem_gatherDests_lane part lane).imp_left fun h => (mem_laneList.1 h).2

end

/-! ### Transfers and exits (15 R352, R361) -/

/-- Lanes that all go to one PC stay one part. -/
theorem gatherDests_single {m : Lanes} (nonzero : m ≠ 0) (pc : Long) : gatherDests (fun _ => pc) (laneList m) = [(pc, m)] := by
  obtain ⟨covers, within, -, -⟩ := divergenceParts (fun _ => pc) m
  obtain ⟨l, lane⟩ := exists_lane_of_ne_zero nonzero
  cases lanes : laneList m with
  | nil => simpa [lanes] using mem_laneList.2 ⟨getLsbD_lt_of_lane lane, lane⟩
  | cons k r =>
    rw [lanes] at covers within
    have later : ∀ e ∈ gatherDests (fun _ => pc) r, e.1 = pc := fun e part => by
      obtain ⟨l, -, goes⟩ := exists_lane_of_part part
      exact goes.symm
    obtain ⟨x, parts, -⟩ := gatherDests_cons (fun _ => pc) k r
    have lone : gatherDests (fun _ => pc) (k :: r) = [(pc, x ||| laneBit k)] := by
      rw [parts, List.filter_eq_nil_iff.2 fun e part => by simp [later e part]]
    rw [lone] at covers within ⊢
    suffices whole : x ||| laneBit k = m by rw [whole]
    refine BitVec.eq_of_getLsbD_eq fun l _ => Bool.eq_iff_iff.2 ⟨fun lane => ?_, fun lane => ?_⟩
    · exact (within _ List.mem_cons_self l lane).1
    · obtain ⟨e, part, lane⟩ := covers l lane
      rwa [List.mem_singleton.1 part] at lane

theorem placePaths_frame (g : Group) (ps : List Path) : placePaths g ps =
    { g with paths := (placePaths g ps).paths, splits := (placePaths g ps).splits, splitAge := (placePaths g ps).splitAge } := by
  induction ps generalizing g with
  | nil => rfl
  | cons p r ih =>
    simp only [placePaths]
    rw [ih]
    split <;> rfl

/-- The new path of lanes that a transfer sends to a PC. -/
def arrives (p : Path) (pc : Long) (m : Lanes) : Path :=
  { p with lanes := m, pc := pc, enter := true, checked := pc != nextPc p.pc p.tail, replay := none, await := none }

theorem transfer_single {g : Group} {p : Path} (nonzero : p.lanes ≠ 0) (pc : Long) :
    transfer g p (fun _ => pc) = updPath g p.lanes fun _ => arrives p pc p.lanes := by
  simp only [transfer, gatherDests_single nonzero]
  rfl

/-- A divergence: the lanes go to two PCs at least. -/
theorem transfer_diverges {g : Group} {p : Path} {d : Nat → Long}
    (apart : ∃ l k, p.lanes.getLsbD l = true ∧ p.lanes.getLsbD k = true ∧ d l ≠ d k) : ∃ a rest,
    transfer g p d = placePaths { updPath g p.lanes fun _ => a with families := g.families ++ [⟨p.lanes, p.fmt⟩] } rest := by
  obtain ⟨l, k, hl, hk, other⟩ := apart
  obtain ⟨covers, within, -, -⟩ := divergenceParts d p.lanes
  obtain ⟨a, ha, la⟩ := covers l hl
  obtain ⟨b, hb, kb⟩ := covers k hk
  have differ : a ≠ b := fun same => other <| by rw [(within a ha l la).2, (within b hb k kb).2, same]
  simp only [transfer]
  split
  · next absent => rw [absent] at ha; cases ha
  · next lone => rw [lone, List.mem_singleton] at ha hb; exact absurd (ha.trans hb.symm) differ
  · exact ⟨_, _, rfl⟩

theorem exitLanes_frame (g : Group) (m : Lanes) :
    exitLanes g m = { g with live := (exitLanes g m).live, paths := (exitLanes g m).paths } := rfl

theorem mem_exitLanes {g : Group} {m : Lanes} {q : Path} : q ∈ (exitLanes g m).paths ↔
    q.lanes ≠ 0 ∧ ∃ p ∈ g.paths, q = { p with lanes := p.lanes &&& ~~~m } := by
  simp only [exitLanes, List.mem_filter, List.mem_map, bne_iff_ne]
  exact ⟨fun ⟨⟨p, mem, same⟩, left⟩ => ⟨left, p, mem, same.symm⟩, fun ⟨left, p, mem, same⟩ => ⟨⟨p, mem, same.symm⟩, left⟩⟩

/-- Settles O11: one destination is one part (`transfer_single`), two are a divergence (`transfer_diverges`), and who
exits leaves each path (`mem_exitLanes`). -/
theorem pathMoves : Obligations.PathMoves := by
  unfold Obligations.PathMoves
  refine ⟨fun g p pc nonzero => transfer_single nonzero pc, fun g p d apart => ?_, fun g m => ⟨rfl, ?_, ?_, exitLanes_frame g m⟩⟩
  · obtain ⟨a, rest, diverges⟩ := transfer_diverges (g := g) apart
    rw [diverges, placePaths_frame]
    exact ⟨rfl, rfl, rfl, rfl, rfl⟩
  · intro q mem
    obtain ⟨left, p, -, rfl⟩ := mem_exitLanes.1 mem
    exact ⟨by simp [BitVec.and_assoc], left⟩
  · intro q mem left
    exact ⟨_, mem_exitLanes.2 ⟨left, q, mem, rfl⟩, rfl⟩

end Sys2Proof.Machine

/-! PROOFS. NOP, JOIN, WSYNC, EXIT and YIELD (O10), and the barriers (O12). -/

namespace Sys2Proof.Machine

/-! ### Paths that an instruction places (15 R353-R361) -/

section
variable {i : Instr} {s : State} {g : Group} {p : Path} {body : Ins → State → Act} {f : Group → Group} (h : Reaches i s g p)
include h

theorem issueAlways_group (hb : body (insOf i s g p) (atIssue i s g p) = groupDone (atIssue i s g p) (insOf i s g p) f) :
    issueAlways i body s = .next (changes i s g p f) := by
  rw [issueAlways_next h, hb]; rfl

theorem issueAlways_moved (hb : body (insOf i s g p) (atIssue i s g p) = .moved (updGroup (atIssue i s g p) s.gid f)) :
    issueAlways i body s = .next (replaces i s g p f) := by
  rw [issueAlways_next h, hb]; rfl

end

theorem single_iff {g : Group} :
    single g ↔ (g.paths.length = 1 && g.families.all fun f => f.lanes &&& g.live == 0) = true := by
  simp [single]

/-- Settles O10: each instruction's own body is the effect stated; WSYNC acts whatever its predicate, as one path or by
parking (`single_iff`). -/
theorem pathControl : Obligations.PathControl := by
  unfold Obligations.PathControl
  refine ⟨?nop, ?join, ?wsync, ?exit, ?yield⟩
  case nop =>
    intro gd s g p issues
    exact issue_done issues rfl
  case join =>
    intro gd t s g p i issues
    exact issue_moved issues rfl
  case wsync =>
    intro gd s g p i reaches sometimes
    have acts : ¬ (gd.pred.neg && gd.pred.idx == 7) = true := by simpa using sometimes
    refine ⟨fun alone => ?_, fun shared => ?_⟩
    · exact issueAlways_group reaches ((if_neg acts).trans (if_pos (single_iff.1 alone)))
    · exact issueAlways_moved reaches ((if_neg acts).trans (if_neg (mt single_iff.2 shared)))
  case exit =>
    intro gd s g p i m issues
    exact (issue_next issues _).trans rfl
  case yield =>
    intro gd s g p i on last issues
    refine issue_moved issues (congrArg (fun f => Act.moved (updGroup (atIssue i s g p) s.gid f)) (funext fun h => ?_))
    by_cases waiting : ((h.paths.filter fun q => q.lanes != p.lanes).any fun q =>
        q.split = p.split && q.status = .queued) = true
    · exact (congrArg (fun r : Group => { r with splits := last h.splits }) (if_pos waiting)).trans (if_pos waiting).symm
    · exact (congrArg (fun r : Group => { r with splits := last h.splits }) (if_neg waiting)).trans (if_neg waiting).symm

/-! ### Barriers (15 R362-R364) -/

section
variable {wait die : Bool} {id n : Nat} {c : Ins} {s : State} {m again : Lanes}
  (open_ : releaseHeld s c.g (barScope die) = false)
include open_

/-- The phase is ended, and with it the barrier for every lane. -/
theorem barrierGo_ended (ended : (getBarrier s c.g die id).phase < (getBarrier (barrierArrive c s die id n m) c.g die id).phase)
    (alone : again = 0) :
    barrierGo wait c s die id n m again = barrierEnd wait c (barrierArrive c s die id n m) die id := by
  simp [barrierGo, open_, ended, alone]

/-- BARA does not wait for the phase of lanes that have now arrived. -/
theorem barrierGo_announced (alone : again = 0) :
    barrierGo false c s die id n m again = barrierEnd false c (barrierArrive c s die id n m) die id := by
  simp [barrierGo, open_, alone]

/-- BAR waits for a phase that is open. -/
theorem barrierGo_waits (lasts : (getBarrier (barrierArrive c s die id n m) c.g die id).phase ≤ (getBarrier s c.g die id).phase) :
    barrierGo true c s die id n m again = .park (updGroup (barrierArrive c s die id n m) c.gid fun g =>
      updPath g c.p.lanes fun p => { p with await := some (.bar (getBarrier s c.g die id).phase m again) }) := by
  simp [barrierGo, open_, Nat.not_lt.2 lasts]

/-- Lanes that arrive again begin the next phase, and BAR waits for it. -/
theorem barrierGo_waits_again
    (ended : (getBarrier s c.g die id).phase < (getBarrier (barrierArrive c s die id n m) c.g die id).phase) (more : again ≠ 0)
    (lasts : (getBarrier (barrierArrive c (barrierArrive c s die id n m) die id n again) c.g die id).phase ≤
      (getBarrier (barrierArrive c s die id n m) c.g die id).phase) :
    barrierGo true c s die id n m again =
      .park (updGroup (barrierArrive c (barrierArrive c s die id n m) die id n again) c.gid fun g =>
        updPath g c.p.lanes fun p =>
          { p with await := some (.bar (getBarrier (barrierArrive c s die id n m) c.g die id).phase again 0) }) := by
  have more : again ≠ 0#32 := more
  simp [barrierGo, open_, ended, more, Nat.not_lt.2 lasts]

end

/-- A path that begins BAR or BARA arrives, in the phase that is open or, where it has arrived in that, in the next. -/
theorem barrierBody_allowed {wait die : Bool} {id n : Nat} {c : Ins} {s : State} (new : c.p.await = none)
    (allowed : barrierCause s c die n (getBarrier s c.g die id) true = none) : barrierBody wait die id n c s =
      barrierGo wait c s die id n (c.act &&& ~~~arrivedNow (getBarrier s c.g die id) c.gid c.act)
        (arrivedNow (getBarrier s c.g die id) c.gid c.act) := by
  simp only [barrierBody, new, allowed]

theorem barrierBody_forbidden {wait die : Bool} {id n e : Nat} {c : Ins} {s : State} (new : c.p.await = none)
    (cause : barrierCause s c die n (getBarrier s c.g die id) true = some e) :
    barrierBody wait die id n c s = .trap (c.trap 0x0E e) s := by
  simp only [barrierBody, new, cause]

/-- Settles O12: BAR and BARA share one body (`barrierBody_allowed`), whose ends are those of `barrierGo`; a barrier that is
forbidden traps before any lane arrives (`barrierBody_forbidden`). -/
theorem barrierResults : Obligations.BarrierResults := by
  unfold Obligations.BarrierResults
  refine ⟨⟨?bar, ?bara, ?barw⟩, ?traps⟩
  case bar =>
    intro gd die id n s g p i u c phase again v w parked issues allowed open_
    have begins : barrierBody true die id.toNat n.toNat c u =
        barrierGo true c u die id.toNat n.toNat (c.act &&& ~~~again) again := barrierBody_allowed issues.new allowed
    refine ⟨fun ended alone => ?_, fun lasts => ?_, fun ended more lasts => ?_⟩
    · exact issue_done issues (begins.trans (barrierGo_ended open_ ended alone))
    · exact issue_park issues (begins.trans (barrierGo_waits open_ lasts))
    · exact issue_park issues (begins.trans (barrierGo_waits_again open_ ended more lasts))
  case bara =>
    intro gd die id n s g p i u c issues allowed open_ fresh
    have announced := (barrierBody_allowed (wait := false) issues.new allowed).trans (barrierGo_announced open_ fresh)
    exact issue_done issues (announced.trans
      (congrArg (fun r => Act.done (barrierArrive c u die id.toNat n.toNat (c.act &&& ~~~r))) fresh))
  case barw =>
    intro gd die id s g p i u c issues allowed past
    have none_open : ¬ ((laneList c.act).any fun l => tblFind (getBarrier u g die id.toNat).last (32 * s.gid + l) =
        some (getBarrier u g die id.toNat).phase) = true := by
      simpa using past
    have allowed : barrierCause u c die 0 (getBarrier u c.g die id.toNat) false = none := allowed
    refine issue_done issues ?_
    simp only [c, u, allowed] at none_open ⊢
    exact if_neg none_open
  case traps =>
    intro gd die id n s g p e i forbidden issues
    have named : (trapAt p 0x0E e (actLanes g p i)).cls ≠ 0x11 ∧ (trapAt p 0x0E e (actLanes g p i)).cls ≠ 0x12 := by
      simp [trapAt]
    obtain ⟨rfl, cause⟩ | ⟨rfl, cause⟩ | ⟨rfl, cause⟩ := forbidden
    · exact issue_trap issues (barrierBody_forbidden issues.new cause) named
    · exact issue_trap issues (barrierBody_forbidden issues.new cause) named
    · refine issue_trap issues ?_ named
      simp only [show barrierCause (atIssue (.barw gd die id) s g p) (insOf (.barw gd die id) s g p) die 0
        (getBarrier (atIssue (.barw gd die id) s g p) (insOf (.barw gd die id) s g p).g die id.toNat) false = some e from cause]
      rfl

end Sys2Proof.Machine

/-! PROOFS. The relay instructions: how elements combine (O32), what each does (O33), and its faults (O34). -/

namespace Sys2Proof.Machine

/-! ### Two elements (14 R339, 10 R243) -/

theorem intOf_unsigned (x : Word) : intOf 32 false x.toNat = x.toNat := by
  simp only [intOf, Bool.false_and, Bool.false_eq_true, if_false]
  exact_mod_cast Nat.mod_eq_of_lt x.isLt

theorem intOf_signed (x : Word) : intOf 32 true x.toNat = x.toInt := by
  have low : x.toNat % 2 ^ 32 = x.toNat := Nat.mod_eq_of_lt x.isLt
  have top : bit x.toNat 31 = x.msb := by
    rw [BitVec.msb_eq_getLsbD_last]; rfl
  simp only [intOf, low, Bool.true_and, BitVec.toInt_eq_msb_cond, ← top]
  rfl

/-- The order in which integer elements are compared: signed for i32. -/
def elementLess (ity : Nat) (x y : Word) : Bool := if ity = 5 then x.slt y else x.ult y

theorem intOf_lt_intOf (ity : Nat) (x y : Word) :
    decide (intOf 32 (ity = 5) x.toNat < intOf 32 (ity = 5) y.toNat) = elementLess ity x y := by
  by_cases signed : ity = 5
  · simp [elementLess, signed, intOf_signed, BitVec.slt]
  · simp [elementLess, signed, intOf_unsigned, BitVec.ult]

/-- Integer elements combine as words. -/
theorem combine_word {ity : Nat} (int : ity = 5 ∨ ity = 6) (x y : Word) :
    BitVec.ofNat 32 (combine 0 ity x.toNat y.toNat) = x + y ∧
    BitVec.ofNat 32 (combine 1 ity x.toNat y.toNat) = (if elementLess ity y x then y else x) ∧
    BitVec.ofNat 32 (combine 2 ity x.toNat y.toNat) = (if elementLess ity x y then y else x) ∧
    BitVec.ofNat 32 (combine 3 ity x.toNat y.toNat) = x &&& y ∧
    BitVec.ofNat 32 (combine 4 ity x.toNat y.toNat) = x ||| y ∧
    BitVec.ofNat 32 (combine 5 ity x.toNat y.toNat) = x ^^^ y := by
  have whole : ¬ (ity = 0x11 || ity = 0x12) = true := by
    obtain rfl | rfl := int <;> decide
  simp only [combine, if_neg whole, intOf_lt_intOf]
  refine ⟨?_, ?_, ?_, ?_, ?_, ?_⟩
  · exact BitVec.eq_of_toNat_eq (by simp)
  · split <;> simp
  · split <;> simp
  · exact BitVec.eq_of_toNat_eq (by simp [← BitVec.toNat_and])
  · exact BitVec.eq_of_toNat_eq (by simp [← BitVec.toNat_or])
  · exact BitVec.eq_of_toNat_eq (by simp [← BitVec.toNat_xor])

/-! ### Two chunks -/

theorem exists_four_of_length {l : List Byte} {n : Nat} (h : l.length = 4 * (n + 1)) :
    ∃ a b c d r, l = a :: b :: c :: d :: r ∧ r.length = 4 * n := by
  match l, h with
  | a :: b :: c :: d :: r, h => exact ⟨a, b, c, d, r, rfl, by simp only [List.length_cons] at h; omega⟩

theorem combineBytes_elements (op t : Nat) {n : Nat} {a b : List Byte} (ha : a.length = 4 * n) (hb : b.length = 4 * n) :
    (combineBytes op t a b).length = 4 * n ∧
    ∀ k, k < n → ((combineBytes op t a b).drop (4 * k)).take 4 =
      bytesOfNat 4 (combine op t (natOfBytes ((a.drop (4 * k)).take 4)) (natOfBytes ((b.drop (4 * k)).take 4))) := by
  induction n generalizing a b with
  | zero =>
    obtain rfl : a = [] := List.eq_nil_of_length_eq_zero ha
    exact ⟨rfl, fun k h => absurd h (Nat.not_lt_zero k)⟩
  | succ n ih =>
    obtain ⟨a0, a1, a2, a3, r, rfl, hr⟩ := exists_four_of_length ha
    obtain ⟨b0, b1, b2, b3, q, rfl, hq⟩ := exists_four_of_length hb
    obtain ⟨length, elements⟩ := ih hr hq
    refine ⟨by simp [combineBytes, length]; omega, fun k below => ?_⟩
    cases k with
    | zero => simp [combineBytes]
    | succ k =>
      have later := elements k (by omega)
      have four : (bytesOfNat 4 (combine op t (natOfBytes [a0, a1, a2, a3]) (natOfBytes [b0, b1, b2, b3]))).length = 4 :=
        bytesOfNat_length ..
      rw [combineBytes, show 4 * (k + 1) = 4 + 4 * k by omega, ← List.drop_drop, List.drop_left' four, later]
      simp [Nat.add_comm 4]

/-- Settles O32: integer elements combine as words (`combine_word`), and chunks element by element. -/
theorem combinedElements : Obligations.CombinedElements := by
  unfold Obligations.CombinedElements
  refine ⟨fun x y => ?_, fun op t a b n ha hb => combineBytes_elements op t ha hb⟩
  obtain ⟨-, leastSigned, greatestSigned, -⟩ := combine_word (.inl rfl) x y
  obtain ⟨-, least, greatest, -⟩ := combine_word (.inr rfl) x y
  refine ⟨fun t int => ?_, leastSigned, greatestSigned, least, greatest⟩
  obtain ⟨sum, -, -, conj, disj, parity⟩ := combine_word int x y
  exact ⟨sum, conj, disj, parity⟩

/-! ### The turn of a relay program (14 R331) -/

section
variable {s t : State} {x : Instance} {body : Nat → Instance → State → RAct} (runs : Runs s x)
include runs

theorem relayStep_go (hb : body s.inst x s = .go t) : relayStep s body = .next (relayOn s t) := by
  obtain ⟨turn, idle, few⟩ := runs
  simp [relayStep, turn, idle, Nat.not_le.2 few, hb, relayOn]

theorem relayStep_jump {pc : Nat} (hb : body s.inst x s = .jump t pc) :
    relayStep s body = .next (wake (updInstance t s.inst fun y => { y with pc := pc, count := y.count + 1 })) := by
  obtain ⟨turn, idle, few⟩ := runs
  simp [relayStep, turn, idle, Nat.not_le.2 few, hb]

theorem relayStep_ended (hb : body s.inst x s = .ended t) : relayStep s body = .next (wake t) := by
  obtain ⟨turn, idle, few⟩ := runs
  simp [relayStep, turn, idle, Nat.not_le.2 few, hb]

theorem relayStep_fault {cause : Nat} {bad : Option Nat} (hb : body s.inst x s = .fault t cause bad) :
    relayStep s body = .next (wake (relayFault t s.inst cause bad)) := by
  obtain ⟨turn, idle, few⟩ := runs
  simp [relayStep, turn, idle, Nat.not_le.2 few, hb]

end

theorem relayStep_spent {s : State} {x : Instance} (turn : tblFind s.instances s.inst = some x) (idle : x.sending = false)
    (spent : 65536 ≤ x.count) (body : Nat → Instance → State → RAct) :
    relayStep s body = .next (wake (relayFault s s.inst 5 none)) := by
  simp [relayStep, turn, idle, spent]

/-! ### The slot of a handle -/

section
variable {s : State} {x : Instance} {h : Word} {n : Nat} {y : Slot} {k : Nat → Slot → RAct}

theorem withSlot_some (named : slotOf s x h = some (n, y)) : withSlot s x h k = k n y := by
  simp only [withSlot, named]

theorem withSlot_none (unnamed : slotOf s x h = none) : withSlot s x h k = .fault s 2 none := by
  simp only [withSlot, unnamed]

theorem withData_checked (named : slotOf s x h = some (n, y)) (checked : y.checked = true) (clean : y.ecc = false) :
    withData s x h k = k n y := by
  simp [withData, withSlot_some named, checked, clean]

theorem withData_unchecked (named : slotOf s x h = some (n, y)) (unchecked : y.checked = false) :
    withData s x h k = .fault s 3 none := by
  simp [withData, withSlot_some named, unchecked]

theorem withData_none (unnamed : slotOf s x h = none) : withData s x h k = .fault s 2 none := withSlot_none unnamed

end

/-- FWD and MCAST send to endpoints that a port reaches. -/
theorem forward_sends {kind : PktKind} {rod : Bool} {ka : BitVec 4} {hs : Instance → List Nat} {s : State} {x : Instance}
    {n : Nat} {y : Slot} {es : List Endpoint} (runs : Runs s x) (named : slotOf s x (kGet x ka) = some (n, y))
    (checked : y.checked = true) (clean : y.ecc = false) (source : sourcesOpen s x.ctx = true) (nonempty : es ≠ [])
    (reached : ((hs x).map fun h => (endpointOf s x.ctx h).filter fun e => (fabricPort s x.ctx e.pkg.toNat).isSome) =
      es.map some) :
    forward kind rod ka hs s = .next (wake (updInstance (sendSlot kind rod s.inst n x y es s) s.inst fun z =>
      { z with sending := true, blocked := true })) := by
  refine relayStep_ended runs ((withData_checked named checked clean).trans ?_)
  have sends : ¬ ((es.map some).any Option.isNone || es.map some = []) = true := by simp [nonempty]
  simp only [reached, source, if_neg sends]
  simp

theorem forward_faults {kind : PktKind} {rod : Bool} {ka : BitVec 4} {hs : Instance → List Nat} {s : State} {x : Instance}
    {cause : Nat} (runs : Runs s x) (faults : ∀ k, withData s x (kGet x ka) k = .fault s cause none) :
    forward kind rod ka hs s = .next (wake (relayFault s s.inst cause none)) :=
  relayStep_fault runs (faults _)

/-- Settles O33: each instruction's own body under its checks is the effect stated; the program goes on, jumps, or has
ended (`relayStep_go`, `relayStep_jump`, `relayStep_ended`). -/
theorem relayResults : Obligations.RelayResults := by
  unfold Obligations.RelayResults
  refine ⟨⟨?match_, ?waitin, ?seqchk, ?holdb, ?nack, ?done_, ?fwd, ?mcast⟩,
    ?comb, ?emit, ?bump, ?ldk, ?ldkSlot, ?ldkBinding, ?addk, ?bne, ?jmp, ?untraced, ?traced⟩
  case match_ =>
    intro imm kd ka n s x m runs oldest
    change execRelayMatch imm kd ka n s = _
    exact relayStep_go runs (by simp only [oldest])
  case waitin =>
    intro kd port s x m runs oldest
    change execWaitin kd port s = _
    exact relayStep_go runs (by simp only [oldest])
  case seqchk =>
    intro kd ka s x n y t runs named
    change (_ → execSeqchk kd ka s = _) ∧ (_ → execSeqchk kd ka s = _)
    refine ⟨fun taken => ?_, fun new => ?_⟩
    · exact relayStep_go runs ((withSlot_some named).trans (if_pos taken))
    · exact relayStep_go runs ((withSlot_some named).trans (if_neg (Bool.eq_false_iff.1 new)))
  case holdb =>
    intro kd ka s x n y runs named checked clean room
    change execHoldb kd ka s = _
    exact relayStep_go runs ((withData_checked named checked clean).trans (if_pos room))
  case nack =>
    intro ka s x n y runs named
    change execNack ka s = _
    exact relayStep_go runs (withSlot_some named)
  case done_ =>
    intro s x runs
    change execRelayDone s = _
    exact relayStep_ended runs rfl
  case fwd =>
    intro rod ka h s x n y e runs named checked clean source listed reached
    change execFwd rod ka h s = _
    exact forward_sends runs named checked clean source (List.cons_ne_nil e []) (by simp [listed, reached])
  case mcast =>
    intro rod ka kb n s x m y es runs named checked clean source nonempty reached
    change execMcast rod ka kb n s = _
    exact forward_sends runs named checked clean source nonempty (by simpa [Function.comp_def] using reached)
  case comb =>
    intro kd ka kb s x na ya nb yb b runs namedA namedB checkedA cleanA checkedB cleanB binding reduce other pair
    change execComb kd ka kb s = _
    refine relayStep_go runs ((withData_checked namedA checkedA cleanA).trans
      ((withData_checked namedB checkedB cleanB).trans ?_))
    simp [binding, reduce, other, pair]
  case emit =>
    intro ka s x n y b s1 s2 runs named checked clean binding whole single open_ emitted completed
    change execEmit ka s = _
    refine relayStep_go runs ((withData_checked named checked clean).trans ?_)
    have free : ¬ ((members s x.cid).any fun m => emitHeld s y m.2) = true := by simpa using open_
    simpa [binding, free, emitted, completed] using ⟨whole, single⟩
  case bump =>
    intro ka s x n y runs named checked room
    change execBump ka s = _
    refine relayStep_go runs ((withSlot_some named).trans ?_)
    have free : ¬ (((members s x.cid).filter fun e => e.2.recv).any fun e =>
        (bumpPlace s e.2).any fun c => !monitorRoom s c.1 true c.2) = true := by
      simp only [List.any_eq_true, List.mem_filter, Option.any_eq_true]
      rintro ⟨e, ⟨mem, recv⟩, ⟨blk, off⟩, place, full⟩
      simp [room e mem recv blk off place] at full
    simp [checked, free]
  case ldk =>
    intro kd ka n s x runs
    change execRelayLdk 0 kd ka n s = _
    exact relayStep_go runs rfl
  case ldkSlot =>
    intro kd ka n s x m y runs named
    change execRelayLdk 1 kd ka n s = _
    exact relayStep_go runs (withSlot_some named)
  case ldkBinding =>
    intro kd ka n s x runs
    change execRelayLdk 2 kd ka n s = _
    exact relayStep_go runs rfl
  case addk =>
    intro imm kd ka kb n s x runs
    change execAddk imm kd ka kb n s = _
    exact relayStep_go runs rfl
  case bne =>
    intro ka kb t s x runs
    change execBne ka kb t s = _
    refine (relayStep_jump runs rfl).trans ?_
    simp
  case jmp =>
    intro t s x runs
    change execJmp t s = _
    exact relayStep_jump runs rfl
  case untraced =>
    intro ka tag s x runs ring
    change execTrace ka tag s = _
    exact relayStep_go runs (by simp only [ring])
  case traced =>
    intro ka tag s x r runs ring
    change execTrace ka tag s = _
    exact relayStep_go runs (by simp only [ring])

/-! ### Recorded keys (14 R338) -/

theorem keys_ackSlot (s : State) (n : Nat) : (ackSlot s n).keys = s.keys := by
  unfold ackSlot
  split
  · split <;> rfl
  · rfl

theorem keys_fillStage (s : State) (mfn : Nat) (b : Binding) (g : Stage) (off : Nat) (bs : List Byte) :
    (fillStage s mfn b g off bs).keys = s.keys := by
  simp only [fillStage, updBinding_keys]
  split <;> rfl

theorem keys_stageStore {s t : State} {mfn off : Nat} {bs : List Byte} (h : stageStore s mfn off bs = some t) :
    t.keys = s.keys := by
  unfold stageStore at h
  split at h
  · cases h; rfl
  · dsimp only at h
    split at h
    · split at h <;> cases h
      exact keys_fillStage ..
    · split at h <;> cases h
      exact keys_fillStage ..

theorem keys_pumpHeld (mfn C : Nat) (stuck : List Nat) (l : List (Nat × List Byte)) (s : State) :
    (pumpHeld mfn C stuck l s).1.keys = s.keys := by
  induction l generalizing stuck s with
  | nil => rfl
  | cons e r ih =>
    obtain ⟨off, bs⟩ := e
    simp only [pumpHeld]
    split
    · next t staged =>
      split at staged
      · cases staged
      · rw [ih, keys_stageStore staged]
    · exact ih ..

theorem keys_pump (s : State) (mfn : Nat) : (pump s mfn).keys = s.keys := by
  unfold pump
  split
  · rfl
  · exact keys_pumpHeld ..

theorem keys_pumpAll (s : State) : (pumpAll s).keys = s.keys := by
  have each : ∀ (l : Tbl Binding) (s : State),
      (l.foldl (fun s e => if e.2.held = [] then s else pump s e.1) s).keys = s.keys := by
    intro l
    induction l with
    | nil => exact fun s => rfl
    | cons e l ih =>
      intro s
      rw [List.foldl_cons, ih]
      split
      · rfl
      · exact keys_pump ..
  exact each s.bindings s

@[simp] theorem keys_kSet (s : State) (k : Nat) (r : BitVec 4) (x : Word) : (kSet s k r x).keys = s.keys := rfl
@[simp] theorem keys_relayOn (s t : State) : (relayOn s t).keys = t.keys := rfl

theorem keys_consume (s : State) (k n : Nat) : (consume s k n).keys = s.keys := keys_pumpAll _

/-- What SEQCHK leaves of the recorded keys: the packet's is among them, and none is added when it was. -/
theorem keys_seqchk {s t : State} {x : Instance} {kd ka : BitVec 4} {n : Nat} {y : Slot} (runs : Runs s x)
    (named : slotOf s x (kGet x ka) = some (n, y)) (ran : exec (.seqchk kd ka) s = .next t) :
    t.keys = if s.keys.contains (keyOf y) then s.keys else s.keys ++ [keyOf y] := by
  obtain ⟨⟨-, -, seqchk, -⟩, -⟩ := relayResults
  obtain ⟨taken, new⟩ := seqchk kd ka s x n y runs named
  rw [keys_ackSlot] at taken new
  split
  · next listed =>
    rw [Host.Outcome.next.inj (ran.symm.trans (taken listed))]
    rw [keys_relayOn, keys_kSet, keys_consume, keys_ackSlot]
  · next unlisted =>
    rw [Host.Outcome.next.inj (ran.symm.trans (new (Bool.eq_false_iff.2 unlisted)))]
    rw [keys_relayOn, keys_kSet]

/-- Settles O34: an instruction whose handle names no slot faults (`withSlot_none`), one that reads a slot that is not
checked too (`withData_unchecked`), and SEQCHK alone records keys (`keys_seqchk`). -/
theorem relayFaults : Obligations.RelayFaults := by
  unfold Obligations.RelayFaults
  refine ⟨?unnamed, ?unchecked, ?spent, ?once⟩
  case unnamed =>
    intro s x ka runs unnamed i form
    obtain ⟨kd, rfl⟩ | ⟨kd, rfl⟩ | ⟨kd, kb, rfl⟩ | rfl | rfl | rfl | ⟨rod, h, rfl⟩ | ⟨rod, kb, n, rfl⟩ := form
    · exact (relayStep_fault runs (withSlot_none unnamed) : execSeqchk kd ka s = _)
    · exact (relayStep_fault runs (withData_none unnamed) : execHoldb kd ka s = _)
    · exact (relayStep_fault runs (withData_none unnamed) : execComb kd ka kb s = _)
    · exact (relayStep_fault runs (withSlot_none unnamed) : execNack ka s = _)
    · exact (relayStep_fault runs (withData_none unnamed) : execEmit ka s = _)
    · exact (relayStep_fault runs (withSlot_none unnamed) : execBump ka s = _)
    · exact (forward_faults runs fun _ => withData_none unnamed : execFwd rod ka h s = _)
    · exact (forward_faults runs fun _ => withData_none unnamed : execMcast rod ka kb n s = _)
  case unchecked =>
    intro s x ka n y runs named unchecked i form
    obtain ⟨kd, rfl⟩ | ⟨kd, kb, rfl⟩ | rfl | rfl | ⟨rod, h, rfl⟩ | ⟨rod, kb, n, rfl⟩ := form
    · exact (relayStep_fault runs (withData_unchecked named unchecked) : execHoldb kd ka s = _)
    · exact (relayStep_fault runs (withData_unchecked named unchecked) : execComb kd ka kb s = _)
    · exact (relayStep_fault runs (withData_unchecked named unchecked) : execEmit ka s = _)
    · exact (relayStep_fault runs ((withSlot_some named).trans (if_pos (by simp [unchecked]))) : execBump ka s = _)
    · exact (forward_faults runs fun _ => withData_unchecked named unchecked : execFwd rod ka h s = _)
    · exact (forward_faults runs fun _ => withData_unchecked named unchecked : execMcast rod ka kb n s = _)
  case spent =>
    intro s x t turn idle spent
    exact (relayStep_spent turn idle spent _ : execJmp t s = _)
  case once =>
    intro kd ka s t x n y runs named ran
    rw [keys_seqchk runs named ran]
    refine ⟨?_, fun listed => if_pos listed⟩
    split
    · next listed => exact listed
    · simp

end Sys2Proof.Machine

/-! PROOFS. Collectives: barrier objects, alias windows, endpoints and trace rings (O31), inns and child grids (O13). -/

namespace Sys2Proof.Machine

/-! ### What these instructions share -/

/-- A path that has begun an instruction ends it. -/
theorem issue_resumed_done {i : Instr} {s u : State} {g : Group} {p : Path} {body : Ins → State → Act}
    (turn : issuing s = some (g, p)) (begun : p.await.isSome = true) (acts : actLanes g p i ≠ 0) (free : waitsFull i = false)
    (hb : body (insOf i s g p) (atIssue i s g p) = .done u) : issue i body s = .next (goesOn i s g p u) :=
  (issue_resumed turn begun acts free body).trans (by rw [hb]; rfl)

/-- A status is an instruction's only effect on its group. -/
theorem issue_answers {i : Instr} {s v : State} {g : Group} {p : Path} {d : Dst} {x : Long} {body : Ins → State → Act}
    (issues : Issues i s g p)
    (hb : body (insOf i s g p) (atIssue i s g p) = result (insOf i s g p) v d 1 fun _ => x) :
    issue i body s = .next (answers i s g p d v x) :=
  issue_done issues hb

/-- A path that begins its reads and finds its bytes goes on with them. -/
theorem splitRead_begins {α : Type} {c : Ins} {s t : State} {args : List Long} {x : α}
    {read : List Long → State → Except EngErr (State × α)} {bad : EngErr → State → Act} {go : List Long → α → State → Act}
    (new : c.p.await = none) (found : read args { s with arrived := [] } = .ok (t, x)) :
    splitRead c s args read bad go = go args x { t with arrived := [], ios := tblDel t.ios s.fresh } := by
  simp only [splitRead, new]
  rw [if_neg (by decide), show ioBytes ⟨c.gid, 0, [], [], args, []⟩ = [] from rfl, found]

theorem reading_of_new {p : Path} (new : p.await = none) : reading p = false := by
  simp only [reading, new]

/-- The body of a barrier object's instruction, where the object is read. -/
theorem boBody_reads {c : Ins} {s t : State} {m : MemOpd} {write : Bool} {k : State → Long → List Byte → Act} {bs : List Byte}
    (aligned : (memAddr c.g c.p m (firstLane c.act)).toNat % 64 = 0)
    (free : heldRequest s (dieOf c) (asidOf (ctxOf s c.g) (memAddr c.g c.p m (firstLane c.act)))
      (lineOf (memAddr c.g c.p m (firstLane c.act)).toNat) write = false)
    (found : boRead c s (memAddr c.g c.p m (firstLane c.act)) = .ok (t, bs)) :
    boBody c s m write k = k t (memAddr c.g c.p m (firstLane c.act)) bs := by
  have at_ : ¬ ((memAddr c.g c.p m (firstLane c.act)).toNat % 64 != 0) = true := by simp [aligned]
  refine (if_neg at_).trans ((if_neg (Bool.eq_false_iff.1 free)).trans ?_)
  rw [found]

/-- BOARM's new object. -/
def armed (o : BarObj) (reset : Bool) (target : Nat) : BarObj :=
  { o with
    target := target
    count := if reset then 0 else o.count
    failed := !reset && o.failed
    cause := if reset then 0 else o.cause }

theorem armed_eq (o : BarObj) (reset : Bool) (target : Nat) :
    { (if reset then { o with count := 0, failed := false, cause := 0 } else o) with target := target } =
      armed o reset target := by
  cases reset <;> rfl

/-- Settles O31: the hypotheses are the checks of each instruction's own body; the objects are read by one body
(`boBody_reads`), descriptors and entries by another (`splitRead_begins`). -/
theorem collectiveResults : Obligations.CollectiveResults := by
  unfold Obligations.CollectiveResults
  refine ⟨⟨?boarm, ?bowait, ?botest⟩, ?bind, ?unbind, ?endpoint, ?trace⟩
  case boarm =>
    intro gd reset at_ d mo s g p u1 bs v i c u va x asid issues aligned open_ free found written
    have held : ¬ (releases at_.ord && releaseHeld (atIssue i s g p) g at_.scope) = true := by simpa using open_
    refine issue_done issues ((if_neg held).trans ?_)
    have reads (k) := boBody_reads (c := c) (s := u) (m := mo) (k := k) aligned free found
    refine (reads _).trans ?_
    have wrote : l2Write u1 x.w va (barObjBytes bs { (if reset then { barObj bs with count := 0, failed := false, cause := 0 }
        else barObj bs) with target := (sGet g d.reg.toNat).toNat }) .load (wideRelease x) = .ok v :=
      (congrArg (fun o => l2Write u1 x.w va (barObjBytes bs o) .load (wideRelease x)) (armed_eq _ _ _)).trans written
    dsimp only
    split
    · next w stored =>
      cases stored.symm.trans wrote
      rfl
    · next f failed => cases failed.symm.trans wrote
    · next failed => cases failed.symm.trans wrote
  case bowait =>
    intro gd at_ d mo s g p u1 bs i c u va issues aligned free found ended
    have reads (k) := boBody_reads (c := c) (s := u) (m := mo) (k := k) aligned free found
    have ended : ((barObj bs).failed || boComplete (barObj bs)) = true := by simpa using ended
    exact issue_answers issues ((reads _).trans (if_pos ended))
  case botest =>
    intro gd at_ d mo s g p u1 bs i c u va issues aligned free found
    have reads (k) := boBody_reads (c := c) (s := u) (m := mo) (k := k) aligned free found
    exact issue_answers issues (reads _)
  case bind =>
    intro gd d a b s g p i u t t0 va issues open_
    have free : ¬ drainHeld u (ownStore u g) = true := Bool.eq_false_iff.1 open_
    have new : reading (insOf i s g p).p = false := reading_of_new issues.new
    constructor
    · intro taken
      have bound : (!reading (insOf i s g p).p && (freeWindow t (whoOf t g) va).isNone) = true := by simp [new, taken]
      exact issue_answers issues ((if_neg free).trans (if_pos bound))
    · intro vacant u1 bs tb found v
      have unbound : ¬ (!reading (insOf i s g p).p && (freeWindow t (whoOf t g) va).isNone) = true := by
        simp [new, Option.isSome_iff_ne_none.1 vacant]
      have reads (bad go) := splitRead_begins (c := insOf i s g p) (s := t) (args := [va, sGet g b.reg.toNat])
        (read := fun l s => bindRead s (whoOf s g) (l.getD 1 0)) (bad := bad) (go := go) issues.new found
      constructor
      · intro x w status
        refine issue_answers issues ((if_neg free).trans ((if_neg unbound).trans ((reads _ _).trans ?_)))
        dsimp only
        split
        · next det => cases det.symm.trans status
        · next other => cases other.symm.trans status; rfl
      · intro det
        refine issue_trap issues ((if_neg free).trans ((if_neg unbound).trans ((reads _ _).trans ?_))) (by simp [trapAt])
        dsimp only
        split
        · rfl
        · next status => cases status.symm.trans det
  case unbind =>
    intro gd d a s g p i u t issues open_
    have free : ¬ drainHeld u (ownStore u g) = true := Bool.eq_false_iff.1 open_
    refine ⟨fun absent => ?_, fun v mfn there => ⟨fun unbound => ?_, fun bound => ?_⟩⟩
    · refine issue_answers issues ((if_neg free).trans ?_)
      split
      · rfl
      · next present => cases present.symm.trans absent
    · refine issue_answers issues ((if_neg free).trans ?_)
      split
      · next absent => cases absent.symm.trans there
      · next present =>
        cases present.symm.trans there
        exact if_neg (by simp [unbound])
    · refine issue_answers issues ((if_neg free).trans ?_)
      split
      · next absent => cases absent.symm.trans there
      · next present =>
        cases present.symm.trans there
        exact if_pos bound
  case endpoint =>
    intro gd d a b s g p i u t t0 n issues open_
    have free : ¬ drainHeld u (ownStore u g) = true := Bool.eq_false_iff.1 open_
    have new : reading (insOf i s g p).p = false := reading_of_new issues.new
    constructor
    · intro above
      have outside : (!reading (insOf i s g p).p && decide (4096 ≤ n)) = true := by simp [new, above]
      exact issue_answers issues ((if_neg free).trans (if_pos outside))
    · intro below u1 bs found v
      have inside : ¬ (!reading (insOf i s g p).p && decide (4096 ≤ n)) = true := by simp [new, below]
      have reads (bad go) := splitRead_begins (c := insOf i s g p) (s := t) (args := [sGet g a.reg.toNat, sGet g b.reg.toNat])
        (read := fun l s => vmRead s (whoOf s g) (l.getD 1 0) 16 .load) (bad := bad) (go := go) issues.new found
      refine ⟨fun entry => ?_, fun entry => ?_, fun e entry => ?_⟩ <;>
        refine issue_answers issues ((if_neg free).trans ((if_neg inside).trans ((reads _ _).trans ?_))) <;>
        simp only [entry] <;> rfl
  case trace =>
    intro gd d a b s g p i u t va n issues open_
    have free : ¬ drainHeld u (ownStore u g) = true := Bool.eq_false_iff.1 open_
    refine ⟨fun zero => ?_, fun nonzero bad => ?_, fun nonzero aligned canon low high => ?_⟩
    · exact issue_answers issues ((if_neg free).trans (if_pos zero))
    · have refused : (va.toNat % 64 != 0 || !canonical va || decide (n < 4) || decide (16 < n)) = true := by
        simpa [or_assoc] using bad
      exact issue_answers issues ((if_neg free).trans ((if_neg nonzero).trans (if_pos refused)))
    · have taken : ¬ (va.toNat % 64 != 0 || !canonical va || decide (n < 4) || decide (16 < n)) = true := by
        simp [aligned, canon, low, high]
      exact issue_answers issues ((if_neg free).trans ((if_neg nonzero).trans (if_neg taken)))

/-! ### Inns and child grids (15 R366-R371) -/

theorem spawnWith_deposits {c : Ins} {s : State} (open_ : releaseHeld s c.g .die = false) (d : Dst) (t : Target)
    (parcel : Nat → List Word) :
    let r := depositLanes c (targetPc c.p.pc t) parcel (laneList c.act) (release s c.g .die)
    spawnWith c s d t parcel = .done (produce r.1 c.gid (dstKeys d 1 1)
      (regWrites d 1 c.act fun l => BitVec.ofNat 64 (tblGet 0 r.2 l)) []) :=
  if_neg (Bool.eq_false_iff.1 open_)

/-- A descriptor that has a free entry of an open ring is pushed, and the path waits for its ticket. -/
theorem pushDesc_pushes {c : Ins} {s w : State} {d : Dst} {q : Nat} {desc : List Byte} (serves : canPush s (ctxOf s c.g) q = true)
    (room : ((queueOf s q).tail - (queueOf s q).head).toNat < 2 ^ (queueOf s q).log2)
    (free : releaseHeld s c.g .pkg = false) (source : sourcesOpen s (ctxOf s c.g) = true)
    (written : vmWrite (release s c.g .pkg) (whoOf s c.g)
      ((queueOf s q).base + BitVec.ofNat 64 (64 * ((queueOf s q).tail.toNat % 2 ^ (queueOf s q).log2))) desc .store = .ok w) :
    pushDesc c s d q desc = awaiting (updQueue w q fun y => { y with
      tail := y.tail + 1, times := y.times.join (knowOf w c.gid)
      pushed := y.pushed ++ [(y.tail.toNat, c.g.grid, c.g.block)] }) c d (.ticket q (queueOf s q).tail.toNat) := by
  simp only [pushDesc, serves, source, free, written, Nat.not_le.2 room]
  simp

/-- Settles O13: the hypotheses are the checks of each instruction's own body; LAUNCH reads its descriptor
(`splitRead_begins`) and pushes it (`pushDesc_pushes`). -/
theorem launchResults : Obligations.LaunchResults := by
  unfold Obligations.LaunchResults
  refine ⟨⟨?spawn, ?spawnw, ?innset, ?curfew⟩, ?launch, ?answered, ?lwait⟩
  case spawn =>
    intro gd k d a t s g p i u c r issues free open_
    exact issue_done issues ((if_neg (Bool.eq_false_iff.1 free)).trans (spawnWith_deposits open_ d t _))
  case spawnw =>
    intro gd k d a t s g p i u c off r issues free open_ lanes
    refine issue_done issues ((if_neg (Bool.eq_false_iff.1 free)).trans ((if_neg ?_).trans (spawnWith_deposits open_ d t _)))
    refine bne_iff_ne.not.2 (not_not.2 (List.filterMap_eq_nil_iff.2 fun l acts => Option.map_eq_none_iff.2 ?_))
    obtain ⟨aligned, fits, clean⟩ := lanes l acts
    have at_ : ¬ (off l % 4 != 0) = true := by simp [aligned]
    exact (if_neg at_).trans ((if_neg (Nat.not_lt.2 fits)).trans (if_neg (Bool.eq_false_iff.1 clean)))
  case innset =>
    intro gd d a b s g p gr k x i u c entry v issues grid inside found
    refine issue_done issues ?_
    have grid : gridOf u (insOf i s g p).g = some gr := grid
    have inside : ¬ (!inCode gr entry) = true := by simp [inside]
    simp only [u, grid]
    refine (if_neg inside).trans ?_
    split
    · next absent => cases absent.symm.trans found
    · next there =>
      cases there.symm.trans found
      rfl
  case curfew =>
    intro gd a s g p i u issues
    exact issue_done issues rfl
  case launch =>
    intro gd d a b s g p u1 desc w i u c q t v x issues first lane depth below holder serves free read serves' room free' source
      written
    have new : (insOf i s g p).p.await = none := issues.new
    have one : ¬ ((insOf i s g p).g.idx != 0 || !(insOf i s g p).act.getLsbD 0) = true := by
      simp only [Bool.or_eq_true, not_or]
      exact ⟨by simp [insOf, first], by simp [show (insOf i s g p).act.getLsbD 0 = true from lane]⟩
    have shallow : ¬ 10 ≤ ((gridOf u g).map (·.depth)).getD 0 := Nat.not_le.2 depth
    have held : ¬ (4096 ≤ q || queueHolder u q != ctxOf u g) = true := by simp [Nat.not_le.2 below, holder]
    have pushes : ¬ (!canPush u (ctxOf u g) q) = true := by simp [serves]
    have reads (bad go) := splitRead_begins (c := insOf i s g p) (s := drainGroup u g)
      (args := [srcVal g p a 2 0, BitVec.ofNat 64 q])
      (read := fun l s => vmRead s (whoOf s g) (l.getD 0 0) 64 .load) (bad := bad) (go := go) new read
    have queue : (BitVec.ofNat 64 q).toNat = q := by simp [q]
    refine issue_park issues ?_
    simp only [new]
    refine (if_neg one).trans ((if_neg shallow).trans ((if_neg held).trans ((if_neg pushes).trans
      ((if_neg (Bool.eq_false_iff.1 free)).trans ((reads _ _).trans ?_)))))
    refine (congrArg (fun k => pushDesc (insOf i s g p) v d k desc) queue).trans ?_
    exact pushDesc_pushes serves' room free' source written
  case answered =>
    intro gd d a b s g p x i turn answer acts
    have answer : (insOf i s g p).p.await = some (.answer x) := answer
    refine issue_resumed_done turn (by rw [show p.await = _ from answer]; rfl) acts rfl ?_
    simp only [show (insOf (.launch gd d a b) s g p).p.await = some (.answer x) from answer]
    rfl
  case lwait =>
    intro gd d x s g p k i u t issues named child final
    refine issue_done issues ?_
    have child' : (if t.getLsbD 63 then none else
        ((u.grids.filter fun e => e.2.parent = g.grid).map (·.2)).find? fun r => r.seq % 2 ^ 32 = t.toNat % 2 ^ 32) = some k :=
      (if_neg (Bool.eq_false_iff.1 named)).trans child
    dsimp only
    split
    · next absent => cases absent.symm.trans child'
    · next there =>
      cases there.symm.trans child'
      exact if_pos final

end Sys2Proof.Machine

/-! PROOFS. The state after reset (O58) and the start of a group (O46). -/

namespace Sys2Proof.Machine

/-- The boot mode of the reset flash and the mode after reset are PARTMODE 1. -/
theorem modeInv_reset : ModeInv State.reset where
  now := .inl rfl
  boot := .inl rfl
  next _ hm := nomatch hm

/-- Settles O58: the fields of `State.reset` by their definitions. -/
theorem resetState : Obligations.ResetState := by
  unfold Obligations.ResetState
  exact ⟨rfl, rfl, rfl, rfl, rfl, rfl, rfl, rfl, rfl, rfl, rfl, rfl, rfl, rfl, rfl, rfl, rfl, rfl, rfl,
    memory_wf_reset, modeInv_reset, fun _ => rfl, rfl⟩

/-! ### The start of a group -/

/-- Entries written at rising numbers from nothing. -/
theorem tblGet_foldl_range {α : Type} [DecidableEq α] (d : α) (f : Nat → α) (n j : Nat) :
    tblGet d ((List.range n).foldl (fun t l => tblSet d t l (f l)) []) j = if j < n then f j else d := by
  induction n with
  | zero => rfl
  | succ n ih =>
    rw [List.range_succ, List.foldl_append, List.foldl_cons, List.foldl_nil, tblGet_set, ih]
    by_cases here : n = j
    · simp [here]
    · simp [here, show j < n + 1 ↔ j < n by omega]

/-- Thread indices stand in v0, and no other lane register holds anything. -/
theorem tblGet_threadRegs (k j : Nat) : tblGet 0 (threadRegs k) j = if j < 32 then BitVec.ofNat 32 (32 * k + j) else 0 :=
  tblGet_foldl_range 0 (fun l => BitVec.ofNat 32 (32 * k + l)) 32 j

/-- s0 to s3 of a group that starts, one by one. -/
theorem tblGet_startScalars (g : Grid) (r : Nat) :
    tblGet 0 (startScalars g) r =
      if 3 = r then BitVec.ofNat 64 g.desc.bthreads
      else if 2 = r then BitVec.ofNat 64 (g.desc.gx + g.desc.gy * 2 ^ 32 + g.desc.gz * 2 ^ 48)
      else if 1 = r then g.desc.param else if 0 = r then g.image else 0 := by
  simp only [startScalars, tblGet_set]
  rfl

/-- The lane permutations of a group that starts are the identity. -/
theorem start_perm_identity : ∀ i < 64,
    bits ((((List.range 8).map fun k => BitVec.ofNat 64 (0x0706050403020100 + k * 0x0808080808080808)).getD (i / 8) 0).toNat)
      (8 * (i % 8) + 7) (8 * (i % 8)) = i := by
  decide

/-- Settles O46: a group that starts holds what `startScalars`, `threadRegs` and `entryPath` give it, and nothing else. -/
theorem groupStart : Obligations.GroupStart := by
  unfold Obligations.GroupStart
  intro g grid block quad k serial kbase pc h
  have lane (r l : Nat) : vGet h r l = if 32 * r + l < 32 then BitVec.ofNat 32 (32 * k + (32 * r + l)) else 0 :=
    tblGet_threadRegs k (32 * r + l)
  have scalar (r : Nat) := tblGet_startScalars g r
  refine ⟨?_, ?_, ?_, scalar 0, scalar 1, scalar 2, scalar 3, ?_, ?_, rfl, rfl, rfl, rfl, rfl, rfl, rfl, rfl, rfl, rfl, rfl, rfl,
    start_perm_identity⟩
  · intro l hl
    exact (getLsbD_laneMask (fun l => decide (32 * k + l < g.desc.bthreads)) l).trans (by simp [hl])
  · intro l hl
    simp [lane, hl]
  · intro r l hr hl
    rw [lane, if_neg (by omega)]
  · intro r hr
    exact (scalar r).trans (by simp [show 3 ≠ r by omega, show 2 ≠ r by omega, show 1 ≠ r by omega, show 0 ≠ r by omega])
  · intro q hq
    exact if_neg (show ¬ q = 7 by omega)

end Sys2Proof.Machine

/-! PROOFS. Requests to the context engine: grants of purse (O40). -/

namespace Sys2Proof.Machine

/-! ### Purse (18 R433, R434) -/

/-- The sum over the chosen entries of a table in rising order follows a change of one entry. -/
theorem sum_filter_tblUpd {α : Type} {t : Tbl α} {i : Nat} {v : α} (sorted : tblSortedFrom none t = true)
    (found : tblFind t i = some v) (f : α → α) (p : Nat × α → Bool) (w : Nat × α → Int) :
    (((tblUpd t i f).filter p).map w).sum =
      ((t.filter p).map w).sum + ((if p (i, f v) then w (i, f v) else 0) - (if p (i, v) then w (i, v) else 0)) := by
  rw [show tblUpd t i f = tblPut t i (f v) by simp only [tblUpd, found]]
  induction t with
  | nil => cases found
  | cons e r ih =>
    obtain ⟨k, x⟩ := e
    have above : tblSortedFrom (some k) r = true := sorted
    by_cases here : k = i
    · subst here
      obtain rfl : x = v := by simpa [tblFind] using found
      by_cases h1 : p (k, f x) <;> by_cases h2 : p (k, x) <;> simp [tblPut, h1, h2] <;> omega
    · have later : tblFind r i = some v := by simpa [tblFind, here] using found
      have under : ¬ i < k := fun h => by rw [tblFind_none_of_sorted above h.le] at later; cases later
      have tail := ih (tblSorted_none above) later
      by_cases h1 : p (k, x) <;> simp [tblPut, under, Ne.symm here, h1, tail, add_assoc]

theorem tblSorted_upd {α : Type} {t : Tbl α} (sorted : tblSortedFrom none t = true) (i : Nat) (f : α → α) :
    tblSortedFrom none (tblUpd t i f) = true := by
  unfold tblUpd
  split
  · exact tblSorted_put none t i _ (by simp) sorted
  · exact sorted

/-- What the children of a context have been granted. -/
def grantedBelow (s : State) (k : Nat) : Int :=
  ((s.ctxs.filter fun e => e.2.parent = k).map fun e => (e.2.granted : Int)).sum

theorem purseGap_eq (s : State) (k : Nat) :
    purseGap s k = (tblFind s.ctxs k).map fun c => (c.granted : Int) - c.used - c.purse - grantedBelow s k := rfl

/-- A change of one context that keeps its parent changes its parent's sum alone. -/
theorem grantedBelow_updCtx {s : State} {i : Nat} {c : Context} {f : Context → Context}
    (sorted : tblSortedFrom none s.ctxs = true) (found : tblFind s.ctxs i = some c) (keeps : (f c).parent = c.parent) (k : Nat) :
    grantedBelow (updCtx s i f) k =
      grantedBelow s k + if c.parent = k then ((f c).granted : Int) - c.granted else 0 := by
  refine (sum_filter_tblUpd sorted found f _ _).trans ?_
  by_cases below : c.parent = k <;> simp [grantedBelow, keeps, below]

/-- A purse above zero stops nothing. -/
theorem exhaust_of_pos {before s : State} {k : Nat} {c : Context} (found : tblFind s.ctxs k = some c) (some_ : 0 < c.purse) :
    exhaust before s k = s := by
  simp only [exhaust, found, if_pos some_]

/-- The purse a grant moves. -/
def purseMoved (s : State) (ctx x n : Nat) : State :=
  updCtx (updCtx s ctx fun k => { k with purse := k.purse - n }) x fun k =>
    { k with purse := k.purse + n, granted := k.granted + n }

theorem childOf_eq_some {s : State} {ctx x : Nat} {k : Context} (child : childOf s ctx x = some k) :
    tblFind s.ctxs x = some k ∧ k.parent = ctx ∧ ctx ≠ 0 := by
  simpa [childOf, Option.filter_eq_some_iff] using child

/-- A grant that leaves the issuer some purse moves it, and does nothing else. -/
theorem grantPurse_moves {s : State} {ctx x n : Nat} {me k : Context} (other : x ≠ ctx) (issuer : tblFind s.ctxs ctx = some me)
    (child : childOf s ctx x = some k) (some_ : 0 < n) (fits : n < 2 ^ 32) (left : (n : Int) < me.purse) :
    grantPurse s ctx x n = ctxOk (wake (purseMoved s ctx x n)) 0 := by
  have inRange : ¬ (n = 0 || 0xFFFFFFFF < n) = true := by simp; omega
  have kept : tblFind (purseMoved s ctx x n).ctxs ctx = some { me with purse := me.purse - n } := by
    simp [purseMoved, find_updCtx, other, issuer]
  have stays := exhaust_of_pos (before := s) kept (show 0 < me.purse - n by omega)
  simp only [grantPurse, issuer, onChild, child]
  refine (if_neg inRange).trans ((if_neg (by omega)).trans ?_)
  exact congrArg (fun t => ctxOk (wake t) 0) stays

/-- Settles O40: a grant moves purse (`grantPurse_moves`); the issuer's purse falls by what its children's grants rise, and the
child's rises by its own grant. -/
theorem purseMoves : Obligations.PurseMoves := by
  unfold Obligations.PurseMoves
  intro s ctx x n me k sorted other issuer child some_ fits left
  obtain ⟨found, parent, -⟩ := childOf_eq_some child
  rw [grantPurse_moves other issuer child some_ fits left]
  let s1 := updCtx s ctx fun k => { k with purse := k.purse - n }
  have found1 : tblFind s1.ctxs x = some k := by simp [s1, find_updCtx, Ne.symm other, found]
  have below (y : Nat) : grantedBelow (purseMoved s ctx x n) y = grantedBelow s y + if ctx = y then (n : Int) else 0 := by
    rw [purseMoved, grantedBelow_updCtx (s := s1) (tblSorted_upd sorted _ _) found1 rfl, grantedBelow_updCtx sorted issuer rfl,
      parent]
    simp
  have after (y : Nat) : tblFind (purseMoved s ctx x n).ctxs y =
      if x = y then some { k with purse := k.purse + n, granted := k.granted + n }
      else if ctx = y then some { me with purse := me.purse - n } else tblFind s.ctxs y := by
    rw [purseMoved, find_updCtx, find_updCtx]
    by_cases hx : x = y
    · subst hx
      simp [Ne.symm other, found]
    · by_cases hc : ctx = y
      · subst hc
        simp [hx, issuer]
      · simp [hx, hc]
  refine ⟨rfl, fun y => ?_, ?_, ?_⟩
  · change purseGap (purseMoved s ctx x n) y = _
    rw [purseGap_eq, purseGap_eq, after, below]
    by_cases hx : x = y
    · subst hx
      simp only [if_pos, found, Option.map_some, if_neg (Ne.symm other)]
      push_cast
      congr 1
      omega
    · by_cases hc : ctx = y
      · subst hc
        simp only [if_neg hx, if_pos, issuer, Option.map_some]
        congr 1
        omega
      · simp [hx, hc]
  · change (tblFind (purseMoved s ctx x n).ctxs x).map _ = _
    simp [after]
  · change (tblFind (purseMoved s ctx x n).ctxs ctx).map _ = _
    simp [after, other]

end Sys2Proof.Machine

/-! PROOFS. Requests to the context engine: what a refusal leaves (O39), results (O38). -/

namespace Sys2Proof.Machine

/-! ### Refusals (18 R411-R413) -/

/-- A reply that does not tell of success leaves the machine as it was. -/
def Refuses (s : State) (r : CtxReply) : Prop := r.word.toNat % 256 ≠ 0 → r.s = s

@[simp] theorem refuses_ctxNo {s : State} {status detail : Nat} : Refuses s (ctxNo s status detail) := fun _ => rfl

@[simp] theorem refuses_ctxOk {s t : State} {value : Nat} : Refuses s (ctxOk t value) := by
  intro failed
  refine absurd ?_ failed
  simp only [ctxOk, ctxWord, BitVec.toNat_ofNat]
  omega

theorem refuses_onChild {s : State} {f : Context → CtxReply} {ctx x : Nat} (h : ∀ k, Refuses s (f k)) :
    Refuses s (onChild s ctx x f) := by
  unfold onChild
  split
  · exact h _
  · exact refuses_ctxNo

theorem refuses_lendItems {s : State} {ctx : Nat} {items : Option (List Nat)} {holder : Nat → Nat} {busy : Nat → Bool}
    {more : List Nat → Option Nat} {move : State → Nat → State} : Refuses s (lendItems s ctx items holder busy more move) := by
  unfold lendItems
  repeat' split
  all_goals simp

theorem refuses_takeItems {s : State} {child : Nat} {items : Option (List Nat)} {holder : Nat → Nat} {busy : Nat → Bool}
    {move : State → Nat → State} : Refuses s (takeItems s child items holder busy move) := by
  unfold takeItems
  repeat' split
  all_goals simp

theorem refuses_grantRelay {s : State} {ctx x G cap : Nat} : Refuses s (grantRelay s ctx x G cap) := by
  unfold grantRelay
  split
  · exact refuses_ctxNo
  · refine refuses_onChild fun k => ?_
    repeat' split
    all_goals simp

theorem refuses_grantPurse {s : State} {ctx x n : Nat} : Refuses s (grantPurse s ctx x n) := by
  unfold grantPurse
  split
  · exact refuses_ctxNo
  · refine refuses_onChild fun k => ?_
    repeat' split
    all_goals simp

theorem refuses_grantSave {s : State} {ctx x first n : Nat} : Refuses s (grantSave s ctx x first n) := by
  refine refuses_onChild fun k => ?_
  repeat' split
  all_goals simp

theorem refuses_grantRights {s : State} {ctx x b c : Nat} : Refuses s (grantRights s ctx x b c) := by
  unfold grantRights
  split
  · exact refuses_ctxNo
  · refine refuses_onChild fun k => ?_
    split <;> simp

/-- No request that reads no memory changes the machine when it is refused: item requests by `lendItems` and `takeItems`,
the others by their own checks. -/
theorem contextRequest_refuses {i : Instr} {d : Dst} {f : Ins → Nat → State → CtxReply} (h : contextRequest i = some (d, f))
    (c : Ins) (ctx : Nat) (s : State) : Refuses s (f c ctx s) := by
  unfold contextRequest at h
  split at h
  all_goals simp only [Option.some.injEq, Prod.mk.injEq, reduceCtorEq] at h
  all_goals obtain ⟨rfl, rfl⟩ := h
  case h_1 | h_2 | h_3 => exact refuses_onChild fun _ => refuses_lendItems
  case h_4 => exact refuses_grantRelay
  case h_5 => exact refuses_grantPurse
  case h_6 => exact refuses_grantSave
  case h_7 => exact refuses_grantRights
  case h_9 | h_10 | h_11 => exact refuses_onChild fun _ => refuses_takeItems
  all_goals
    refine refuses_onChild fun k => ?_
    repeat' split
    all_goals simp

/-! ### A child that is not there (18 R412) -/

theorem onChild_none {s : State} {ctx x : Nat} (none_ : childOf s ctx x = none) (f : Context → CtxReply) :
    onChild s ctx x f = ctxNo s 1 0 := by
  simp only [onChild, none_]

/-- Every request that reads no memory is about a child that it names, and is refused with status 1 when there is none. -/
theorem contextRequest_onChild {i : Instr} {d : Dst} {f : Ins → Nat → State → CtxReply} (h : contextRequest i = some (d, f)) :
    ∃ a, childNamed i = some a ∧ ∀ (c : Ins) (ctx : Nat) (s : State), (tblFind s.ctxs ctx).isSome →
      childOf s ctx (sGet c.g a.reg.toNat).toNat = none → f c ctx s = ctxNo s 1 0 := by
  unfold contextRequest at h
  split at h
  all_goals simp only [Option.some.injEq, Prod.mk.injEq, reduceCtorEq] at h
  all_goals
    obtain ⟨rfl, rfl⟩ := h
    refine ⟨_, rfl, fun c ctx s issuer none_ => ?_⟩
    obtain ⟨me, issuer⟩ := Option.isSome_iff_exists.1 issuer
  case h_4 => simp only [grantRelay, issuer]; exact onChild_none none_ _
  case h_5 => simp only [grantPurse, issuer]; exact onChild_none none_ _
  case h_7 => simp only [grantRights, issuer]; exact onChild_none none_ _
  all_goals exact onChild_none none_ _

/-! ### Requests (18 R411) -/

theorem exec_contextRequest {i : Instr} {d : Dst} {f : Ins → Nat → State → CtxReply} (h : contextRequest i = some (d, f))
    (s : State) : exec i s = ctxRequest i d f s := by
  unfold contextRequest at h
  split at h
  all_goals simp only [Option.some.injEq, Prod.mk.injEq, reduceCtorEq] at h
  all_goals
    obtain ⟨rfl, rfl⟩ := h
    rfl

/-- A request's answer is written to its destination. -/
theorem issue_replies {i : Instr} {s t : State} {g : Group} {p : Path} {d : Dst} {x : Long} {body : Ins → State → Act}
    (issues : Issues i s g p) (hb : body (insOf i s g p) (atIssue i s g p) = answered t (insOf i s g p) d x) :
    issue i body s = .next (goesOn i s g p (statusIn t s.gid d x)) :=
  issue_done issues hb

/-- Settles O39: a refusal is `ctxNo`, and a request about no child is refused before anything else (`onChild_none`); CTXSTOP
and CTXSW by their own bodies. -/
theorem refusedRequests : Obligations.RefusedRequests := by
  unfold Obligations.RefusedRequests
  refine ⟨fun i d f c ctx s h => contextRequest_refuses h c ctx s, ?named, ?names, ?stop, ?switch⟩
  case named =>
    intro i a d f c ctx s h names issuer none_
    obtain ⟨b, names', refused⟩ := contextRequest_onChild h
    obtain rfl : b = a := Option.some.inj (names'.symm.trans names)
    exact ⟨refused c ctx s issuer none_, rfl⟩
  case names =>
    intro i d f h
    obtain ⟨a, names, -⟩ := contextRequest_onChild h
    simp [names]
  case stop =>
    intro gd save ckpt d a dl s g p i u requests none_
    have new : (insOf (.ctxstop gd save ckpt d a dl) s g p).p.await = none := requests.issues.new
    refine issue_replies requests.issues ?_
    simp only [new]
    refine (if_neg (Bool.eq_false_iff.1 requests.open_)).trans ?_
    split
    · rfl
    · next k there => cases none_.symm.trans there
  case switch =>
    intro gd d a b c dl s g p i u ctx requests none_
    have new : (insOf (.ctxsw gd d a b c dl) s g p).p.await = none := requests.issues.new
    refine issue_replies requests.issues ?_
    simp only [new]
    refine (if_neg (Bool.eq_false_iff.1 requests.open_)).trans ?_
    split
    · next me o n issuer out inc =>
      rcases none_ with none_ | none_
      · cases none_.symm.trans out
      · cases none_.symm.trans inc
    · rfl

/-! ### Results -/

/-- What a request performs (18 R411). -/
theorem ctxRequest_replies {i : Instr} {d : Dst} {f : Ins → Nat → State → CtxReply} {s : State} {g : Group} {p : Path}
    (requests : Requests i s g p) :
    ctxRequest i d f s = .next (goesOn i s g p (statusIn (hearEngine (f (insOf i s g p) (ctxOf (atIssue i s g p) g)
      (drainGroup (atIssue i s g p) g)).s s.gid) s.gid d
      (f (insOf i s g p) (ctxOf (atIssue i s g p) g) (drainGroup (atIssue i s g p) g)).word)) :=
  issue_replies requests.issues (if_neg (Bool.eq_false_iff.1 requests.open_))

/-- CTXNEW, where its descriptor is read and its issuer is there. -/
theorem ctxnew_makes {c : Ins} {d : Dst} {s t : State} {ctx : Nat} {me : Context} {va : Long} {bs : List Byte}
    (new : c.p.await = none) (read : vmRead { s with arrived := [] } (whoOf { s with arrived := [] } c.g) va 64 .load = .ok (t, bs))
    (issuer : tblFind t.ctxs ctx = some me) :
    (splitRead c s [va] (fun l s => vmRead s (whoOf s c.g) (l.getD 0 0) 64 .load)
      (fun _ s => answered (hearEngine (ctxNo s 5 0xFFFFFF).s c.gid) c d (ctxNo s 5 0xFFFFFF).word) fun l bs s =>
        match tblFind s.ctxs ctx with
        | none => answered (hearEngine (ctxNo s 1 0).s c.gid) c d (ctxNo s 1 0).word
        | some me =>
          answered (hearEngine (newChild s ctx me (l.getD 0 0) bs).s c.gid) c d (newChild s ctx me (l.getD 0 0) bs).word) =
      answered (hearEngine (newChild { t with arrived := [], ios := tblDel t.ios s.fresh } ctx me va bs).s c.gid) c d
        (newChild { t with arrived := [], ios := tblDel t.ios s.fresh } ctx me va bs).word := by
  have reads (bad go) := splitRead_begins (args := [va]) (read := fun l s => vmRead s (whoOf s c.g) (l.getD 0 0) 64 .load)
    (bad := bad) (go := go) new read
  refine (reads _ _).trans ?_
  simp only [issuer, List.getD_cons_zero]

/-- Settles O38: the hypotheses are the checks of each request's body. -/
theorem contextResults : Obligations.ContextResults := by
  unfold Obligations.ContextResults
  refine ⟨?request, ?ctxnew, ?ctxqry, ?invlva, ?stopped, ?stops, ?answered, ?ctxsw⟩
  case request =>
    intro i d f s g p h requests
    exact (exec_contextRequest h s).trans (ctxRequest_replies requests)
  case ctxnew =>
    intro gd d a s g p me u1 bs
    dsimp only
    intro requests read issuer
    refine issue_replies requests.issues ((if_neg (Bool.eq_false_iff.1 requests.open_)).trans ?_)
    exact ctxnew_makes (c := insOf (.ctxnew gd d a) s g p) requests.issues.new read issuer
  case ctxqry =>
    intro gd d a b fld pd s g p i u ctx x r requests
    exact issue_replies requests.issues (if_neg (Bool.eq_false_iff.1 requests.open_))
  case invlva =>
    intro gd sel lines d a b s g p i u v r requests
    refine issue_replies requests.issues ((if_neg (Bool.eq_false_iff.1 requests.open_)).trans ?_)
    cases a <;> cases b <;> rfl
  case stopped =>
    intro gd save ckpt d a dl s g p k i u x requests child state
    have new : (insOf (.ctxstop gd save ckpt d a dl) s g p).p.await = none := requests.issues.new
    refine issue_replies requests.issues ?_
    simp only [new]
    refine (if_neg (Bool.eq_false_iff.1 requests.open_)).trans ?_
    split
    · next absent => cases absent.symm.trans child
    · next there =>
      cases there.symm.trans child
      refine (if_neg ?_).trans (if_pos ?_) <;> rcases state with state | state <;> rw [state] <;> decide
  case stops =>
    intro gd save ckpt d a dl s g p k i u x requests child state
    have new : (insOf i s g p).p.await = none := requests.issues.new
    refine issue_park requests.issues ?_
    simp only [new]
    refine (if_neg (Bool.eq_false_iff.1 requests.open_)).trans ?_
    split
    · next absent => cases absent.symm.trans child
    · next there =>
      cases there.symm.trans child
      exact (if_neg (by rw [state]; decide)).trans (if_neg (by rw [state]; decide))
  case answered =>
    intro gd save ckpt d a dl s g p x i u turn answer acts ended
    have answer : (insOf (.ctxstop gd save ckpt d a dl) s g p).p.await = some (.answer x) := answer
    refine issue_resumed_done turn (by rw [show p.await = _ from answer]; rfl) acts rfl ?_
    simp only [answer]
    exact if_neg (Bool.eq_false_iff.1 ended)
  case ctxsw =>
    intro gd d a b c dl s g p me o n i u ctx out inc r requests issuer outgoing incoming stopped moved runs free book
    have new : (insOf (.ctxsw gd d a b c dl) s g p).p.await = none := requests.issues.new
    have onward : ((subtree u out).any fun e => e.1 != out && quadsOf u e.1 != []) = false := by
      simpa [List.any_eq_false, bne_iff_ne, not_imp_not] using fun k c h ne => moved (k, c) h ne
    refine issue_replies requests.issues ?_
    simp only [new]
    refine (if_neg (Bool.eq_false_iff.1 requests.open_)).trans ?_
    split
    · next me' o' n' issuer' outgoing' incoming' =>
      cases issuer'.symm.trans issuer
      cases outgoing'.symm.trans outgoing
      cases incoming'.symm.trans incoming
      refine (if_neg Bool.false_ne_true).trans ((if_neg ?_).trans ?_)
      · rw [Bool.or_eq_true, not_or]
        exact ⟨by rw [stopped]; decide, Bool.eq_false_iff.1 onward⟩
      · split
        · next refusal => cases refusal.symm.trans runs
        · exact (if_neg (Bool.eq_false_iff.1 free)).trans (if_pos book)
    · next none_ => cases none_ me o n issuer outgoing incoming

end Sys2Proof.Machine

/-! PROOFS. Resources that a grant moves (O41). -/

namespace Sys2Proof.Machine

/-! ### Items that are lent (18 R416) -/

theorem ctxNo_word_ne {s : State} {status detail : Nat} (h : status % 256 ≠ 0) : (ctxNo s status detail).word ≠ 0 := by
  intro zero
  have low : (ctxNo s status detail).word.toNat % 256 = 0 := by rw [zero]; rfl
  simp only [ctxNo, ctxWord, BitVec.toNat_ofNat] at low
  omega

/-- Items that are lent have been moved one by one. -/
theorem lendItems_ok {s : State} {ctx : Nat} {l : List Nat} {holder : Nat → Nat} {busy : Nat → Bool}
    {more : List Nat → Option Nat} {move : State → Nat → State}
    (tells : ∀ st, more l = some st → st % 256 ≠ 0) (done : (lendItems s ctx (some l) holder busy more move).word = 0) :
    (lendItems s ctx (some l) holder busy more move).s = wake (l.foldl move s) := by
  simp only [lendItems] at done ⊢
  split at done
  · split at done
    · exact absurd done (ctxNo_word_ne (by decide))
    · exact absurd done (ctxNo_word_ne (by decide))
  · split at done
    · next st refused => exact absurd done (ctxNo_word_ne (tells st refused))
    · rfl

/-! ### Quadrants that change holder (18 R417, 12 R292) -/

/-- The matrix sequencer of a quadrant that has changed holder. -/
def movedQuad (x : Quad) : Quad :=
  { newQuad with fenced := x.fenced, faulty := x.faulty, stfail := x.stfail, lpois := x.lpois, lecc := x.lecc }

theorem quadHolder_moveQuad (s : State) (q x r : Nat) :
    quadHolder (moveQuad s q x) r = if q = r then x else quadHolder s r :=
  tblGet_set 1 s.quadHolder q r x

theorem quadOf_moveQuad (s : State) (q x r : Nat) :
    quadOf (moveQuad s q x) r = if q = r then movedQuad (quadOf s r) else quadOf s r :=
  (quadOf_updQuad s q r fun _ => movedQuad (quadOf s q)).trans (by by_cases h : q = r <;> simp [h])

/-- The loft of the quadrant reads zero; the rest of the lofts stays. -/
theorem loft_moveQuad (s : State) (q x a : Nat) :
    memByte (moveQuad s q x).loft a = if loftKey q 0 ≤ a ∧ a < loftKey (q + 1) 0 then 0 else memByte s.loft a := by
  have kept := tblFind_filter_keys s.loft (fun a => !(loftKey q 0 ≤ a && a < loftKey (q + 1) 0)) a
  simp only [memByte, tblGet, moveQuad, updQuad]
  rw [kept]
  by_cases low : loftKey q 0 ≤ a <;> by_cases high : a < loftKey (q + 1) 0 <;> simp [low, high]

theorem quadHolder_moveQuads (l : List Nat) (s : State) (x r : Nat) :
    quadHolder (l.foldl (fun s q => moveQuad s q x) s) r = if r ∈ l then x else quadHolder s r := by
  induction l generalizing s with
  | nil => simp
  | cons q l ih =>
    rw [List.foldl_cons, ih, quadHolder_moveQuad]
    by_cases here : q = r
    · simp [here]
    · simp [here, Ne.symm here]

theorem quadOf_moveQuads (l : List Nat) (s : State) (x r : Nat) :
    quadOf (l.foldl (fun s q => moveQuad s q x) s) r = if r ∈ l then movedQuad (quadOf s r) else quadOf s r := by
  induction l generalizing s with
  | nil => simp
  | cons q l ih =>
    rw [List.foldl_cons, ih, quadOf_moveQuad]
    by_cases here : q = r
    · simp [here, movedQuad]
    · simp [here, Ne.symm here]

/-- A place of a loft that reads zero goes on to do so. -/
theorem loft_moveQuads_zero (l : List Nat) {s : State} {a : Nat} (x : Nat) (zero : memByte s.loft a = 0) :
    memByte (l.foldl (fun s q => moveQuad s q x) s).loft a = 0 := by
  induction l generalizing s with
  | nil => exact zero
  | cons q l ih => exact ih (by rw [loft_moveQuad, zero, ite_self])

theorem loft_moveQuads (l : List Nat) (s : State) (x : Nat) {q o : Nat} (moved : q ∈ l) (inside : o < 2 ^ 20) :
    memByte (l.foldl (fun s q => moveQuad s q x) s).loft (loftKey q o) = 0 := by
  induction l generalizing s with
  | nil => cases moved
  | cons r l ih =>
    rcases List.mem_cons.1 moved with rfl | later
    · refine loft_moveQuads_zero l x ?_
      rw [loft_moveQuad, if_pos]
      simp only [loftKey]
      omega
    · exact ih _ later

theorem mem_moveQuads (l : List Nat) (s : State) (x : Nat) : (l.foldl (fun s q => moveQuad s q x) s).mem = s.mem := by
  induction l generalizing s with
  | nil => rfl
  | cons q l ih => exact ih _

/-- A grant of quadrants that tells of success has moved them. -/
theorem grantQuad_moves {s : State} {ctx x b c : Nat} {l : List Nat} {k : Context} (child : childOf s ctx x = some k)
    (items : maskItems b c 640 = some l) (done : (grantQuad s ctx x b c).word = 0) :
    (grantQuad s ctx x b c).s = wake (l.foldl (fun s q => moveQuad s q x) s) := by
  simp only [grantQuad, onChild, child, items] at done ⊢
  refine lendItems_ok (fun st refused => ?_) done
  split at refused
  · cases refused; decide
  · split at refused
    · cases refused; decide
    · cases refused

/-! ### Rights (18 R416) -/

/-- Rights within the issuer's stay so when rights within the issuer's are added. -/
theorem rights_within_or {k r m : BitVec 4} (hk : k &&& 7 &&& ~~~m = 0) (hr : r &&& 7 &&& ~~~m = 0) :
    (k ||| r) &&& 7 &&& ~~~m = 0 := by
  have parts : (k ||| r) &&& 7 &&& ~~~m = (k &&& 7 &&& ~~~m) ||| (r &&& 7 &&& ~~~m) := by
    ext i hi
    simp only [BitVec.getElem_and, BitVec.getElem_or]
    cases k[i] <;> cases r[i] <;> simp
  rw [parts, hk, hr]
  rfl

theorem and_or_self_left (k r : BitVec 4) : k &&& (k ||| r) = k := by
  ext i hi
  simp only [BitVec.getElem_and, BitVec.getElem_or]
  cases k[i] <;> simp

/-- Settles O41: quadrants are moved one by one (`grantQuad_moves`); rights are added only within the issuer's. -/
theorem resourceGrants : Obligations.ResourceGrants := by
  unfold Obligations.ResourceGrants
  refine ⟨?quads, ?rights⟩
  case quads =>
    intro s ctx x b c l child items done
    obtain ⟨k, child⟩ := Option.ne_none_iff_exists'.1 child
    rw [grantQuad_moves child items done]
    refine ⟨quadHolder_moveQuads l s x, fun q moved => ?_, fun q moved o inside => loft_moveQuads l s x moved inside,
      mem_moveQuads l s x⟩
    have clean : quadOf (wake (l.foldl (fun s q => moveQuad s q x) s)) q = movedQuad (quadOf s q) :=
      (quadOf_moveQuads l s x q).trans (if_pos moved)
    rw [clean]
    exact ⟨rfl, rfl, rfl, rfl, rfl⟩
  case rights =>
    intro s ctx x b c me k other issuer child within below
    obtain ⟨found, -, -⟩ := childOf_eq_some child
    simp only [grantRights, issuer, onChild, child]
    split
    · exact ⟨k, found, within, below, by simp, le_refl _, rfl, rfl⟩
    · next lends =>
      obtain ⟨rights, ceil⟩ := by simpa only [Bool.or_eq_true, not_or, bne_iff_ne, not_not, decide_eq_true_eq, not_lt] using lends
      have lent : tblFind (ctxOk (updCtx s x fun k => { k with
          rights := k.rights ||| BitVec.ofNat 4 b, debug := k.debug || (BitVec.ofNat 4 b).getLsbD 3
          ceil := Nat.max k.ceil (c % 8) }) 0).s.ctxs x = _ := find_updCtx ..
      rw [if_pos rfl, found] at lent
      exact ⟨_, lent, rights_within_or within rights, Nat.max_le.2 ⟨below, ceil⟩, and_or_self_left _ _, Nat.le_max_left .., rfl,
        rfl⟩

end Sys2Proof.Machine

/-! PROOFS. Traps: instructions (O35), entry of the handler (O36) and return from it (O37). -/

namespace Sys2Proof.Machine

/-! ### The instructions of traps -/

/-- TRAP and BRK take their trap with nothing taken back: the path stands after the instruction. -/
theorem issue_codeTrap {i : Instr} {s : State} {g : Group} {p : Path} (issues : Issues i s g p) {cls : Nat} (code : BitVec 16)
    (soft : cls = 0x11 ∨ cls = 0x12) (writes : destKeys i = []) :
    issue i (fun c s => .trap (codeTrap c cls code) s) s = .next (wake (takeTrap (atIssue i s g p) s.gid
      ⟨p.lanes, cls, 0, code.toNat, actLanes g p i, [], nextPc p.pc p.tail, nextPc p.pc p.tail, []⟩)) := by
  have held : ¬ ((insOf i s g p).g.held.isSome && (insOf i s g p).p.await.isSome) = true := by
    simp [show (insOf i s g p).p.await = none from issues.new]
  rw [issue_next issues]
  have soft' : (cls = 0x11 || cls = 0x12) = true := by simpa using soft
  simp only [concludeIssue, if_neg held]
  rw [if_pos (show ((codeTrap (insOf i s g p) cls code).cls = 0x11 || (codeTrap (insOf i s g p) cls code).cls = 0x12) = true
    from soft'), show destKeys (insOf i s g p).i = [] from writes]
  rfl

/-- EVWAIT begins: its record, and its limit. -/
def evwaitLimit (s : State) (k : Long) : Option Nat := if k = 0xFFFFFFFFFFFFFFFF then none else some (s.clock + k.toNat)

theorem evwaitLimit_zero (s : State) : (evwaitLimit s 0).any (fun t => t ≤ s.clock) = true := by
  simp [evwaitLimit]

theorem evwaitLimit_later (s : State) {k : Long} (hk : k ≠ 0) : (evwaitLimit s k).any (fun t => t ≤ s.clock) = false := by
  have pos : 0 < k.toNat := Nat.pos_of_ne_zero fun h => hk (BitVec.eq_of_toNat_eq h)
  unfold evwaitLimit
  split
  · rfl
  · simp only [Option.any_some, decide_eq_false_iff_not]
    omega

/-- Settles O35: the hypotheses are the checks of each instruction's body. -/
theorem trapResults : Obligations.TrapResults := by
  unfold Obligations.TrapResults
  refine ⟨?trap, ?brk, ?rte, ?illegal, ?getflt, ?ckpt, ?purse, ?evwait, ?answered⟩
  case trap =>
    intro gd code s g p i issues
    exact issue_codeTrap issues code (.inl rfl) rfl
  case brk =>
    intro gd code s g p i issues
    exact issue_codeTrap issues code (.inr rfl) rfl
  case rte =>
    intro gd f s g p i issues handler
    exact issue_moved issues (if_neg (by simp [insOf, handler]))
  case illegal =>
    intro gd f s g p i issues handler
    exact issue_trap issues (if_pos (by simp [insOf, handler])) ⟨(by decide : (3 : Nat) ≠ 0x11), (by decide : (3 : Nat) ≠ 0x12)⟩
  case getflt =>
    intro gd f d s g p i issues
    refine issue_group issues ?_
    cases f <;> rfl
  case ckpt =>
    intro gd idem v nv x nx s g p i vs ss issues lanes scalars
    refine issue_group issues ?_
    have full : ¬ (vs.any (fun r => isEmpty g (regKey .lane r)) || ss.any fun r => isEmpty g (regKey .scalar r)) = true := by
      rw [Bool.or_eq_true, not_or, List.any_eq_true, List.any_eq_true]
      exact ⟨fun ⟨r, named, empty⟩ => Bool.false_ne_true ((lanes r named).symm.trans empty),
        fun ⟨r, named, empty⟩ => Bool.false_ne_true ((scalars r named).symm.trans empty)⟩
    by_cases single : (g.paths.length = 1 && g.families.all fun f => f.lanes &&& g.live == 0) = true
    · refine (if_neg (Bool.eq_false_iff.1 (congrArg not single))).trans ((if_neg full).trans ?_)
      exact congrArg (groupDone _ _) (funext fun h => (if_pos single).symm)
    · refine (if_pos (congrArg not (Bool.eq_false_iff.2 single))).trans ?_
      exact congrArg (groupDone _ _) (funext fun h => (if_neg single).symm)
  case purse =>
    intro gd f d a s g p i u issues
    exact issue_group issues rfl
  case evwait =>
    intro gd d a b s g p
    dsimp only
    intro issues
    have new : (insOf (.evwait gd d a b) s g p).p.await = none := issues.new
    refine ⟨fun there => ?_, fun absent zero => ?_, fun absent later => ?_⟩
    · refine issue_done issues ?_
      simp only [new]
      exact if_pos there
    · refine issue_done issues ?_
      simp only [new]
      refine (if_neg absent).trans ((if_pos ?_).trans rfl)
      exact (congrArg (fun k => (evwaitLimit _ k).any _) zero).trans (evwaitLimit_zero _)
    · refine issue_park issues ?_
      simp only [new]
      exact (if_neg absent).trans (if_neg (Bool.eq_false_iff.1 (evwaitLimit_later _ later)))
  case answered =>
    intro gd d a b s g p x i turn answer acts
    have answer : (insOf (.evwait gd d a b) s g p).p.await = some (.answer x) := answer
    refine issue_resumed_done turn (by rw [show p.await = _ from answer]; rfl) acts rfl ?_
    simp only [answer]
    rfl

/-! ### Handler entry (17 R388-R392) -/

/-- A trap that the group's parent is not told of goes to its handler (17 R388). -/
theorem takeTrap_own {s : State} {gid : Nat} {g : Group} {t : Trap} (found : tblFind s.groups gid = some g)
    (class13 : t.cls ≠ 0x13) (class0A : t.cls = 0x0A → parentRecs t = [])
    (class12 : t.cls = 0x12 → ∀ c, tblFind s.ctxs (ctxOf s g) = some c → c.debug = false) :
    takeTrap s gid t = enterHandler s gid t := by
  have records : (t.cls = 0x0A && parentRecs t != []) = false := by
    by_cases h : t.cls = 0x0A <;> simp [h, class0A]
  have debug : (t.cls = 0x12 && ((tblFind s.ctxs (ctxOf s g)).map (·.debug)).getD false) = false := by
    by_cases h : t.cls = 0x12
    · cases hc : tblFind s.ctxs (ctxOf s g) with
      | none => simp
      | some c => simp [class12 h c hc]
    · simp [h]
  have own : (!((t.cls = 0x0A && parentRecs t != []) || t.cls = 0x13 ||
      (t.cls = 0x12 && ((tblFind s.ctxs (ctxOf s g)).map (·.debug)).getD false))) = true := by
    rw [records, debug]
    simp [class13]
  simp only [takeTrap, found]
  exact if_pos own

/-- The group that enters its handler at `entry` of its image (17 R391, R392). -/
def inHandler (g : Group) (t : Trap) (base : Long) (entry : Nat) : Group :=
  { g with
    frame := some ⟨g.paths, g.splits, g.families, g.preds, t.path, t.pc, t.cls, t.dsts⟩
    fltrec := fltrecOf t base, fltmask := t.mask, recs := t.recs, idem := false, handler := true
    paths := [⟨0, g.live, base + BitVec.ofNat 64 entry, ((g.paths.find? fun p => p.lanes = t.path).map (·.fmt)).getD 0, [], .current,
      none, true, true, 0, none, 0, g.paths.any (·.full), none⟩]
    splits := [⟨0, g.splitAge, false, false, 0⟩], splitAge := g.splitAge + 1, families := [] }

theorem enterHandler_enters {s : State} {gid : Nat} {g : Group} {gr : Grid} {t : Trap} (found : tblFind s.groups gid = some g)
    (grid : gridOf s g = some gr) (entry : gr.hdr.entries.getD 1 0 ≠ 0) (outside : g.handler = false) :
    enterHandler s gid t =
      { saveWhole s g.block with groups := tblPut s.groups gid (inHandler g t gr.image (gr.hdr.entries.getD 1 0)) } := by
  have goes : ¬ (gr.hdr.entries.getD 1 0 = 0 || g.handler) = true := by
    rw [outside, Bool.or_false]
    exact fun none_ => entry (of_decide_eq_true none_)
  simp only [enterHandler, found, grid, Option.map_some, Option.getD_some]
  refine (if_neg goes).trans ?_
  have there : tblFind (saveWhole s g.block).groups gid = some g := found
  simp only [updGroup, tblUpd, there]
  rfl

theorem enterHandler_kills {s : State} {gid : Nat} {g : Group} {gr : Grid} {t : Trap} (found : tblFind s.groups gid = some g)
    (grid : gridOf s g = some gr) (none_ : gr.hdr.entries.getD 1 0 = 0 ∨ g.handler = true) (class0A : t.cls ≠ 0x0A) :
    enterHandler s gid t = killGroup (sendRecord s (ctxOf s g) (recordRec 8 t.cls (ctxOf s g) t.pc g.serial 0)) gid
      (if g.handler then 0x21 else 0x20) := by
  have ends : (gr.hdr.entries.getD 1 0 = 0 || g.handler) = true := by simpa using none_
  simp only [enterHandler, found, grid, Option.map_some, Option.getD_some]
  refine (if_pos ends).trans ?_
  rw [if_neg class0A]

/-- The fields of `fltrec` do not overlap (17 R391). -/
theorem bits_fltrecOf {t : Trap} (base : Long) (class_ : t.cls < 256) (cause : t.cause < 256) (info : t.info < 2 ^ 16) :
    bits (fltrecOf t base).toNat 63 32 = (t.offPc - base).toNat % 2 ^ 32 ∧ bits (fltrecOf t base).toNat 31 24 = t.cls ∧
      bits (fltrecOf t base).toNat 23 16 = t.cause ∧ bits (fltrecOf t base).toNat 15 0 = t.info := by
  have off : (t.offPc - base).toNat % 2 ^ 32 < 2 ^ 32 := Nat.mod_lt _ (by decide)
  simp only [fltrecOf, bits, BitVec.toNat_ofNat, Nat.shiftRight_eq_div_pow]
  generalize (t.offPc - base).toNat % 2 ^ 32 = x at off ⊢
  omega

/-- Settles O36: such a trap is the group's own (`takeTrap_own`), and its handler is entered, or the group ends. -/
theorem handlerEntry : Obligations.HandlerEntry := by
  unfold Obligations.HandlerEntry
  refine ⟨?enters, ?kills⟩
  case enters =>
    intro s gid g gr t found grid entry outside class13 class0A class12
    refine ⟨inHandler g t gr.image (gr.hdr.entries.getD 1 0),
      (takeTrap_own found class13 class0A class12).trans (enterHandler_enters found grid entry outside),
      rfl, rfl, rfl, rfl, rfl, rfl, rfl, ?_, rfl, rfl, rfl, rfl, rfl, rfl, rfl, rfl⟩
    exact fun class_ cause info => bits_fltrecOf gr.image class_ cause info
  case kills =>
    intro s gid g gr t found grid none_ class0A class12 class13
    exact (takeTrap_own found class13 (absurd · class0A) (absurd · class12)).trans
      (enterHandler_kills found grid none_ class0A)

/-! ### The return from the handler (17 R393) -/

/-- A path of the frame as it goes on: the trapping one where the form of the return says, every other as it stood. -/
def goesBack (g : Group) (f : Frame) (a : RteArg) (p : Path) : Path :=
  if p.lanes = f.lanes then
    match a with
    | .plain =>
      { p with pc := f.pc, checked := false, enter := p.enter || f.cls = 0x11 || f.cls = 0x12
               replay := if f.cls = 0x11 || f.cls = 0x12 || f.cls = 0x13 then none else some g.fltmask }
    | .to pc => { p with pc := pc, checked := pc != f.pc, enter := true, replay := none }
    | .skip =>
      { p with pc := if f.cls = 0x11 || f.cls = 0x12 then f.pc else nextPc f.pc p.tail, checked := false, enter := true
               replay := none }
  else p

/-- The live lanes of a path that goes on, with a full fence of the handler (06 R148). -/
def liveBack (g : Group) (p : Path) : Path := { p with lanes := p.lanes &&& g.live, full := p.full || g.paths.any (·.full) }

/-- The group outside its handler again. -/
def restored (g : Group) (f : Frame) (a : RteArg) : Group :=
  { g with
    paths := (f.paths.map fun p => liveBack g (goesBack g f a p)).filter fun p => p.lanes != 0
    splits := f.splits, families := f.families, preds := f.preds, handler := false, frame := none }

/-- The registers that are empty after the return: `.skip` leaves the trapped instruction's destinations full. -/
def emptyBack (g : Group) (f : Frame) (a : RteArg) : Tbl Bool :=
  if a = .skip then (setEmpty g f.dsts false).empty else g.empty

theorem rteRestore_eq (g : Group) (f : Frame) (a : RteArg) :
    rteRestore g f a = { restored g f a with empty := emptyBack g f a } := by
  cases a <;> rfl

theorem lanes_goesBack (g : Group) (f : Frame) (a : RteArg) (p : Path) : (goesBack g f a p).lanes = p.lanes := by
  unfold goesBack
  split
  · cases a <;> rfl
  · rfl

/-- Every path of the frame that still has live lanes goes on. -/
theorem mem_paths_rteRestore {g : Group} {f : Frame} {a : RteArg} {p : Path} (mem : p ∈ f.paths) (lives : p.lanes &&& g.live ≠ 0) :
    liveBack g (goesBack g f a p) ∈ (rteRestore g f a).paths := by
  rw [rteRestore_eq]
  refine List.mem_filter.2 ⟨List.mem_map_of_mem mem, ?_⟩
  rw [bne_iff_ne, show (liveBack g (goesBack g f a p)).lanes = _ from congrArg (· &&& g.live) (lanes_goesBack g f a p)]
  exact lives

/-- Settles O37: `rteRestore` puts the frame's paths back (`goesBack`), and a return by `.skip` marks the trapped instruction's
destinations full. -/
theorem handlerReturn : Obligations.HandlerReturn := by
  unfold Obligations.HandlerReturn
  intro g f a p mem lives h
  have back : liveBack g (goesBack g f a p) ∈ h.paths := mem_paths_rteRestore mem lives
  have eq : h = { restored g f a with empty := emptyBack g f a } := rteRestore_eq g f a
  refine ⟨fun other => ?_, fun trapped => ?_, ?_⟩
  · rwa [show goesBack g f a p = p from if_neg other] at back
  · refine ⟨_, back, ?_⟩
    simp only [goesBack, if_pos trapped]
    cases a
    · refine ⟨rfl, rfl, rfl, rfl, rfl, rfl, ?_⟩
      simp [liveBack, or_assoc]
    · exact ⟨rfl, rfl, rfl, rfl, rfl, rfl, rfl⟩
    · refine ⟨rfl, rfl, rfl, rfl, rfl, rfl, ?_⟩
      simp [liveBack]
  · rw [eq]
    refine ⟨rfl, rfl, rfl, rfl, rfl, rfl, rfl, rfl, rfl, fun stays => if_neg stays, fun skip k => ?_⟩
    refine (congrArg (fun t => tblGet false t k) (if_pos skip)).trans ((isEmpty_setEmpty g f.dsts false k).trans ?_)
    by_cases named : k ∈ f.dsts <;> simp [named]

end Sys2Proof.Machine

/-! PROOFS. Events of the distributor and the context engine (O45). -/

namespace Sys2Proof.Machine

/-! ### Commands (16 R376, R377) -/

/-- A command's dimensions are read at once, where nothing has been asked for. -/
theorem readDims_reads {s t : State} {id : Nat} {g : Grid} {ds : List Byte} (new : tblFind s.opReads id = none)
    (read : vmRead { s with arrived := [] } (whoEngine s g.ctx) g.desc.dimva 8 .load = .ok (t, ds)) :
    readDims s id g =
      let u := updGrid { t with arrived := [], ios := tblDel t.ios s.fresh, opReads := tblDel t.opReads id } id fun g =>
        { g with ready := true, desc := { g.desc with gx := field ds 0 4, gy := field ds 4 2, gz := field ds 6 2 } }
      if gridFits u id then wake u else failCommand u id 0x17 0 := by
  simp only [readDims, new]
  refine (if_neg (by decide)).trans ?_
  rw [show ioBytes ⟨0, 0, [], [], [], []⟩ = [] from rfl, read]

/-- The checks of an acceptance in their order. -/
theorem takeCommand_accepts {s t : State} {q : Nat} {c : Context} {bs : List Byte} (below : q < 4096)
    (holder : tblFind s.ctxs (queueHolder s q) = some c) (live : queueLive s (queueHolder s q) q = true)
    (fits : pendingIn s q ≤ 2 ^ (queueOf s q).log2) (base : canonical (queueOf s q).base = true)
    (turn : queueTurn s (queueHolder s q) q = true) (book : bookFree s (queueHolder s q) c = true)
    (read : engineReadLong s (whoEngine s (queueHolder s q)) (headEntry s q) .load 8 = .ok (t, bs)) :
    takeCommand s q = acceptCommand t (queueHolder s q) q c bs := by
  have serves : ¬ (4096 ≤ q || !queueLive s (queueHolder s q) q) = true := by simp [live, below]
  have sound : ¬ (2 ^ (queueOf s q).log2 < pendingIn s q || !canonical (queueOf s q).base) = true := by simp [base, fits]
  have next : ¬ (!queueTurn s (queueHolder s q) q || !bookFree s (queueHolder s q) c) = true := by simp [turn, book]
  simp only [takeCommand, holder, if_neg serves, if_neg sound, if_neg next, read]

theorem retire_ends {s : State} {id : Nat} {g : Grid} (found : tblFind s.grids id = some g) (may : mayRetire s id g = true) :
    retire s id = wake (dropGrids (match g.failure with
      | some (cause, detail) => setGridState (hearEnds s id g) id .failed cause detail
      | none => setGridState (hearEnds s id g) id .complete 0 0) id) := by
  have goes : ¬ (!mayRetire s id g) = true := by simp [may]
  simp only [retire, found]
  exact (if_neg goes).trans rfl

/-! ### Stops (17 R403, R406) -/

theorem cutStep_stopping {s : State} {k : Nat} {c : Context} {st : Stop} (found : tblFind s.ctxs k = some c)
    (stopping : c.state = .stopping) (stop : c.stop = some st) :
    cutStep s k = if drained (chooseAll s k st) k then finishStop (chooseAll s k st) k else chooseAll s k st := by
  simp only [cutStep, found, stopping, stop]

theorem drainLate_expires {s : State} {id : Nat} {b : Block} {g : Grid} {st : Stop} (block : tblFind s.blocks id = some b)
    (grid : tblFind s.grids b.grid = some g) (stop : (tblFind s.ctxs g.ctx).bind (·.stop) = some st)
    (drains : b.method = some .drain) (late : st.since + st.deadline ≤ s.clock) :
    drainLate s id = setMethod s id b (laterMethod s id b g.ctx g) := by
  simp only [drainLate, block, grid, stop]
  exact if_pos (by simp [drains, late])

/-- Settles O45: each event is its own function of the machine, under the checks that the hypotheses name. -/
theorem distributorEvents : Obligations.DistributorEvents := by
  unfold Obligations.DistributorEvents
  refine ⟨?accept, ?depends, ?admission, ?place, ?retire, ?curfew, ?slice, ?charge, ?cut, ?deadline⟩
  case accept =>
    intro s q k c t bs input below holder found live fits base turn book read
    subst holder
    change execCommandAccept s = _
    simp only [execCommandAccept, input, takeCommand_accepts below found live fits base turn book read]
  case depends =>
    intro s id g c t bs input pending waits new read new'
    have waits' : ¬ g.ready = true := Bool.eq_false_iff.1 waits
    have first : ¬ (tblFind s.opReads id).isSome = true := by simp [new]
    have body : exec .dependenceComplete s = .next (
        if (barObj bs).failed then failCommand t id 0x15 (barObj bs).cause
        else if !boComplete (barObj bs) then s
        else if bit g.desc.dflags 0 then readDims (acquireDep t id g) id g
        else wake (updGrid (acquireDep t id g) id fun g => { g with ready := true })) := by
      change execDependenceComplete s = _
      simp only [execDependenceComplete, input, pending, if_neg waits', if_neg first, read]
    rw [body]
    refine ⟨fun failed => ?_, fun sound complete given => ?_, fun t2 ds sound complete read_ dims => ?_⟩
    · rw [if_pos failed]
    · simp [sound, complete, given]
    · simp only [sound, complete, read_, readDims_reads (s := acquireDep t id g) new' dims]
      rfl
  case admission =>
    intro s id g c input pending some_ enough ready new placed_
    have funded : ¬ c.purse ≤ 0 := not_le.2 some_
    have admits : ¬ (!g.ready || g.admitted || c.purse < (g.desc.pmin : Int) || unplaced s g.ctx) = true := by
      simp [ready, new, placed_, enough]
    change execAdmission s = _
    simp only [execAdmission, input, pending, if_neg funded, if_neg admits]
  case place =>
    intro s part input
    change execPlacementOpportunity s = _
    simp only [execPlacementOpportunity, input]
  case retire =>
    intro s id g input found may
    change execGridRetire s = _
    simp only [execGridRetire, input]
    exact congrArg Host.Outcome.next (retire_ends found may)
  case curfew =>
    intro s k x g input found grid open_ due
    have departs : (sourcesOpen s g.ctx && coachDue s x) = true := by
      simpa [open_, coachDue, Option.any_eq_true] using due
    change execCurfewExpiry s = _
    simp only [execCurfewExpiry, input, found, grid, Option.map_some, Option.getD_some, if_pos departs]
  case slice =>
    intro s k c input found runs over_
    have due : (c.state = .running && c.sliceEnd.any fun t => t ≤ s.clock) = true := by
      simpa [runs, Option.any_eq_true] using over_
    change execSliceEnd s = _
    simp only [execSliceEnd, input, found, if_pos due]
  case charge =>
    intro s l input
    change execPurseCharge s = _
    simp only [execPurseCharge, input]
    rfl
  case cut =>
    intro s k c st input found stopping stop
    have body : exec .cutDrainComplete s = .next (cutStep s k) := by
      change execCutDrainComplete s = _
      simp only [execCutDrainComplete, input]
    rw [body, cutStep_stopping found stopping stop]
    exact ⟨fun ended => by rw [if_pos ended], fun busy => by rw [if_neg (Bool.eq_false_iff.1 busy)]⟩
  case deadline =>
    intro s id b g st input block grid stop drains late
    change execDrainDeadline s = _
    simp only [execDrainDeadline, input, drainLate_expires block grid stop drains late]

end Sys2Proof.Machine

/-! PROOFS. Boot and management (O49), the host edge (O50) and resets (O51). -/

namespace Sys2Proof.Machine

/-! ### Requests to the host complex (19 R444, R446) -/

theorem request_manages {s : State} (m : manages s) (update : Bool) (f : State → State) : request_ s update f = f s := by
  obtain ⟨runs, booted, sound⟩ := m
  have takes : ¬ (s.stage = .rom || (s.stage = .recovery && !update)) = true := by simp [booted, sound]
  simp only [request_, runs, Bool.false_eq_true, if_false, if_neg takes]

theorem request_updates {s : State} (m : updates s) (f : State → State) : request_ s true f = f s := by
  obtain ⟨runs, booted⟩ := m
  have takes : ¬ (s.stage = .rom || (s.stage = .recovery && !true)) = true := by simp [booted]
  simp only [request_, runs, Bool.false_eq_true, if_false, if_neg takes]

/-- While its firmware restarts the host complex is busy; before it runs, and in recovery, it refuses. -/
theorem request_not_managed {s : State} {i : Instr} {f : State → State} (body : exec i s = .next (request_ s false f)) :
    (s.firmware.restart = true → exec i s = .next { s with reply := ⟨.busy, 0⟩ }) ∧
    (s.firmware.restart = false → s.stage = .rom ∨ s.stage = .recovery → exec i s = .next { s with reply := ⟨.refused, 0⟩ }) := by
  refine ⟨fun restarts => ?_, fun runs stage => ?_⟩
  · rw [body, request_, if_pos restarts]
    rfl
  · have refuses : (s.stage = .rom || (s.stage = .recovery && !false)) = true := by simpa using stage
    rw [body, request_, if_neg (Bool.eq_false_iff.1 runs), if_pos refuses]
    rfl

/-- PARTMODE's legal values, as the requests test them. -/
theorem legalMode_tested {m : Nat} (legal : legalMode m) : (m != 1 && m != 2 && m != 4) = false := by
  rcases legal with rfl | rfl | rfl <;> rfl

/-! ### Boot (19 R443) -/

/-- The next image of the boot is looked for in its two banks. -/
theorem bootImage_turn {s : State} {ty : Nat} (stage : s.stage = .rom ∨ s.stage = .firmware)
    (next : ty = s.firmware.verified.length + 1) (last : ty ≤ 4) :
    ((s.stage != .rom && s.stage != .firmware) || ty != s.firmware.verified.length + 1 || 4 < ty) = false := by
  rcases stage with stage | stage <;> simp [stage, next] <;> omega

theorem bootImage_takes {s : State} {ty : Nat} {x : FwImage} (stage : s.stage = .rom ∨ s.stage = .firmware)
    (next : ty = s.firmware.verified.length + 1) (last : ty ≤ 4)
    (good : (tblFind s.firmware.banks (2 * ty + tblGet 0 s.firmware.active ty)).filter (imageOk s.firmware ty) = some x) :
    bootImage s ty = tookImage s ty x := by
  simp only [bootImage, if_neg (Bool.eq_false_iff.1 (bootImage_turn stage next last)), good]

theorem bootImage_stops {s : State} {ty : Nat} (stage : s.stage = .rom ∨ s.stage = .firmware)
    (next : ty = s.firmware.verified.length + 1) (last : ty ≤ 4)
    (bad : ∀ b x, tblFind s.firmware.banks (2 * ty + b) = some x → imageOk s.firmware ty x = false) :
    bootImage s ty = { s with stage := .recovery } := by
  have none_ (b : Nat) : (tblFind s.firmware.banks (2 * ty + b)).filter (imageOk s.firmware ty) = none :=
    Option.filter_eq_none_iff.2 fun x found ok => Bool.false_ne_true ((bad b x found).symm.trans ok)
  simp only [bootImage, if_neg (Bool.eq_false_iff.1 (bootImage_turn stage next last)), none_]

/-- Settles O49: each event is its own function of the machine; a request is taken (`request_manages`), or answered
without it (`request_not_managed`). -/
theorem managementEvents : Obligations.ManagementEvents := by
  unfold Obligations.ManagementEvents
  refine ⟨?take, ?stop, ?ready, ?mode, ?moved, ?fence, ?lost, ?recovered, ?grant, ?counter, ?sensor, ?root, ?purse, ?svn, ?update,
    ?verify, ?activate, ?restart, ?certificate, ?challenge, ?measure, ?breakout, ?routes, ?unmanaged⟩
  case take =>
    intro s ty x input stage next last good
    change execImageVerify s = _
    simp only [execImageVerify, input, bootImage_takes stage next last good]
  case stop =>
    intro s ty input stage next last bad
    change execImageVerify s = _
    simp only [execImageVerify, input, bootImage_stops stage next last bad]
  case ready =>
    intro s tier gtroot globals input stage
    have loaded : ¬ (s.stage != .engines) = true := by simp [stage]
    have body : exec .stageReady s = .next (wake { (if (tblFind s.ctxs 1).isSome then s else setUp s tier gtroot globals) with
        stage := .ready }) := by
      change execStageReady s = _
      simp only [execStageReady, input, bootReady, if_neg loaded]
    rw [body]
    exact ⟨fun root => by rw [if_pos root], fun new => by rw [if_neg (by simp [new])]; rfl⟩
  case mode =>
    intro s m input takes free idle legal
    have idle' : ¬ (s.busy || s.firmware.update.isSome) = true := by simp [free, idle]
    change execPartmodeChange s = _
    simp only [execPartmodeChange, input, request_manages takes, changeMode, if_neg idle',
      if_neg (Bool.eq_false_iff.1 (legalMode_tested legal))]
    rfl
  case moved =>
    intro s m _ _ _
    rfl
  case fence =>
    intro s j input takes below
    change execDirectorySliceFence s = _
    simp only [execDirectorySliceFence, input, request_manages takes, if_neg (Nat.not_le.2 below)]
    rfl
  case lost =>
    intro s j on input below
    change execDirectorySliceLost s = _
    simp only [execDirectorySliceLost, input, if_neg (Nat.not_le.2 below)]
  case recovered =>
    intro s j input
    change execSliceRecoveryComplete s = _
    simp only [execSliceRecoveryComplete, input]
  case grant =>
    intro s vf kind b c x input takes found
    change execVfContextGrant s = _
    simp only [execVfContextGrant, input, request_manages takes, found]
    rfl
  case counter =>
    intro s k n input takes kind holder
    have there : ¬ (32 < k || counterHolders k ≤ n) = true := by simp [kind, holder]
    have body : execGetCounter s = .next (replyOk s (tblGet 0 s.counters (k * 65536 + n))) := by
      simp only [execGetCounter, input, request_manages takes, if_neg there]
    exact body
  case sensor =>
    intro s id v t input takes reads
    change execGetSensorReading s = _
    simp only [execGetSensorReading, input, request_manages takes, reads]
    rfl
  case root =>
    intro s b input takes g1 g2 f1 f2 legal
    have good : ¬ (b.gblog2 < 4 || 20 < b.gblog2 || b.fqlog2 < 4 || 16 < b.fqlog2 ||
        (b.partmode != 1 && b.partmode != 2 && b.partmode != 4)) = true := by
      rw [legalMode_tested legal]
      simp [g1, g2, f1, f2]
    change execSetRootSettings s = _
    simp only [execSetRootSettings, input, request_manages takes, if_neg good]
    rfl
  case purse =>
    intro s n c input takes root
    change execGrantRootPurse s = _
    simp only [execGrantRootPurse, input, request_manages takes, updCtx, tblUpd, root]
    rfl
  case svn =>
    intro s ty x input takes low high active
    have good : typeOk ty = true := by simp [typeOk, low, high]
    change execCommitSvn s = _
    simp only [execCommitSvn, input, request_manages takes, active, if_pos good]
    rfl
  case update =>
    intro s x input takes free idle ty low high
    have idle' : ¬ (s.busy || s.firmware.update.isSome) = true := by simp [free, idle]
    have good : ¬ (!typeOk (imageField x 4 2)) = true := by
      rw [show typeOk (imageField x 4 2) = true by simpa [typeOk] using And.intro low high]
      decide
    change execRequestUpdate s = _
    simp only [execRequestUpdate, input, request_updates takes, if_neg idle', if_neg good]
    rfl
  case verify =>
    intro s ty x input takes update found good
    have same : ¬ (s.firmware.update != some ty) = true := by simp [update]
    change execVerifyComplete s = _
    simp only [execVerifyComplete, input, request_updates takes, if_neg same, found]
    exact congrArg Host.Outcome.next (if_pos good)
  case activate =>
    intro s ty input takes verified
    change execActivateFirmware s = _
    simp only [execActivateFirmware, input, request_updates takes, if_pos verified]
    rfl
  case restart => exact fun s => rfl
  case certificate =>
    intro s takes
    change execGetCertificate s = _
    simp only [execGetCertificate, request_manages takes]
    rfl
  case challenge =>
    intro s n input takes
    change execChallenge s = _
    simp only [execChallenge, input, request_manages takes]
    rfl
  case measure =>
    intro s takes
    change execGetMeasurements s = _
    simp only [execGetMeasurements, request_manages takes]
    rfl
  case breakout =>
    intro s p ways input takes below legal
    have good : ¬ (24 ≤ p || (ways != 1 && ways != 2 && ways != 4)) = true := by
      rw [legalMode_tested legal]
      simp [below]
    change execPortBreakout s = _
    simp only [execPortBreakout, input, request_manages takes, if_neg good]
    rfl
  case routes =>
    intro s pkg routes input takes below good
    have good : ¬ (4096 ≤ pkg || routes.any fun r => 4096 ≤ r.1 || 96 ≤ r.2) = true := by
      simpa [below] using fun a b mem => good (a, b) mem
    change execRouteTable s = _
    simp only [execRouteTable, input, request_manages takes, if_neg good]
    rfl
  case unmanaged =>
    rintro s i (⟨m, rfl, input⟩ | ⟨k, n, rfl, input⟩ | ⟨n, rfl, input⟩ | ⟨b, rfl, input⟩ | ⟨t, rfl, input⟩ | rfl | rfl) <;>
      apply request_not_managed
    · change execPartmodeChange s = _
      rw [execPartmodeChange, input]
    · change execGetCounter s = _
      rw [execGetCounter, input]
    · change execGrantRootPurse s = _
      rw [execGrantRootPurse, input]
    · change execSetRootSettings s = _
      rw [execSetRootSettings, input]
    · change execCommitSvn s = _
      rw [execCommitSvn, input]
    · exact show execGetCertificate s = _ from rfl
    · exact show execGetMeasurements s = _ from rfl

end Sys2Proof.Machine

/-! PROOFS. The host edge (O50) and the levels of reset (O51). -/

namespace Sys2Proof.Machine

/-! ### The host edge (19 R439-R442) -/

/-- A completion answers its request: with its bytes, when it comes from the function that was asked. -/
theorem exec_nonpostedCompletion {s : State} {tag : Nat} {rid : BitVec 16} {st : CplStatus} {data : List Byte} {r : Request}
    (input : s.input = .nonpostedCompletion tag rid st data) (asked : requestOf s tag = some r) :
    exec .nonpostedCompletion s =
      .next (answerRequest s r (if st = .ok && r.peer.all fun p => p = rid then some data else none)) := by
  change execNonpostedCompletion s = _
  simp only [execNonpostedCompletion, input, asked]

/-- Settles O50: each event is its own function of the machine, where what it names is there. -/
theorem hostEvents : Obligations.HostEvents := by
  unfold Obligations.HostEvents
  refine ⟨?vfs, ?noVfs, ?flr, ?host, ?peer, ?peerwin, ?qtail, ?qctl, ?clear, ?register, ?completion, ?timeout, ?down,
    fun s => rfl, ?retrain, fun s => rfl, fun s => rfl, ?rudi⟩
  case vfs =>
    intro s n input ready fits some_
    have takes : ¬ (s.stage != .ready || 64 < n) = true := by simp [ready, fits]
    change execNumvfsWrite s = _
    simp only [execNumvfsWrite, input, if_neg takes, if_neg some_]
  case noVfs =>
    intro s input ready
    have takes : ¬ (s.stage != .ready || 64 < 0) = true := by simp [ready]
    change execNumvfsWrite s = _
    simp only [execNumvfsWrite, input, if_neg takes, if_true]
  case flr =>
    intro s vf k input found
    change execFunctionLevelReset s = _
    simp only [execFunctionLevelReset, input, found]
  case host =>
    intro s a input
    change execHostMemoryAccess s = _
    simp only [execHostMemoryAccess, input, busArrive]
  case peer =>
    intro s a input
    change execPeerDeviceAccess s = _
    simp only [execPeerDeviceAccess, input, busArrive]
  case peerwin =>
    intro s n v ctx input below
    change execPeerwinWrite s = _
    simp only [execPeerwinWrite, input, if_pos below]
  case qtail =>
    intro s q v input below
    change execQtailWrite s = _
    simp only [execQtailWrite, input, if_pos below, queueReg]
  case qctl =>
    intro s q v input below
    change execQctlWrite s = _
    simp only [execQctlWrite, input, if_pos below, queueReg]
  case clear =>
    intro s q input below
    change execQctlFaultClear s = _
    simp only [execQctlFaultClear, input, if_pos below, queueReg]
  case register =>
    intro s off wide v input aligned
    change execRegisterWrite s = _
    simp only [execRegisterWrite, input, if_pos aligned]
  case completion =>
    intro s tag rid st data r input asked
    rw [exec_nonpostedCompletion input asked]
    by_cases comes : st = .ok ∧ ∀ p, r.peer = some p → p = rid
    · rw [if_pos comes, if_pos (by simpa [Option.all_eq_true] using comes)]
    · rw [if_neg comes, if_neg (by simpa [Option.all_eq_true] using comes)]
  case timeout =>
    intro s tag r input asked
    change execCompletionTimeout s = _
    simp only [execCompletionTimeout, input, asked]
  case down =>
    intro s link input below
    change execCxlLinkDown s = _
    simp only [execCxlLinkDown, input, if_pos below]
  case retrain =>
    intro s link lane input link_ lane_
    have there : (link < 4 && lane < 32) = true := by simp [link_, lane_]
    change execLaneGroupRetrainFail s = _
    simp only [execLaneGroupRetrainFail, input, if_pos there]
  case rudi =>
    intro s port input
    change execRudiUudPacket s = _
    simp only [execRudiUudPacket, input]

/-! ### Resets that management asks for (19 R446, R449) -/

/-- What a reset that is asked for does: whether what it names is there, whether the mode changes, whether the request is
taken. -/
theorem resetRequest_answers {s t : State} {i : Instr} {there : Bool} {f : State → State}
    (body : exec i s = .next (resetRequest s there f)) (does : f s = t) :
    (manages s → there = true → s.busy = false → exec i s = .next { t with reply := ⟨.ok, 0⟩ }) ∧
    (manages s → there = true → s.busy = true → exec i s = .next { s with reply := ⟨.busy, 0⟩ }) ∧
    (manages s → there = false → exec i s = .next { s with reply := ⟨.invalidArgument, 0⟩ }) ∧
    (s.firmware.restart = true → exec i s = .next { s with reply := ⟨.busy, 0⟩ }) ∧
    (s.firmware.restart = false → s.stage = .rom ∨ s.stage = .recovery → exec i s = .next { s with reply := ⟨.refused, 0⟩ }) := by
  subst does
  obtain ⟨restarts, refuses⟩ := request_not_managed body
  have taken (m : manages s) : exec i s =
      .next (if !there then replyBad s else if s.busy then replyBusy s else replyOk (f s) 0) := by
    rw [body, resetRequest, request_manages m]
  refine ⟨fun m here free => ?_, fun m here busy => ?_, fun m absent => ?_, restarts, refuses⟩
  · exact (taken m).trans (congrArg Host.Outcome.next ((if_neg (by simp [here])).trans (if_neg (Bool.eq_false_iff.1 free))))
  · exact (taken m).trans (congrArg Host.Outcome.next ((if_neg (by simp [here])).trans (if_pos busy)))
  · exact (taken m).trans (congrArg Host.Outcome.next (if_pos (by simp [absent])))

/-- The event of a reset that is asked for. -/
theorem resetAsked_answers {s t : State} {i : Instr} {there : Bool} (asked : resetAsked s = some (i, there, t)) :
    ∃ f, exec i s = .next (resetRequest s there f) ∧ f s = t := by
  unfold resetAsked at asked
  split at asked
  all_goals simp only [Option.some.injEq, Prod.mk.injEq, reduceCtorEq] at asked
  all_goals obtain ⟨rfl, rfl, rfl⟩ := asked
  · next input =>
    refine ⟨resetPackage, ?_, rfl⟩
    change execPackageReset s = _
    simp only [execPackageReset, input]
  · next input =>
    refine ⟨resetPaorid, ?_, rfl⟩
    change execPaoridReset s = _
    simp only [execPaoridReset, input]
  · next die input =>
    refine ⟨fun s => resetDie s die, ?_, rfl⟩
    change execZcDieReset s = _
    simp only [execZcDieReset, input]
  · next core input =>
    refine ⟨fun s => resetCore s core, ?_, rfl⟩
    change execCoreReset s = _
    simp only [execCoreReset, input]
  · next q input =>
    refine ⟨fun s => resetQuad s q, ?_, rfl⟩
    change execQuadrantReset s = _
    simp only [execQuadrantReset, input]
  · next n input =>
    refine ⟨fun s => resetPorter s n, ?_, rfl⟩
    change execPorterReset s = _
    simp only [execPorterReset, input]
  · next n input =>
    refine ⟨fun s => resetRelay s n, ?_, rfl⟩
    change execRelayEngineReset s = _
    simp only [execRelayEngineReset, input]
  · next k input =>
    refine ⟨fun s => resetContext s k, ?_, rfl⟩
    change execContextReset s = _
    simp only [execContextReset, input]

/-! ### The package's reset (19 R449) -/

/-- A package reset that is asked for and taken, or that comes of itself. -/
theorem exec_packageReset {s : State} (taken : s.input ≠ .packageReset ∨ (manages s ∧ s.busy = false)) :
    exec .packageReset s = .next (resetPackage s) := by
  change execPackageReset s = _
  unfold execPackageReset
  split
  · next input =>
    obtain ⟨m, free⟩ := taken.resolve_left (not_not.2 input)
    rw [resetRequest, request_manages m]
    exact congrArg Host.Outcome.next ((if_neg (by decide)).trans (if_neg (Bool.eq_false_iff.1 free)))
  · rfl

/-- Of memory the second tier alone keeps its content. -/
theorem byteAt_resetPackage (s : State) (x : Nat) :
    byteAt (resetPackage s) x = if 0x080000000000 ≤ x ∧ x < 0x100000000000 then byteAt s x else 0 := by
  simp only [byteAt, memByte, tblGet, resetPackage]
  rw [tblFind_filter_keys s.mem (fun a => decide (0x080000000000 ≤ a) && decide (a < 0x100000000000))]
  by_cases low : 0x080000000000 ≤ x <;> by_cases high : x < 0x100000000000 <;> simp [low, high]

/-! ### A porter's reset -/

/-- The operation of a porter that is reset is queued again, and the porter is free. -/
theorem resetPorter_queues {s : State} {n id : Nat} {o : PorterOp} (runs : tblFind s.porters n = some id)
    (op : tblFind s.porterOps id = some o) (state : o.state = .running) :
    (tblFind (resetPorter s n).porterOps id).map (·.state) = some .queued ∧ tblFind (resetPorter s n).porters n = none := by
  have requeued : resetPorter s n = wake { updOp s id fun o => if o.state = .running then { o with state := .queued } else o with
      porters := tblDel s.porters n } := by
    simp only [resetPorter, runs]
  rw [requeued]
  constructor
  · change (tblFind (tblUpd s.porterOps id _) id).map _ = _
    simp [tblFind_upd, op, state]
  · change tblFind (tblDel s.porters n) n = none
    simp [tblFind_del]

/-- Settles O51: a reset that is asked for is a request (`resetAsked_answers`); the package's keeps the second tier and the
flash. -/
theorem resetEvents : Obligations.ResetEvents := by
  unfold Obligations.ResetEvents
  refine ⟨?package, ?asked, ?paorid, ?die, ?porter, ?relay, ?queues⟩
  case package =>
    intro s taken
    exact ⟨resetPackage s, exec_packageReset taken, rfl, byteAt_resetPackage s, rfl, rfl, rfl, rfl, rfl, rfl, rfl⟩
  case asked =>
    intro s i there t asked
    obtain ⟨f, body, does⟩ := resetAsked_answers asked
    exact resetRequest_answers body does
  case paorid =>
    intro s other
    change execPaoridReset s = _
    unfold execPaoridReset
    split
    · next input => exact absurd input other
    · rfl
  case die =>
    intro s die input below
    change execZcDieReset s = _
    simp only [execZcDieReset, input, if_pos below]
  case porter =>
    intro s n input
    change execPorterNoProgress s = _
    simp only [execPorterNoProgress, input]
  case relay =>
    intro s n input
    change execRelayNoProgress s = _
    simp only [execRelayNoProgress, input]
  case queues => exact fun s n id o runs op state => resetPorter_queues runs op state

end Sys2Proof.Machine
